-- ==== Sys2Proof/Word.lean ====
section
/-! DEFINITION. The words of the shelf control link: octets and the fixed-width fields that cells carry
(R210, R211). Everything the manual treats as a named value or a count is not a bit vector and stands in
Syntax.lean and Machine/Types.lean. -/

namespace Sys2Proof

/-- One octet of a cell; a unit address and an order or step tag are octets too (R211). -/
abbrev Octet := BitVec 8

/-- A 16-bit field: a command, requester or dispatch tag, and the raw LEN and time fields of commands (R211). -/
abbrev Half := BitVec 16

/-- A 24-bit field: a voltage, current, capacitance or length (section 11.6). -/
abbrev Triple := BitVec 24

/-- A 32-bit field: a resistance, a stamp, a 32-bit count (section 11.6). -/
abbrev Quad := BitVec 32

end Sys2Proof
end

