-- ==== Sys2Proof/Machine/Tab.lean ====
section
/-! DEFINITION. The sparse table every numbered table of the part is kept in: a list of (number, contents)
pairs, numbers rising, that lists only the entries whose contents differ from the value all entries share
after power-on reset. -/

namespace Sys2Proof.Machine

/-- A numbered table whose unlisted entries hold one stated value. -/
abbrev Tab (α : Type) := List (Nat × α)

/-- The contents of entry `k`; `d` is what an unlisted entry holds. -/
def tabGet {α : Type} (d : α) (t : Tab α) (k : Nat) : α :=
  match t with
  | [] => d
  | (j, v) :: rest => if j = k then v else tabGet d rest k

/-- The table without entry `k`. -/
def tabDrop {α : Type} (t : Tab α) (k : Nat) : Tab α :=
  match t with
  | [] => []
  | (j, v) :: rest => if j = k then tabDrop rest k else (j, v) :: tabDrop rest k

/-- Entry `k` placed in front of the first listed entry of a higher number. -/
def tabInsert {α : Type} (t : Tab α) (k : Nat) (v : α) : Tab α :=
  match t with
  | [] => [(k, v)]
  | (j, w) :: rest => if k < j then (k, v) :: (j, w) :: rest else (j, w) :: tabInsert rest k v

/-- Entry `k` replaced by `v`; an entry that comes to hold the shared value `d` is no longer listed. -/
def tabPut {α : Type} [DecidableEq α] (d : α) (t : Tab α) (k : Nat) (v : α) : Tab α :=
  if v = d then tabDrop t k else tabInsert (tabDrop t k) k v

/-- Entry `k` changed by `f`. -/
def tabMod {α : Type} [DecidableEq α] (d : α) (t : Tab α) (k : Nat) (f : α → α) : Tab α :=
  tabPut d t k (f (tabGet d t k))

/-- The numbers of a table rise, so that no entry is listed twice. -/
def tabRising {α : Type} (t : Tab α) : Prop :=
  (t.map (·.1)).Pairwise (· < ·)

end Sys2Proof.Machine
end

