-- ==== Sys2Proof/Syntax.lean ====
section
/-! DEFINITION. The steps of the line test controller, one constructor of `Instr` for each row of
spec/opcode_table.json, with the operands the step needs: the cell that arrives, the timer that runs out,
or the source, tag and fields of a command. Field operands are raw (as a cell carries them), so that every
value the rules refuse can be written. -/

namespace Sys2Proof

/-- A cell of 16 octets (section 11.1): octet 0 the kind, 1 the source, 2 the destination, 3 to 14 the
payload, 15 the cell check. -/
structure Cell where
  kind : Octet
  src : Octet
  dst : Octet
  payload : List Octet
  check : Octet
  deriving DecidableEq, Repr

/-- The two link ports (section 1.1). -/
inductive Side where
  | north
  | south
  deriving DecidableEq, Repr

/-- The two insertion queues that have an offer backlog (R15). -/
inductive OfferQueue where
  | urgent
  | south
  deriving DecidableEq, Repr

/-- A program step as a WRITE_PROGRAM cell packs it (section 11.6). -/
structure RawStep where
  kind : Nat
  leg : Nat
  stimulus : Triple
  window : Octet
  digits : Octet
  deriving DecidableEq, Repr

/-- The argument octets of WRITE_PROFILE, in the order of the table of section 3.3. -/
structure ProfileArgs where
  number : Octet
  ground : Quad
  short : Quad
  insulation : Quad
  foreignDc : Triple
  foreignAc : Triple
  capTipRing : Triple
  capLegGround : Triple
  minLength : Triple
  speedMin : Half
  speedMax : Half
  ratioMin : Octet
  ratioMax : Octet
  deriving DecidableEq, Repr

/-- The argument octets of WRITE_SCHEDULE, in the order of the table of section 9.2; `enables` has one bit
for each match field, from bit 0 for the minute. -/
structure ScheduleArgs where
  number : Octet
  enable : Octet
  minute : Octet
  hour : Octet
  weekday : Octet
  day : Octet
  month : Octet
  enables : Octet
  first : Half
  last : Half
  program : Octet
  window : Octet
  duration : Half
  report : Octet
  deriving DecidableEq, Repr

/-- The timebase mode a WRITE_HEAD names (R56); `other` is a field that names neither mode. -/
inductive ModeField where
  | hourly
  | continuous
  | other
  deriving DecidableEq, Repr, Inhabited

/-- Where a TICKET_LIST begins (R161); `other` is a first octet that is neither START nor 0. -/
inductive ListFrom where
  | start
  | after (id : Octet)
  | other
  deriving DecidableEq, Repr

/-- A whole command of the catalogue (section 10.2) with its arguments. WRITE_PROGRAM has its three cell
forms (section 3.4). `wrongParts code` is a command sent in a number of parts that is not its own, or a cell
that breaks an assembly (R213). -/
inductive Command where
  | unknown (code : Octet)
  | wrongParts (code : Octet)
  | enableService
  | suspendService
  | restart
  | busRemove (bus : Octet)
  | busRestore (bus : Octet)
  | forceRelease (len : Half)
  | writeLine (len : Half) (lineType profile group flags : Octet)
  | clearLine (len : Half)
  | writeProfile (a : ProfileArgs)
  | writeProgramStep (program : Octet) (index : Nat) (step : RawStep)
  | writeProgramFinal (program : Octet) (index count : Nat) (routine : Bool) (step : RawStep)
  | writeProgramClear (program : Octet)
  | writeHead (head : Octet) (interval : Half) (target : Octet) (mode : ModeField)
  | writeHazard (danger clear : Triple)
  | writePrivilege (unit groups : Octet)
  | writeGroupThreshold (group threshold : Octet)
  | writeSchedule (a : ScheduleArgs)
  | sweepStart (schedule : Octet)
  | sweepStop (schedule : Octet)
  | setTime (second minute hour weekday day month : Octet) (year : Half)
  | adjustTime
  | testRequest (len : Half) (program : Octet) (requesterTag waitLimit : Half)
  | cancel (requesterTag : Half)
  | ticketRead (id : Octet)
  | ticketList (place : ListFrom)
  | ticketDispatch (id : Octet) (dispatchTag : Half)
  | ticketClose (id : Octet) (force : Bool)
  | cableAck (group : Octet)
  | readLine (len : Half)
  | readTime
  | readStatus
  | readBus
  | readHeadCounts
  | readQueue (position : Octet)
  | readSweep (schedule : Octet)
  | setNotices (kinds : Octet)
  deriving DecidableEq, Repr

/-- The steps of the part, one constructor for each row of spec/opcode_table.json, in the table's order. -/
inductive Instr where
  | resetAssert
  | powerOnReset (straps : BitVec 2)
  | huntSearch (port : Side) (octet : Octet)
  | presyncCell (port : Side) (cell : Option Cell)
  | noSignalCellTime (port : Side)
  | badCell (port : Side) (cell : Cell)
  | idleCell (port : Side) (cell : Cell)
  | transitCell (port : Side) (cell : Cell)
  | discardCell (port : Side) (cell : Cell)
  | lineReport (cell : Cell)
  | lineOrder (cell : Cell)
  | scanSummary (cell : Cell)
  | auditReport (cell : Cell)
  | orderAck (cell : Cell)
  | sample (cell : Cell)
  | commandIntake (cell : Cell)
  | freeRunningSlot (port : Side)
  | northInsertion
  | southInsertion
  | offerBacklogJoin (queue : OfferQueue)
  | paceTimerExpiry
  | unknownCommand (src : Octet) (tag : Half) (code : Octet)
  | enableService (src : Octet) (tag : Half)
  | suspendService (src : Octet) (tag : Half)
  | restart (src : Octet) (tag : Half)
  | busRemove (src : Octet) (tag : Half) (bus : Octet)
  | busRestore (src : Octet) (tag : Half) (bus : Octet)
  | forceRelease (src : Octet) (tag : Half) (len : Half)
  | writeLine (src : Octet) (tag : Half) (len : Half) (lineType profile group flags : Octet)
  | clearLine (src : Octet) (tag : Half) (len : Half)
  | writeProfile (src : Octet) (tag : Half) (a : ProfileArgs)
  | writeProgramStep (src : Octet) (tag : Half) (program : Octet) (index : Nat) (step : RawStep)
  | writeProgramFinal (src : Octet) (tag : Half) (program : Octet) (index count : Nat) (routine : Bool) (step : RawStep)
  | writeProgramClear (src : Octet) (tag : Half) (program : Octet)
  | writeHead (src : Octet) (tag : Half) (head : Octet) (interval : Half) (target : Octet) (mode : ModeField)
  | writeHazard (src : Octet) (tag : Half) (danger clear : Triple)
  | writePrivilege (src : Octet) (tag : Half) (unit groups : Octet)
  | writeGroupThreshold (src : Octet) (tag : Half) (group threshold : Octet)
  | writeSchedule (src : Octet) (tag : Half) (a : ScheduleArgs)
  | sweepStart (src : Octet) (tag : Half) (schedule : Octet)
  | sweepStop (src : Octet) (tag : Half) (schedule : Octet)
  | setTime (src : Octet) (tag : Half) (second minute hour weekday day month : Octet) (year : Half)
  | adjustTime (src : Octet) (tag : Half)
  | testRequest (src : Octet) (tag : Half) (len : Half) (program : Octet) (requesterTag waitLimit : Half)
  | cancel (src : Octet) (tag : Half) (requesterTag : Half)
  | ticketRead (src : Octet) (tag : Half) (id : Octet)
  | ticketList (src : Octet) (tag : Half) (place : ListFrom)
  | ticketDispatch (src : Octet) (tag : Half) (id : Octet) (dispatchTag : Half)
  | ticketClose (src : Octet) (tag : Half) (id : Octet) (force : Bool)
  | cableAck (src : Octet) (tag : Half) (group : Octet)
  | readLine (src : Octet) (tag : Half) (len : Half)
  | readTime (src : Octet) (tag : Half)
  | readStatus (src : Octet) (tag : Half)
  | readBus (src : Octet) (tag : Half)
  | readHeadCounts (src : Octet) (tag : Half)
  | readQueue (src : Octet) (tag : Half) (position : Octet)
  | readSweep (src : Octet) (tag : Half) (schedule : Octet)
  | setNotices (src : Octet) (tag : Half) (kinds : Octet)
  | heartbeatTimerExpiry (shelf : Fin 16)
  | auditTimerExpiry (shelf : Fin 16)
  | waitTimerExpiry (len : Fin 4096) (program : Fin 32)
  | orderWaitListEntry
  | orderTimeout (tag : Octet)
  | releaseRetryTimerExpiry (bus : Fin 4)
  | quarantineTimerExpiry (bus : Fin 4)
  | dialSessionTimerExpiry (session : Fin 8)
  | silenceTimerExpiry (bus : Fin 4)
  | digitTimerExpiry (session : Fin 8)
  | timebaseTimerExpiry (head : Fin 4)
  | loadTimerExpiry (program : Fin 32)
  | calendarSecond
  | durationTimerExpiry (schedule : Fin 8)
  | resultDelivery
  | noticeDelivery (unit : Fin 9)
  | lineAgeSecond
  deriving DecidableEq, Repr

end Sys2Proof
end

