-- ==== Sys2Proof/Machine/Types.lean ====
section
/-! DEFINITION. The pieces of state of the nine blocks (section "Block overview" of the introduction), one
structure for each table entry the chapters describe. Line, bus, program, schedule, ticket and similar numbers
are plain numbers; addresses, tags and cell octets are bits. -/

namespace Sys2Proof.Machine

/-! ### Link ports (chapter 1) -/

/-- The delineation state of a receiver (R2 to R4). -/
inductive Delineation where
  | hunt
  | presync
  | sync
  deriving DecidableEq, Repr, Inhabited

/-- One port's receiver with its status (sections 1.3 and 1.9). `huntOctets` holds the octets since the last
position passed over in HUNT, fewer than 16. -/
structure Port where
  delineation : Delineation
  confirmed : Nat
  badRun : Nat
  huntOctets : List Octet
  checkError : Bool
  delineationLost : Bool
  intakeOverrun : Bool
  badChecks : Nat
  dropped : Nat
  deriving DecidableEq, Repr

/-- What a transmit pair last carried: nothing since power-on, a whole cell, a cell cut short by RESET, the
octets the bypass repeats, or such a repeat cut short (R11, R12, R20). -/
inductive Transmit where
  | quiet
  | cell (c : Cell)
  | cut (c : Cell)
  | repeated (octets : List Octet)
  | cutRepeat (octets : List Octet)
  deriving DecidableEq, Repr

/-- The link ports: pins, receivers, transmitters, insertion queues and command intake. `slots` counts the
insertion opportunities a transmitter has been given and not yet used (R12). -/
structure Ports where
  resetAsserted : Bool
  straps : BitVec 2
  north : Port
  south : Port
  northTx : Transmit
  southTx : Transmit
  northSlots : Nat
  southSlots : Nat
  urgent : List Cell
  urgentBacklog : List Cell
  normal : List Cell
  reserved : Nat
  southQueue : List Cell
  southBacklog : List Cell
  intake : List Cell
  deriving DecidableEq, Repr

/-! ### Supervision tracker (chapter 2) -/

/-- The hook state of a line (section 2.1). -/
inductive Hook where
  | unknown
  | idle
  | offHook
  | ringing
  | parked
  deriving DecidableEq, Repr

/-- A line state table entry (section 2.1). `writtenAt` is the age clock at the latest write of the hook
state, from which the age is counted. -/
structure Line where
  hook : Hook
  lastForwarded : Hook
  writtenAt : Nat
  cutOff : Bool
  blocked : Bool
  deriving DecidableEq, Repr

/-- The freshness of a shelf (section 2.2). -/
inductive Freshness where
  | fresh
  | drift
  | stale
  deriving DecidableEq, Repr

/-- An audit attempt in flight: its tag, its timer (none until its order joins the South queue, R28) and the
reports kept against their cards (R29). -/
structure Audit where
  tag : Nat
  timer : Option Nat
  cards : Tab (List Hook)
  deriving DecidableEq, Repr

/-- A shelf table entry (section 2.2); `released` is the riser release state RELEASED. -/
structure Shelf where
  freshness : Freshness
  ringing : Nat
  offHook : Nat
  mismatch : Bool
  heartbeat : Option Nat
  audit : Option Audit
  auditRetries : Nat
  released : Bool
  deriving DecidableEq, Repr

/-- The tracker's two tables and the clock that line ages are counted on. -/
structure Tracker where
  lines : Tab Line
  shelves : Tab Shelf
  ageClock : Nat
  deriving DecidableEq, Repr

/-! ### Table store (chapter 3) -/

/-- The four line types (section 3.2). -/
inductive LineType where
  | plain
  | coin
  | pbxTrunk
  | dataOverVoice
  deriving DecidableEq, Repr

/-- A provisioned directory entry (section 3.2). -/
structure DirectoryEntry where
  lineType : LineType
  profile : Nat
  group : Option Nat
  noRoutine : Bool
  emergency : Bool
  noDialTest : Bool
  deriving DecidableEq, Repr

/-- A threshold profile (section 3.3). -/
structure Profile where
  loaded : Bool
  ground : Nat
  short : Nat
  insulation : Nat
  foreignDc : Nat
  foreignAc : Nat
  capTipRing : Nat
  capLegGround : Nat
  minLength : Nat
  speedMin : Nat
  speedMax : Nat
  ratioMin : Nat
  ratioMax : Nat
  deriving DecidableEq, Repr

/-- A leg of the loop. -/
inductive Leg where
  | tipGround
  | ringGround
  | tipRing
  deriving DecidableEq, Repr

/-- A step of a loaded program, with the fields its kind carries (section 3.4, R50). -/
inductive ProgramStep where
  | fv (leg : Leg) (window : Nat)
  | res (leg : Leg) (stimulus : Int) (window : Nat)
  | cap (leg : Leg) (stimulus : Int) (window : Nat)
  | dial (limit : Nat)
  deriving DecidableEq, Repr

/-- A test program; no steps is an empty program (section 3.4). -/
structure Program where
  steps : List ProgramStep
  routineAllowed : Bool
  deriving DecidableEq, Repr

/-- A load buffer that is LOADING: its owner, its steps keyed by step index, and the ms left of its load
timer (section 3.4). -/
structure LoadBuffer where
  owner : Octet
  steps : Tab (Option ProgramStep)
  timer : Nat
  deriving DecidableEq, Repr

/-- The timebase mode of a head (section 3.5). -/
inductive TimebaseMode where
  | hourly
  | continuous
  deriving DecidableEq, Repr

/-- A head table entry (section 3.5). -/
structure Head where
  interval : Nat
  target : Octet
  mode : TimebaseMode
  deriving DecidableEq, Repr

/-- The six command groups (section 3.7). -/
inductive CommandGroup where
  | query
  | test
  | ticket
  | schedule
  | table
  | service
  deriving DecidableEq, Repr

/-- The table store (chapter 3). -/
structure Tables where
  directory : Tab (Option DirectoryEntry)
  profiles : Tab Profile
  programs : Tab Program
  buffers : Tab (Option LoadBuffer)
  heads : Tab Head
  danger : Nat
  clear : Nat
  privileges : List (Octet × List CommandGroup)
  thresholds : Tab Nat
  deriving DecidableEq, Repr

/-! ### Access arbiter (chapter 4) -/

/-- The service state (section 4.1). -/
inductive Service where
  | starting
  | unconfigured
  | inService
  | suspended
  deriving DecidableEq, Repr

/-- The test mark of a line (section 4.2). -/
inductive Mark where
  | free
  | reserved
  | inSession
  | lockedOut
  deriving DecidableEq, Repr, Inhabited

/-- The class of a request: demand, or routine with the number of its schedule (section 4.3). -/
inductive RequestClass where
  | demand
  | routine (schedule : Nat)
  deriving DecidableEq, Repr

/-- A requester: a unit address and a requester tag (section 4.3). -/
structure Requester where
  unit : Octet
  tag : Half
  deriving DecidableEq, Repr

/-- A preemption reservation: a bus, or a bus and a riser named by its shelf (section 4.5). -/
structure Reservation where
  bus : Nat
  riser : Option Nat
  deriving DecidableEq, Repr

/-- A request queue entry (section 4.3); `waitMs` is what its wait timer has left. -/
structure Entry where
  line : Nat
  program : Nat
  cls : RequestClass
  requesters : List Requester
  returned : Bool
  waitMs : Nat
  seenBusy : Bool
  retries : Nat
  reservation : Option Reservation
  slot : Option Nat
  deriving DecidableEq, Repr

/-- The access arbiter but for its session table, which stands with the session engine. -/
structure Arbiter where
  service : Service
  returnTo : Service
  marks : Tab Mark
  holds : Tab Bool
  queue : List Entry
  admissions : Nat
  deriving DecidableEq, Repr

/-! ### Session engine (chapter 5) -/

/-- How a session ends (section 5.3, code table of R211). -/
inductive EndOutcome where
  | complete
  | abortedCall
  | preempted
  | accessFail
  | hazard
  | lineBusy
  | noResource
  | cancelled
  | headSilent
  | noDigits
  | restarted
  deriving DecidableEq, Repr

/-- The kind of a step as a result reports it. -/
inductive StepKind where
  | fv
  | res
  | cap
  | dial
  deriving DecidableEq, Repr

/-- The status of a step result (sections 5.3 and 6.1). -/
inductive StepStatus where
  | value
  | invalid
  | foreign
  | noData
  | notRun
  deriving DecidableEq, Repr

/-- A dialled digit (R136): its value (none is OVER_COUNT), and for two or more breaks its speed and break
ratio. -/
structure Digit where
  value : Option Nat
  timing : Option (Nat × Nat)
  deriving DecidableEq, Repr

/-- A step result (section 6.1); the fields a status or kind does not carry are 0 and clear. -/
structure StepResult where
  status : StepStatus
  kind : StepKind
  leg : Option Leg
  retried : Bool
  sized : Nat
  taken : Nat
  lost : Nat
  atMost : Bool
  noisy : Bool
  openLimit : Bool
  negative : Bool
  clamped : Bool
  dc : Int
  ac : Nat
  resistance : Nat
  capacitance : Nat
  length : Nat
  digits : List Digit
  deriving DecidableEq, Repr

/-- The settling verdict (section 5.3). -/
inductive SettlingVerdict where
  | notJudged
  | clear
  | unqualified
  | hazard
  deriving DecidableEq, Repr

/-- The state of a session: RESERVED to RELEASING for a metallic session (section 5.3); RESERVED,
AWAIT_OFF_HOOK and COLLECTING for a DIAL session (R109). An ENDED session has left the table. -/
inductive SessionState where
  | reserved
  | connecting
  | settling
  | measuring
  | releasing
  | awaitOffHook
  | collecting
  deriving DecidableEq, Repr

/-- A session: its table entry (section 4.6) with its record and state (section 5.3). `bus` is absent for a
DIAL session. `ringGround` says the second settling window is being run, `belowSoFar` that the first had every
sample below the clear level; `step` is the program step being run and `repeated` that its window is a repeat;
`accessReleased` says that the ACCESS RELEASE of the release has been acknowledged; `dialTimer` is the 20 s
timer of a DIAL session. -/
structure Session where
  line : Nat
  program : Nat
  cls : RequestClass
  requesters : List Requester
  bus : Option Nat
  admission : Nat
  retries : Nat
  waitMs : Nat
  slot : Option Nat
  held : Option Cell
  preempted : Bool
  state : SessionState
  started : Option Nat
  results : List StepResult
  verdict : SettlingVerdict
  noData : Nat
  supervisionLost : Bool
  outcome : Option EndOutcome
  ringGround : Bool
  belowSoFar : Bool
  step : Nat
  repeated : Bool
  accessReleased : Bool
  dialTimer : Option Nat
  deriving DecidableEq, Repr

/-- The state of a bus (R88). -/
inductive BusState where
  | free
  | attached
  | quarantine
  | outOfService
  | stuck
  deriving DecidableEq, Repr

/-- The holder of a bus (R88). -/
inductive Holder where
  | none
  | session (id : Nat)
  | cleanUp
  deriving DecidableEq, Repr

/-- The release order a release retry keeps pending (R101, R102). -/
inductive PendingRelease where
  | access (line : Nat)
  | riser (shelf : Nat)
  deriving DecidableEq, Repr

/-- A release retry (section 5.1); a stopped timer is none. -/
structure ReleaseRetry where
  order : PendingRelease
  resends : Nat
  timer : Option Nat
  deriving DecidableEq, Repr

/-- A bus table entry (section 5.1); `quarantine` is the ms left of a running quarantine timer. -/
structure Bus where
  state : BusState
  removePending : Bool
  holder : Holder
  quarantine : Option Nat
  retry : Option ReleaseRetry
  nextTag : Nat
  deriving DecidableEq, Repr

/-- The state of a shelf's riser (R89). -/
inductive Riser where
  | free
  | operated (bus : Nat)
  | unknown (bus : Nat)
  deriving DecidableEq, Repr

/-- The five relay orders (section 5.2). -/
inductive OrderKind where
  | riserOperate
  | accessOperate
  | accessRelease
  | riserRelease
  | releaseAll
  deriving DecidableEq, Repr

/-- The owner of a relay order (R90); a RELEASE ALL made under R115 is told from one of the start-up
release. -/
inductive Owner where
  | session (id : Nat)
  | cleanUp (bus : Nat)
  | retry (bus : Nat)
  | startUp (shelf : Nat)
  | freshRelease (shelf : Nat)
  deriving DecidableEq, Repr

/-- A relay order: what it is, where it goes, the bus (riser orders) or line (access orders) it carries, and
its owner (R90). -/
structure Order where
  kind : OrderKind
  shelf : Nat
  bus : Nat
  line : Nat
  owner : Owner
  deriving DecidableEq, Repr

/-- An entry of the outstanding order table; its 40 ms timer is none until the order joins the South
queue (R90). -/
structure OutstandingOrder where
  tag : Nat
  order : Order
  timer : Option Nat
  deriving DecidableEq, Repr

/-- The session engine (section 5.1) with the session table. `startUp` lists the shelves whose start-up
release is not done (R114). -/
structure Engine where
  buses : Tab Bus
  risers : Tab Riser
  sessions : Tab (Option Session)
  orders : List OutstandingOrder
  waiting : List Order
  candidate : Nat
  releaseAllAt : Tab (Option Nat)
  startUp : List Nat
  deriving DecidableEq, Repr

/-! ### Measurement unit (chapter 6) -/

/-- The kind of a window (section 6.1). -/
inductive WindowKind where
  | settling
  | fv
  | res
  | cap
  deriving DecidableEq, Repr

/-- A window open on a bus (section 6.1); `tail` holds voltage and current of the latest accumulated samples,
oldest first; `line` is the session's
line, whose shelf's ringing the window follows. -/
structure Window where
  tag : Nat
  kind : WindowKind
  leg : Leg
  line : Nat
  sized : Nat
  interval : Nat
  taken : Nat
  sumV : Int
  sumVV : Int
  sumI : Int
  tail : List (Int × Int)
  lastSeq : Option Nat
  lost : Nat
  ringingMax : Nat
  hazardRun : Nat
  belowClear : Bool
  atMost : Bool
  silence : Option Nat
  deriving DecidableEq, Repr

/-- The phase of a pulse collector (section 6.6). -/
inductive Phase where
  | closed
  | waiting
  | active
  deriving DecidableEq, Repr

/-- A pulse collector (section 6.6). `loopOpen` is the confirmed state of the loop; `pending` is a transition
(true for LOOP_OPEN) with its timestamp. -/
structure Collector where
  phase : Phase
  limit : Nat
  loopOpen : Bool
  pending : Option (Bool × Nat)
  closedSince : Option Nat
  breaks : Nat
  firstStart : Nat
  latestStart : Nat
  latestLength : Nat
  earlierSum : Nat
  digits : List Digit
  timer : Option Nat
  deriving DecidableEq, Repr

/-- A sample-loss checker (section 6.7); its timer is in ms. -/
structure Checker where
  running : Nat
  latched : Nat
  timer : Nat
  exceeded : Bool
  degraded : Bool
  deriving DecidableEq, Repr

/-- The measurement unit: accumulators by bus, collectors by session, checkers by head. -/
structure Measurement where
  windows : Tab (Option Window)
  collectors : Tab Collector
  checkers : Tab Checker
  deriving DecidableEq, Repr

/-! ### Ticket manager (chapters 7 and 8) -/

/-- The twelve fault classes in class order (section 7.1). -/
inductive FaultClass where
  | tipGround
  | ringGround
  | short
  | lowInsulation
  | foreignDc
  | foreignAc
  | openLoop
  | dialFault
  | crossHazard
  | accessFail
  | headDegraded
  | cableStorm
  deriving DecidableEq, Repr

/-- The subject of a ticket (section 7.2). -/
inductive Subject where
  | line (len : Nat)
  | shelf (n : Nat)
  | head (n : Nat)
  | cableGroup (n : Nat)
  deriving DecidableEq, Repr

/-- The state of a ticket (section 7.3). -/
inductive TicketState where
  | suspect
  | opened
  | dispatched
  | cleared
  deriving DecidableEq, Repr

/-- The origin of a ticket (section 7.2). -/
inductive Origin where
  | demand
  | routine
  | equipment
  deriving DecidableEq, Repr, Inhabited

/-- A ticket (section 7.2); `acknowledged` is used by cable tickets only. -/
structure Ticket where
  id : Nat
  subject : Subject
  cls : FaultClass
  state : TicketState
  origin : Origin
  opened : Option Nat
  lastSeen : Option Nat
  occurrences : Nat
  recurrences : Nat
  value : Option Int
  dispatch : Option Half
  attached : Option Nat
  acknowledged : Bool
  deriving DecidableEq, Repr

/-- A cable group table entry (section 8.1). -/
structure CableGroup where
  storm : Bool
  count : Nat
  ticket : Option Nat
  deriving DecidableEq, Repr

/-- The ticket manager: the tickets in opening order and the cable group table. -/
structure TicketManager where
  tickets : List Ticket
  groups : Tab CableGroup
  deriving DecidableEq, Repr

/-! ### Calendar and sweep scheduler (chapter 9) -/

/-- The calendar (section 9.1); `running` is the state RUNNING. -/
structure Calendar where
  running : Bool
  prescaler : Nat
  second : Nat
  minute : Nat
  hour : Nat
  weekday : Nat
  day : Nat
  month : Nat
  year : Nat
  deriving DecidableEq, Repr

/-- A schedule's configuration (section 9.2); a match field whose own enable is clear is none, its value
kept beside it for READ_SWEEP. -/
structure ScheduleConfig where
  enable : Bool
  minute : Nat
  hour : Nat
  weekday : Nat
  day : Nat
  month : Nat
  onMinute : Bool
  onHour : Bool
  onWeekday : Bool
  onDay : Bool
  onMonth : Bool
  first : Nat
  last : Nat
  program : Nat
  window : Nat
  durationMinutes : Nat
  report : Bool
  deriving DecidableEq, Repr

/-- The run state of a schedule (section 9.2). -/
inductive RunState where
  | idle
  | active
  | complete
  | incomplete
  | stopped
  deriving DecidableEq, Repr

/-- A schedule's run (section 9.2): no cursor is RANGE_DONE; an outstanding line carries true for the
attempt mark RETRY; the duration timer is in ms. -/
structure SweepRun where
  state : RunState
  cursor : Option Nat
  outstanding : List (Nat × Bool)
  deferredLines : List Nat
  timer : Option Nat
  tested : Nat
  failed : Nat
  skipped : Nat
  stormSkipped : Nat
  deferred : Nat
  deriving DecidableEq, Repr

/-- A schedule: no configuration is unwritten (section 9.2). -/
structure Schedule where
  config : Option ScheduleConfig
  run : SweepRun
  deriving DecidableEq, Repr

/-! ### Command interpreter, result store and notices (chapter 10) -/

/-- The pace timer: stopped, running with the ms left, or run out with the intake FIFO empty (R196). -/
inductive Pace where
  | stopped
  | running (ms : Nat)
  | waiting
  deriving DecidableEq, Repr

/-- A part assembly of a source (R213): the tag and code, the part count and the argument octets of the parts
taken so far. -/
structure Assembly where
  source : Octet
  tag : Half
  code : Octet
  count : Nat
  parts : List (List Octet)
  deriving DecidableEq, Repr

/-- What a ticket action did (R150, code table of R211). -/
inductive TicketAction where
  | created
  | opened
  | reopened
  | cleared
  | removed
  deriving DecidableEq, Repr

/-- A result record (R205, R206). `failed` pairs each failed class with its NOT_TICKETED mark. -/
structure ResultRecord where
  line : Nat
  lineType : Option LineType
  program : Nat
  cls : RequestClass
  session : Option Nat
  outcome : EndOutcome
  supervisionLost : Bool
  started : Option Nat
  ended : Option Nat
  results : List StepResult
  failed : List (FaultClass × Bool)
  actions : List (Nat × TicketAction)
  deriving DecidableEq, Repr

/-- A recipient of a record: the unit, and the header's first field (requester tag or schedule number). -/
structure Recipient where
  unit : Octet
  tag : Half
  deriving DecidableEq, Repr

/-- A result store slot (section 10.4). A FILLED slot keeps the recipients still to be served and how many
cells of the first of them have joined. -/
inductive Slot where
  | free
  | reserved
  | filled (record : ResultRecord) (recipients : List Recipient) (sent : Nat)
  deriving DecidableEq, Repr

/-- The kinds of notice a mask can hold (section 10.5). -/
inductive NoticeKind where
  | ticket
  | cable
  | sweep
  | bus
  | restart
  deriving DecidableEq, Repr

/-- The ticket state a notice carries (R164). -/
inductive NoticeState where
  | suspect
  | opened
  | dispatched
  | cleared
  | closed
  | evicted
  deriving DecidableEq, Repr

/-- A notice with its content (section 10.5, section 11.7). -/
inductive Notice where
  | ticket (id : Nat) (subject : Subject) (cls : FaultClass) (state : NoticeState)
  | cable (group : Nat) (storm : Bool) (count threshold : Nat) (ticket : Option Nat) (noSlot : Bool)
  | sweep (schedule : Nat) (state : RunState) (unfit : Bool) (cursor : Option Nat)
      (tested failed skipped stormSkipped deferred : Nat)
  | bus (bus : Nat) (state : BusState)
  | restart (returnTo : Service)
  deriving DecidableEq, Repr

/-- The notice state of a unit (section 10.5). -/
structure NoticeUnit where
  mask : List NoticeKind
  pending : List Notice
  resync : Bool
  deriving DecidableEq, Repr

/-- The command interpreter, the result store and the notice logic. -/
structure Interpreter where
  pace : Pace
  assemblies : List Assembly
  slots : Tab Slot
  fillingOrder : List Nat
  units : Tab NoticeUnit
  deriving DecidableEq, Repr

/-! ### Work handed on inside a step -/

/-- A report from the arbiter to a schedule (R188, R189); `failed` says that a record lists a failed class. -/
inductive SweepReport where
  | ended (outcome : EndOutcome) (failed : Bool)
  | satisfied (failed : Bool)
  | handedBack
  | skipped
  deriving DecidableEq, Repr

/-- Work one block hands another inside a step: an examination event (R73), a report to a schedule (R188), or
the filling of a schedule's window (R186). -/
inductive Todo where
  | examine
  | report (schedule line : Nat) (what : SweepReport)
  | fill (schedule : Nat)
  deriving DecidableEq, Repr

end Sys2Proof.Machine
end

