-- ==== Sys2Proof/Config.lean ====
section
/-! DEFINITION. What the manual fixes as numbers of the part, and what it leaves open. A constant with a body
is a number of the manual; an `opaque` constant is a value the manual does not state, and nothing can be proved
of it (notes/assumptions say which). -/

namespace Sys2Proof.Machine.Config

/-! ### Sizes and times the manual fixes -/

/-- Capacities of the insertion queues and the intake FIFO (R13 to R17). -/
def urgentCapacity : Nat := 16
def normalCapacity : Nat := 48
def southCapacity : Nat := 32
def intakeCapacity : Nat := 16

/-- The request queue's limits (R68). -/
def queueCapacity : Nat := 64
def routineCapacity : Nat := 48

/-- Entries of the outstanding order table (R90), session places (section 4.6), result slots (section 10.4),
pending notices of a unit (section 10.5), deferred lines (R190), privilege entries (section 3.7). -/
def orderCapacity : Nat := 16
def sessionPlaces : Nat := 8
def dialPlaces : Nat := 4
def resultSlots : Nat := 32
def pendingCapacity : Nat := 16
def deferredCapacity : Nat := 32
def privilegeCapacity : Nat := 16

/-- Ticket slots 0 to 239 are general, 240 to 255 reserved (section 7.2). -/
def generalSlots : Nat := 240
def ticketSlots : Nat := 256

/-- Timers, in ms. -/
def heartbeatMs : Nat := 500
def auditMs : Nat := 1000
def orderMs : Nat := 40
def quarantineMs : Nat := 2000
def retryMs : Nat := 1000
def releaseAllGapMs : Nat := 1000
def dialSessionMs : Nat := 20000
def digitMs : Nat := 251
def loadMs : Nat := 10000
def timebaseMs : Nat := 3600000

/-- Saturation values of the counts (R19, R139, section 7.2, section 9.2). -/
def maxCount32 : Nat := 4294967295
def maxCount16 : Nat := 65535

/-! ### Values the manual does not state -/

/-! #### Named values without a row in the code table of R211

R211 codes a named value from 1 in the order of its row, 0 standing for an absent value. Where there is no row, the
order is free: an opaque number picks one of the orders of the names, and the code of a name is its place in it, from
1. -/

/-- The `order`-th of the orders of some names. -/
def ordering {α : Type} : List α → Nat → List α
  | [], _ => []
  | x :: rest, order => (ordering rest (order / (rest.length + 1))).insertIdx (order % (rest.length + 1)) x

/-- The place of a name in the `order`-th order, from 1 (R211). -/
def namedCode {α : Type} [BEq α] (names : List α) (order : Nat) (x : α) : Nat :=
  1 + (ordering names order).idxOf x

/-- The orders in which R211 codes the test marks, the delineation states, the calendar states, the timebase modes, the
riser states, the classes of a request and the origins of a ticket: not stated. -/
opaque markOrder : Nat
opaque delineationOrder : Nat
opaque calendarStateOrder : Nat
opaque timebaseModeOrder : Nat
opaque riserStateOrder : Nat
opaque requestClassOrder : Nat
opaque originOrder : Nat

/-- The code of a test mark in a READ_LINE reply (R214). -/
def markCode (m : Mark) : Octet :=
  BitVec.ofNat 8 (namedCode [.free, .reserved, .inSession, .lockedOut] markOrder m)

/-- The code of a delineation state in a READ_STATUS reply (R214). -/
def delineationCode (d : Delineation) : Octet :=
  BitVec.ofNat 8 (namedCode [.hunt, .presync, .sync] delineationOrder d)

/-- The code of the calendar state, NOT_SET or RUNNING, in a READ_TIME response, by whether it is RUNNING (R214). -/
def calendarStateCode (running : Bool) : Octet :=
  BitVec.ofNat 8 (namedCode [false, true] calendarStateOrder running)

/-- The code of a timebase mode in WRITE_HEAD and READ_HEAD_COUNTS (R214). -/
def timebaseModeCode (m : TimebaseMode) : Octet :=
  BitVec.ofNat 8 (namedCode [.hourly, .continuous] timebaseModeOrder m)

/-- The three states of a riser (R89), those of a READ_BUS reply among them. -/
inductive RiserName where
  | free
  | operated
  | unknown
  deriving DecidableEq, Repr

/-- The half-octet of the state of a riser toward a bus, OPERATED or UNKNOWN, in a READ_BUS reply, by whether it is
UNKNOWN (R214). -/
def riserStateCode (unknown : Bool) : BitVec 4 :=
  BitVec.ofNat 4 (namedCode [.free, .operated, .unknown] riserStateOrder
    (if unknown then RiserName.unknown else .operated))

/-- The code of a request's class, demand or routine, in a READ_QUEUE reply, by whether it is routine (R214). -/
def classCode (routine : Bool) : Octet := BitVec.ofNat 8 (namedCode [false, true] requestClassOrder routine)

/-- The code of a ticket's origin in a TICKET_READ response (R214). -/
def originCode (o : Origin) : Octet :=
  BitVec.ofNat 8 (namedCode [.demand, .routine, .equipment] originOrder o)

/-- Which code from 5 to 255 the hook state UNKNOWN has in a READ_LINE reply (R214): the row of R211, with the codes 1
to 4, has no UNKNOWN. -/
opaque unknownHookPlace : Nat
def unknownHookCode : Octet := BitVec.ofNat 8 (5 + unknownHookPlace % 251)

/-- Whether READ_QUEUE rounds a wait time of that many ms, not a whole number of seconds, up (R202). -/
opaque waitRoundsUp : Nat → Bool

/-- The speed and the break ratio of a digit whose span is 0 ms modulo 65,536 (R136 divides by the span). -/
opaque zeroSpanSpeed : Nat → Nat
opaque zeroSpanRatio : Nat → Nat

/-- Whether the later of two failing DC values of that one magnitude and opposite signs is the value of a
FOREIGN_DC failure (R146 names the greatest magnitude only). -/
opaque foreignDcTie : Nat → Bool

end Sys2Proof.Machine.Config
end

