-- ==== Sys2Proof/Machine/Cells.lean ====
section
/-! DEFINITION. The layout of cells (chapter 11): the cell check, the fields and codes, and the payload of each
kind of cell the part makes. -/

namespace Sys2Proof.Machine

/-! ### The cell check (R210) -/

/-- One bit taken into the check register: a shift toward the most significant end, and 0x07 when the bit that
left differs from the message bit. -/
def crcBit (r : Octet) (bit : Bool) : Octet :=
  if r.msb = bit then r <<< 1 else (r <<< 1) ^^^ 0x07#8

/-- One octet taken into the check register, most significant bit first. -/
def crcOctet (r o : Octet) : Octet :=
  [7, 6, 5, 4, 3, 2, 1, 0].foldl (fun r i => crcBit r (o.getLsbD i)) r

/-- The check of a run of octets, from a register of all ones (R210). -/
def crc (os : List Octet) : Octet := os.foldl crcOctet 0xFF#8

/-- The sixteen octets of a cell in link order (section 11.1). -/
def cellOctets (c : Cell) : List Octet := [c.kind, c.src, c.dst] ++ c.payload ++ [c.check]

/-- The cell check agrees with octets 0 to 14 (R1). -/
def goodCheck (c : Cell) : Bool := crc ([c.kind, c.src, c.dst] ++ c.payload) = c.check

/-- Sixteen octets read as a cell. -/
def cellOfOctets : List Octet → Option Cell
  | k :: s :: d :: rest =>
    if rest.length = 13 then some ⟨k, s, d, rest.take 12, rest.getD 12 0⟩ else none
  | _ => none

/-- A payload filled to its 12 octets: an octet a layout leaves unused is 0 (R211). -/
def padPayload (p : List Octet) : List Octet := (p ++ List.replicate 12 0#8).take 12

/-- A cell the part makes, with its check (R210). -/
def makeCell (kind src dst : Octet) (payload : List Octet) : Cell :=
  ⟨kind, src, dst, padPayload payload, crc ([kind, src, dst] ++ padPayload payload)⟩

/-- The IDLE cell the part makes (R210): kind 0x00 and octets 1 to 14 all 0x00. -/
def idleCell : Cell := makeCell 0x00#8 0x00#8 0x00#8 []

/-! ### Fields (R211) -/

/-- Payload octet `i`, octet 3 of the cell being number 0. -/
def payloadAt (c : Cell) (i : Nat) : Octet := c.payload.getD i 0#8

def octet (n : Nat) : Octet := BitVec.ofNat 8 n

/-- Multi-octet numbers go most significant octet first (R211). -/
def octets2 (n : Nat) : List Octet := [octet (n / 256), octet n]
def octets3 (n : Nat) : List Octet := [octet (n / 65536), octet (n / 256), octet n]
def octets4 (n : Nat) : List Octet := [octet (n / 16777216), octet (n / 65536), octet (n / 256), octet n]

/-- A signed number of three octets, in two's complement (R211). -/
def octets3s (i : Int) : List Octet := octets3 (BitVec.ofInt 24 i).toNat

def field2 (c : Cell) (i : Nat) : Half := payloadAt c i ++ payloadAt c (i + 1)
def field3 (c : Cell) (i : Nat) : Triple := payloadAt c i ++ payloadAt c (i + 1) ++ payloadAt c (i + 2)

/-- An octet from its high and low halves. -/
def halves (high low : Nat) : Octet := octet (high % 16 * 16 + low % 16)

/-- A set of flags: one bit for each item in listed order, from bit 0 (section 11.6). -/
def flagOctet (flags : List Bool) : Octet :=
  octet (flags.foldr (fun b n => 2 * n + b.toNat) 0)

def boolOctet (b : Bool) : Octet := if b then 1#8 else 0#8

/-- A stamp: 0xFFFFFFFF stands for NOT_SET (R211). -/
def stampOctets : Option Nat → List Octet
  | some n => octets4 n
  | none => octets4 0xFFFFFFFF

/-- Numbers of 13 bits packed from the top bit of the first octet on (section 11.7, R214). -/
def pack13 (ns : List Nat) (octetCount : Nat) : List Octet :=
  let total := ns.foldl (fun a n => a * 8192 + n % 8192) 0
  let shifted := total * 2 ^ (8 * octetCount - 13 * ns.length)
  (List.range octetCount).map (fun i => octet (shifted / 256 ^ (octetCount - 1 - i)))

/-! ### Addresses (section "Unit addresses" of the introduction) -/

def maintenance : Octet := 0x02#8
def callProcessor : Octet := 0x01#8
def shelfAddress (n : Nat) : Octet := octet (0x10 + n)
def headAddress (bus : Nat) : Octet := octet (0x30 + bus)
def ownAddress (straps : BitVec 2) : Octet := octet (0x40 + straps.toNat)

/-- The shelf whose address this is. -/
def shelfOf (a : Octet) : Option Nat :=
  if 0x10 ≤ a.toNat ∧ a.toNat ≤ 0x1F then some (a.toNat - 0x10) else none

/-- The bus whose head's address this is. -/
def headOf (a : Octet) : Option Nat :=
  if 0x30 ≤ a.toNat ∧ a.toNat ≤ 0x33 then some (a.toNat - 0x30) else none

/-- The shelf of a line. -/
def lineShelf (len : Nat) : Nat := len / 256

/-! ### Cell kinds (section 11.3) -/

def kindIdle : Octet := 0x00#8
def kindLineReport : Octet := 0x11#8
def kindLineOrder : Octet := 0x12#8
def kindScanSummary : Octet := 0x13#8
def kindRelayOrder : Octet := 0x21#8
def kindOrderAck : Octet := 0x22#8
def kindAuditOrder : Octet := 0x23#8
def kindAuditReport : Octet := 0x24#8
def kindHeadOrder : Octet := 0x31#8
def kindSample : Octet := 0x32#8
def kindTestBlock : Octet := 0x41#8
def kindCommand : Octet := 0x51#8
def kindResponse : Octet := 0x52#8
def kindReply : Octet := 0x53#8
def kindHeader : Octet := 0x54#8
def kindStep : Octet := 0x55#8
def kindClosing : Octet := 0x56#8
def kindNotice : Octet := 0x57#8

/-! ### Codes, from 1 in the order of the code table (R211) -/

/-- The report codes a LINE REPORT can carry. -/
inductive Report where
  | offHook
  | onHook
  | loopOpen
  | loopClose
  | park
  | ringTrip
  deriving DecidableEq, Repr

def reportOf (o : Octet) : Option Report :=
  match o.toNat with
  | 1 => some .offHook
  | 2 => some .onHook
  | 3 => some .loopOpen
  | 4 => some .loopClose
  | 5 => some .park
  | 6 => some .ringTrip
  | _ => none

def reportCode : Report → Octet
  | .offHook => 1#8
  | .onHook => 2#8
  | .loopOpen => 3#8
  | .loopClose => 4#8
  | .park => 5#8
  | .ringTrip => 6#8

/-- The line order codes. -/
inductive LineOrderCode where
  | applyRing
  | stopRing
  deriving DecidableEq, Repr

def lineOrderOf (o : Octet) : Option LineOrderCode :=
  match o.toNat with
  | 1 => some .applyRing
  | 2 => some .stopRing
  | _ => none

/-- The hook codes of audits and acknowledgements. -/
def hookOf (n : Nat) : Option Hook :=
  match n with
  | 1 => some .idle
  | 2 => some .offHook
  | 3 => some .ringing
  | 4 => some .parked
  | _ => none

/-- A hook state in a READ_LINE reply; UNKNOWN has no row in the code table. -/
def hookCode : Hook → Octet
  | .unknown => Config.unknownHookCode
  | .idle => 1#8
  | .offHook => 2#8
  | .ringing => 3#8
  | .parked => 4#8

def orderCode : OrderKind → Octet
  | .riserOperate => 1#8
  | .accessOperate => 2#8
  | .accessRelease => 3#8
  | .riserRelease => 4#8
  | .releaseAll => 5#8

def legCode : Leg → Nat
  | .tipGround => 1
  | .ringGround => 2
  | .tipRing => 3

def legCode? : Option Leg → Nat
  | none => 0
  | some l => legCode l

def stepKindCode : StepKind → Nat
  | .fv => 1
  | .res => 2
  | .cap => 3
  | .dial => 4

def lineTypeCode : Option LineType → Nat
  | none => 0
  | some .plain => 1
  | some .coin => 2
  | some .pbxTrunk => 3
  | some .dataOverVoice => 4

def lineTypeOf (o : Octet) : Option LineType :=
  match o.toNat with
  | 1 => some .plain
  | 2 => some .coin
  | 3 => some .pbxTrunk
  | 4 => some .dataOverVoice
  | _ => none

/-- The response codes (section 10.1). -/
inductive ResponseCode where
  | done
  | merged
  | refusedPrivilege
  | state
  | range
  | inUse
  | full
  | notFound
  deriving DecidableEq, Repr

def responseCode : ResponseCode → Octet
  | .done => 1#8
  | .merged => 2#8
  | .refusedPrivilege => 3#8
  | .state => 4#8
  | .range => 5#8
  | .inUse => 6#8
  | .full => 7#8
  | .notFound => 8#8

def outcomeCode : EndOutcome → Octet
  | .complete => 1#8
  | .abortedCall => 2#8
  | .preempted => 3#8
  | .accessFail => 4#8
  | .hazard => 5#8
  | .lineBusy => 6#8
  | .noResource => 7#8
  | .cancelled => 8#8
  | .headSilent => 9#8
  | .noDigits => 10#8
  | .restarted => 11#8

def statusCode : StepStatus → Nat
  | .value => 1
  | .invalid => 2
  | .foreign => 3
  | .noData => 4
  | .notRun => 5

def actionCode : TicketAction → Nat
  | .created => 1
  | .opened => 2
  | .reopened => 3
  | .cleared => 4
  | .removed => 5

def classOrder : FaultClass → Nat
  | .tipGround => 1
  | .ringGround => 2
  | .short => 3
  | .lowInsulation => 4
  | .foreignDc => 5
  | .foreignAc => 6
  | .openLoop => 7
  | .dialFault => 8
  | .crossHazard => 9
  | .accessFail => 10
  | .headDegraded => 11
  | .cableStorm => 12

def subjectKindCode : Subject → Octet
  | .line _ => 1#8
  | .shelf _ => 2#8
  | .head _ => 3#8
  | .cableGroup _ => 4#8

def subjectNumber : Subject → Nat
  | .line n => n
  | .shelf n => n
  | .head n => n
  | .cableGroup n => n

def ticketStateCode : TicketState → Octet
  | .suspect => 1#8
  | .opened => 2#8
  | .dispatched => 3#8
  | .cleared => 4#8

def noticeStateCode : NoticeState → Octet
  | .suspect => 1#8
  | .opened => 2#8
  | .dispatched => 3#8
  | .cleared => 4#8
  | .closed => 5#8
  | .evicted => 6#8

def busStateCode : BusState → Octet
  | .free => 1#8
  | .attached => 2#8
  | .quarantine => 3#8
  | .outOfService => 4#8
  | .stuck => 5#8

def serviceCode : Service → Octet
  | .starting => 1#8
  | .unconfigured => 2#8
  | .inService => 3#8
  | .suspended => 4#8

def groupStateCode (storm : Bool) : Octet := if storm then 2#8 else 1#8

def runStateCode : RunState → Nat
  | .idle => 1
  | .active => 2
  | .complete => 3
  | .incomplete => 4
  | .stopped => 5

/-- The timebase mode a field names: no code is stated, so the code of each mode is `Config`'s. -/
def modeOf (o : Octet) : ModeField :=
  if o = Config.timebaseModeCode .hourly then .hourly
  else if o = Config.timebaseModeCode .continuous then .continuous
  else .other

/-! ### Cells the part makes (sections 11.4 and 11.5) -/

/-- TEST BLOCK: the LEN and BLOCKED (1) or UNBLOCKED (2). -/
def testBlockCell (own : Octet) (len : Nat) (blocked : Bool) : Cell :=
  makeCell kindTestBlock own callProcessor (octets2 len ++ [if blocked then 1#8 else 2#8])

/-- A synthesised LINE REPORT: a timestamp of 0 (R41). -/
def synthReportCell (own : Octet) (len : Nat) (r : Report) : Cell :=
  makeCell kindLineReport own callProcessor (octets2 len ++ [reportCode r] ++ octets2 0)

/-- AUDIT ORDER: the order tag. -/
def auditOrderCell (own : Octet) (shelf tag : Nat) : Cell :=
  makeCell kindAuditOrder own (shelfAddress shelf) [octet tag]

/-- RELAY ORDER: tag, code, bus of a riser order, LEN of an access order. -/
def relayOrderCell (own : Octet) (tag : Nat) (o : Order) : Cell :=
  let bus := match o.kind with
    | .riserOperate => o.bus
    | .riserRelease => o.bus
    | _ => 0
  let len := match o.kind with
    | .accessOperate => o.line
    | .accessRelease => o.line
    | _ => 0
  makeCell kindRelayOrder own (shelfAddress o.shelf) ([octet tag, orderCode o.kind, octet bus] ++ octets2 len)

/-- HEAD START: code 1, step tag, leg, stimulus (0 for none), sample count, Δt. -/
def headStartCell (own : Octet) (bus tag : Nat) (leg : Leg) (stimulus : Int) (count interval : Nat) : Cell :=
  makeCell kindHeadOrder own (headAddress bus)
    ([1#8, octet tag, octet (legCode leg)] ++ octets3s stimulus ++ octets2 count ++ octets2 interval)

/-- HEAD STOP: code 2 and the step tag. -/
def headStopCell (own : Octet) (bus tag : Nat) : Cell :=
  makeCell kindHeadOrder own (headAddress bus) [2#8, octet tag]

end Sys2Proof.Machine
end

