-- ==== Sys2Proof/WellFormed.lean ====
section
/-! DEFINITION. Which terms of `Instr` stand for a step the part can meet: a cell has its twelve payload octets and
is of its row's kind, and a field fits the place a cell gives it. The part gives every other term a meaning too;
well-formedness is a claim about the terms, not a condition of any meaning. -/

namespace Sys2Proof

open Sys2Proof.Machine

/-- A cell has twelve payload octets (section 11.1). -/
def fullCell (c : Cell) : Bool := c.payload.length = 12

/-- A good cell of one kind (R1, section 11.3). -/
def goodOfKind (k : Octet) (c : Cell) : Bool := fullCell c && goodCheck c && c.kind = k

/-- A good cell that is not IDLE. -/
def goodNotIdle (c : Cell) : Bool := fullCell c && goodCheck c && c.kind ≠ kindIdle

/-- A program step as its fields can be packed: a half-octet for the kind, two bits for the leg (section 11.6). -/
def fitsStep (st : RawStep) : Bool := st.kind < 16 && st.leg < 4

/-- A half-octet that is not 0. -/
def fitsHalf (n : Nat) : Bool := 1 ≤ n && n < 16

/-- A code the catalogue does not list (R197, R211). -/
def uncatalogued (code : Octet) : Bool := code = 0#8 || 34 < code.toNat

/-- The step is one the part can meet. -/
def wellFormed : Instr → Bool
  | .resetAssert => true
  | .powerOnReset _ => true
  | .huntSearch _ _ => true
  | .presyncCell _ c => match c with
    | some x => fullCell x
    | none => true
  | .noSignalCellTime _ => true
  | .badCell _ c => fullCell c && ! goodCheck c
  | .idleCell _ c => goodOfKind kindIdle c
  | .transitCell _ c => goodNotIdle c
  | .discardCell _ c => goodNotIdle c
  | .lineReport c => goodOfKind kindLineReport c
  | .lineOrder c => goodOfKind kindLineOrder c
  | .scanSummary c => goodOfKind kindScanSummary c
  | .auditReport c => goodOfKind kindAuditReport c
  | .orderAck c => goodOfKind kindOrderAck c
  | .sample c => goodOfKind kindSample c
  | .commandIntake c => goodOfKind kindCommand c
  | .freeRunningSlot _ => true
  | .northInsertion => true
  | .southInsertion => true
  | .offerBacklogJoin _ => true
  | .paceTimerExpiry => true
  | .unknownCommand _ _ code => uncatalogued code
  | .enableService _ _ => true
  | .suspendService _ _ => true
  | .restart _ _ => true
  | .busRemove _ _ _ => true
  | .busRestore _ _ _ => true
  | .forceRelease _ _ _ => true
  | .writeLine _ _ _ _ _ _ _ => true
  | .clearLine _ _ _ => true
  | .writeProfile _ _ _ => true
  | .writeProgramStep _ _ _ index st => fitsHalf index && fitsStep st
  | .writeProgramFinal _ _ _ index count _ st => index < 16 && fitsHalf count && fitsStep st
  | .writeProgramClear _ _ _ => true
  | .writeHead _ _ _ _ _ _ => true
  | .writeHazard _ _ _ _ => true
  | .writePrivilege _ _ _ _ => true
  | .writeGroupThreshold _ _ _ _ => true
  | .writeSchedule _ _ _ => true
  | .sweepStart _ _ _ => true
  | .sweepStop _ _ _ => true
  | .setTime _ _ _ _ _ _ _ _ _ => true
  | .adjustTime _ _ => true
  | .testRequest _ _ _ _ _ _ => true
  | .cancel _ _ _ => true
  | .ticketRead _ _ _ => true
  | .ticketList _ _ _ => true
  | .ticketDispatch _ _ _ _ => true
  | .ticketClose _ _ _ _ => true
  | .cableAck _ _ _ => true
  | .readLine _ _ _ => true
  | .readTime _ _ => true
  | .readStatus _ _ => true
  | .readBus _ _ => true
  | .readHeadCounts _ _ => true
  | .readQueue _ _ _ => true
  | .readSweep _ _ _ => true
  | .setNotices _ _ _ => true
  | .heartbeatTimerExpiry _ => true
  | .auditTimerExpiry _ => true
  | .waitTimerExpiry _ _ => true
  | .orderWaitListEntry => true
  | .orderTimeout _ => true
  | .releaseRetryTimerExpiry _ => true
  | .quarantineTimerExpiry _ => true
  | .dialSessionTimerExpiry _ => true
  | .silenceTimerExpiry _ => true
  | .digitTimerExpiry _ => true
  | .timebaseTimerExpiry _ => true
  | .loadTimerExpiry _ => true
  | .calendarSecond => true
  | .durationTimerExpiry _ => true
  | .resultDelivery => true
  | .noticeDelivery _ => true
  | .lineAgeSecond => true

end Sys2Proof
end

