-- ==== Sys2Proof/Decode.lean ====
section
/-! DEFINITION. The reading of a table word. -/

namespace Sys2Proof

/-- The command that a word spells by the table's bits: spec/opcode_table.json gives no row any bits, so no word
spells one. -/
def decodeTableWord (_nbits _w : Nat) : Option Instr := none

end Sys2Proof
end

