-- ==== Sys2Proof/Machine/PowerOn.lean ====
section
/-! DEFINITION. The power-on value of every piece of state (R5, R13 to R20, R42, R62, R86, R114, R116, R143,
R165, R166, R182, R195 and the tables of section 10.6). -/

namespace Sys2Proof.Machine

/-! ### What an unlisted entry of each table holds -/

def portZero : Port :=
  { delineation := .hunt, confirmed := 0, badRun := 0, huntOctets := [], checkError := false,
    delineationLost := false, intakeOverrun := false, badChecks := 0, dropped := 0 }

def lineZero : Line :=
  { hook := .unknown, lastForwarded := .unknown, writtenAt := 0, cutOff := false, blocked := false }

def shelfZero : Shelf :=
  { freshness := .stale, ringing := 0, offHook := 0, mismatch := false, heartbeat := none, audit := none,
    auditRetries := 0, released := false }

def profileZero : Profile :=
  { loaded := false, ground := 0, short := 0, insulation := 0, foreignDc := 0, foreignAc := 0, capTipRing := 0,
    capLegGround := 0, minLength := 0, speedMin := 0, speedMax := 0, ratioMin := 0, ratioMax := 0 }

/-- The defaults profile 0 is loaded with (section 3.3). -/
def profileDefault : Profile :=
  { loaded := true, ground := 150000, short := 20000, insulation := 2000000, foreignDc := 5000,
    foreignAc := 10000, capTipRing := 52000, capLegGround := 70000, minLength := 30, speedMin := 80,
    speedMax := 120, ratioMin := 58, ratioMax := 70 }

def programZero : Program := { steps := [], routineAllowed := false }

def headZero : Head := { interval := 250, target := 0xFF#8, mode := .hourly }

def busZero : Bus :=
  { state := .free, removePending := false, holder := .none, quarantine := none, retry := none, nextTag := 0 }

def collectorZero : Collector :=
  { phase := .closed, limit := 1, loopOpen := false, pending := none, closedSince := none, breaks := 0,
    firstStart := 0, latestStart := 0, latestLength := 0, earlierSum := 0, digits := [], timer := none }

def checkerZero : Checker :=
  { running := 0, latched := 0, timer := Config.timebaseMs, exceeded := false, degraded := false }

def groupZero : CableGroup := { storm := false, count := 0, ticket := none }

def runZero : SweepRun :=
  { state := .idle, cursor := none, outstanding := [], deferredLines := [], timer := none, tested := 0,
    failed := 0, skipped := 0, stormSkipped := 0, deferred := 0 }

def scheduleZero : Schedule := { config := none, run := runZero }

def unitZero : NoticeUnit := { mask := [], pending := [], resync := false }

/-! ### The blocks -/

/-- The RELEASE ALL order of shelf `n`'s start-up release (R114), with the tag it takes at power-on: the
candidate is 0x00 and nothing is outstanding, so shelf `n` gets tag `n` (R90). -/
def startUpOrder (n : Nat) : Order := { kind := .releaseAll, shelf := n, bus := 0, line := 0, owner := .startUp n }

def portsPowerOn (straps : BitVec 2) : Ports :=
  { resetAsserted := false, straps := straps, north := portZero, south := portZero, northTx := .quiet,
    southTx := .quiet, northSlots := 0, southSlots := 0, urgent := [], urgentBacklog := [], normal := [],
    reserved := 0,
    southQueue := (List.range 16).map (fun n => relayOrderCell (ownAddress straps) n (startUpOrder n)),
    southBacklog := [], intake := [] }

def trackerPowerOn : Tracker := { lines := [], shelves := [], ageClock := 0 }

def tablesPowerOn : Tables :=
  { directory := [], profiles := [(0, profileDefault)], programs := [], buffers := [], heads := [],
    danger := 60000, clear := 30000, privileges := [], thresholds := [] }

def arbiterPowerOn : Arbiter :=
  { service := .starting, returnTo := .unconfigured, marks := [], holds := [], queue := [], admissions := 0 }

/-- The engine with its start-up release begun: all sixteen orders have joined the South queue. -/
def enginePowerOn : Engine :=
  { buses := [], risers := [], sessions := [],
    orders := (List.range 16).map (fun n => { tag := n, order := startUpOrder n, timer := some Config.orderMs }),
    waiting := [], candidate := 16, releaseAllAt := (List.range 16).map (fun n => (n, some 0)),
    startUp := List.range 16 }

def measurementPowerOn : Measurement := { windows := [], collectors := [], checkers := [] }

def ticketsPowerOn : TicketManager := { tickets := [], groups := [] }

/-- The calendar is NOT_SET; what its fields then hold is a value the model names. -/
def calendarPowerOn : Calendar :=
  { running := false, prescaler := 0, second := 0, minute := 0, hour := 0, weekday := 0, day := 1, month := 1,
    year := 2000 }

def interpreterPowerOn : Interpreter :=
  { pace := .stopped, assemblies := [], slots := [], fillingOrder := [], units := [] }

end Sys2Proof.Machine
end

