-- ==== Sys2Proof/Machine/State.lean ====
section
/-! DEFINITION. The state of the part, the reasons a step can stop, and the state after reset. -/

namespace Sys2Proof.Machine

/-- The whole state of the part, one field for each block, with the queue of waiting commands (`pending`), the
work handed on inside a step (`agenda`, empty between steps), the ms of the 1 kHz time base since power-on
(`clock`) and the ms of the current second of the line ages (`ageMs`). -/
structure State where
  pending : List Instr
  ports : Ports
  tracker : Tracker
  tables : Tables
  arbiter : Arbiter
  engine : Engine
  meas : Measurement
  tickets : TicketManager
  calendar : Calendar
  schedules : Tab Schedule
  interp : Interpreter
  agenda : List Todo
  clock : Nat
  ageMs : Nat
  deriving DecidableEq, Repr

/-- Why the part could stop. No rule of the manual stops the part, so no meaning raises a fault: the type has
one constructor, raised by nobody, and that is safe. -/
inductive Fault where
  /-- Raised by nobody: the manual describes no event that stops the part. Safe. -/
  | neverRaised
  deriving DecidableEq, Repr

/-- Why the model could give no meaning. -/
inductive Refusal where
  /-- Raised by the dispatcher for a step that has no meaning yet. Safe: the run ends. -/
  | notModelled (mnemonic : String)
  deriving DecidableEq, Repr

/-- The state right after the RESET pin is released with the given straps, the start-up release begun
(R20, R114). -/
def State.powerOn (straps : BitVec 2) : State :=
  { pending := [], ports := portsPowerOn straps, tracker := trackerPowerOn, tables := tablesPowerOn,
    arbiter := arbiterPowerOn, engine := enginePowerOn, meas := measurementPowerOn, tickets := ticketsPowerOn,
    calendar := calendarPowerOn, schedules := [], interp := interpreterPowerOn, agenda := [], clock := 0,
    ageMs := 0 }

/-- The part right after reset: the release of RESET with the straps at 0. -/
def State.reset : State := State.powerOn 0

end Sys2Proof.Machine
end

