-- ==== Sys2Proof/Machine/Ops.lean ====
section
/-! DEFINITION. The named operations every block shares: reading and changing one entry of a table, handing
work on, the insertion queues (R13 to R16) and the transmit slots (R11, R12). -/

namespace Sys2Proof.Machine

/-! ### Changing one block -/

def onPorts (s : State) (f : Ports → Ports) : State := { s with ports := f s.ports }
def onTracker (s : State) (f : Tracker → Tracker) : State := { s with tracker := f s.tracker }
def onTables (s : State) (f : Tables → Tables) : State := { s with tables := f s.tables }
def onArbiter (s : State) (f : Arbiter → Arbiter) : State := { s with arbiter := f s.arbiter }
def onEngine (s : State) (f : Engine → Engine) : State := { s with engine := f s.engine }
def onMeas (s : State) (f : Measurement → Measurement) : State := { s with meas := f s.meas }
def onTickets (s : State) (f : TicketManager → TicketManager) : State := { s with tickets := f s.tickets }
def onInterp (s : State) (f : Interpreter → Interpreter) : State := { s with interp := f s.interp }

/-! ### One entry of a table -/

def lineOf (s : State) (len : Nat) : Line := tabGet lineZero s.tracker.lines len
def modLine (s : State) (len : Nat) (f : Line → Line) : State :=
  onTracker s (fun t => { t with lines := tabMod lineZero t.lines len f })

def shelfAt (s : State) (n : Nat) : Shelf := tabGet shelfZero s.tracker.shelves n
def modShelf (s : State) (n : Nat) (f : Shelf → Shelf) : State :=
  onTracker s (fun t => { t with shelves := tabMod shelfZero t.shelves n f })

def directoryAt (s : State) (len : Nat) : Option DirectoryEntry := tabGet none s.tables.directory len
def profileAt (s : State) (n : Nat) : Profile := tabGet profileZero s.tables.profiles n
def programAt (s : State) (n : Nat) : Program := tabGet programZero s.tables.programs n
def headAt (s : State) (n : Nat) : Head := tabGet headZero s.tables.heads n
def thresholdAt (s : State) (g : Nat) : Nat := tabGet 0 s.tables.thresholds g

def markOf (s : State) (len : Nat) : Mark := tabGet .free s.arbiter.marks len
def holdOf (s : State) (len : Nat) : Bool := tabGet false s.arbiter.holds len

def busAt (s : State) (b : Nat) : Bus := tabGet busZero s.engine.buses b
def modBus (s : State) (b : Nat) (f : Bus → Bus) : State :=
  onEngine s (fun e => { e with buses := tabMod busZero e.buses b f })

def riserAt (s : State) (n : Nat) : Riser := tabGet .free s.engine.risers n
def putRiser (s : State) (n : Nat) (r : Riser) : State :=
  onEngine s (fun e => { e with risers := tabPut .free e.risers n r })

def sessionAt (s : State) (id : Nat) : Option Session := tabGet none s.engine.sessions id
def putSession (s : State) (id : Nat) (x : Option Session) : State :=
  onEngine s (fun e => { e with sessions := tabPut none e.sessions id x })
def modSession (s : State) (id : Nat) (f : Session → Session) : State :=
  onEngine s (fun e => { e with sessions := tabMod none e.sessions id (fun x => x.map f) })

def windowAt (s : State) (b : Nat) : Option Window := tabGet none s.meas.windows b
def putWindow (s : State) (b : Nat) (w : Option Window) : State :=
  onMeas s (fun m => { m with windows := tabPut none m.windows b w })

def collectorAt (s : State) (id : Nat) : Collector := tabGet collectorZero s.meas.collectors id
def putCollector (s : State) (id : Nat) (c : Collector) : State :=
  onMeas s (fun m => { m with collectors := tabPut collectorZero m.collectors id c })

def checkerAt (s : State) (h : Nat) : Checker := tabGet checkerZero s.meas.checkers h
def putChecker (s : State) (h : Nat) (c : Checker) : State :=
  onMeas s (fun m => { m with checkers := tabPut checkerZero m.checkers h c })

def groupAt (s : State) (g : Nat) : CableGroup := tabGet groupZero s.tickets.groups g
def putGroup (s : State) (g : Nat) (x : CableGroup) : State :=
  onTickets s (fun t => { t with groups := tabPut groupZero t.groups g x })

def scheduleAt (s : State) (n : Nat) : Schedule := tabGet scheduleZero s.schedules n
def putSchedule (s : State) (n : Nat) (x : Schedule) : State :=
  { s with schedules := tabPut scheduleZero s.schedules n x }
def modRun (s : State) (n : Nat) (f : SweepRun → SweepRun) : State :=
  { s with schedules := tabMod scheduleZero s.schedules n (fun x => { x with run := f x.run }) }

def slotAt (s : State) (n : Nat) : Slot := tabGet .free s.interp.slots n
def putSlot (s : State) (n : Nat) (x : Slot) : State :=
  onInterp s (fun i => { i with slots := tabPut .free i.slots n x })

def unitAt (s : State) (u : Nat) : NoticeUnit := tabGet unitZero s.interp.units u
def putUnit (s : State) (u : Nat) (x : NoticeUnit) : State :=
  onInterp s (fun i => { i with units := tabPut unitZero i.units u x })

def portAt (s : State) : Side → Port
  | .north => s.ports.north
  | .south => s.ports.south
def modPort (s : State) (p : Side) (f : Port → Port) : State :=
  match p with
  | .north => onPorts s (fun x => { x with north := f x.north })
  | .south => onPorts s (fun x => { x with south := f x.south })

/-! ### Small notions -/

/-- The controller's own address (R6). -/
def own (s : State) : Octet := ownAddress s.ports.straps

/-- Work handed on, to be taken when the work handed on before it has been taken. -/
def handOn (s : State) (t : Todo) : State := { s with agenda := s.agenda ++ [t] }

/-- An examination event (R73). -/
def examineLater (s : State) : State := handOn s .examine

/-- A 32-bit saturating count takes one more (R19). -/
def count32 (n : Nat) : Nat := min (n + 1) Config.maxCount32

/-- A 16-bit saturating count takes one more. -/
def count16 (n : Nat) : Nat := min (n + 1) Config.maxCount16

/-- A line is under test while its mark is not FREE (section 2.3). -/
def underTest (s : State) (len : Nat) : Bool := markOf s len ≠ .free

/-- A shelf is open for access: FRESH and RELEASED (section 2.2). -/
def openForAccess (s : State) (n : Nat) : Bool :=
  (shelfAt s n).freshness = .fresh ∧ (shelfAt s n).released = true

/-- The age of a line's hook state in seconds (section 2.1). -/
def lineAge (s : State) (len : Nat) : Nat :=
  min (s.tracker.ageClock - (lineOf s len).writtenAt) Config.maxCount16

/-- A program that is one DIAL step (R51). -/
def isDialProgram (p : Program) : Bool :=
  match p.steps with
  | [.dial _] => true
  | _ => false

/-- The sessions in the table, with their ids in order. -/
def liveSessions (s : State) : List (Nat × Session) :=
  (List.range Config.sessionPlaces).filterMap (fun id => (sessionAt s id).map (fun x => (id, x)))

/-- The session of a line, if any. -/
def sessionOnLine (s : State) (len : Nat) : Option (Nat × Session) :=
  (liveSessions s).find? (fun x => x.2.line = len)

/-! ### Ports -/

def opposite : Side → Side
  | .north => .south
  | .south => .north

/-- A port's transmit pair comes to carry `x`. -/
def transmit (s : State) (p : Side) (x : Transmit) : State :=
  match p with
  | .north => onPorts s (fun q => { q with northTx := x })
  | .south => onPorts s (fun q => { q with southTx := x })

/-- A port's transmitter is given an insertion opportunity (R12). -/
def giveSlot (s : State) (p : Side) : State :=
  match p with
  | .north => onPorts s (fun q => { q with northSlots := q.northSlots + 1 })
  | .south => onPorts s (fun q => { q with southSlots := q.southSlots + 1 })

/-- The room of the NORMAL queue (R13). -/
def normalRoom (s : State) : Nat := Config.normalCapacity - (s.ports.normal.length + s.ports.reserved)

/-- Cells join the tail of the NORMAL queue. -/
def joinNormal (s : State) (cs : List Cell) : State :=
  onPorts s (fun p => { p with normal := p.normal ++ cs })

/-- A command cell dropped: Port `p`'s dropped-command count rises (R7, R17, R196, R213). -/
def countDropped (s : State) (p : Side) : State :=
  modPort s p (fun x => { x with dropped := count32 x.dropped })

/-- A cell is offered to the URGENT queue (R15): it joins while the queue has room and none waits before it,
and otherwise waits in the offer backlog, which holds no cell twice. -/
def offerUrgent (s : State) (c : Cell) : State :=
  if s.ports.urgent.length < Config.urgentCapacity ∧ s.ports.urgentBacklog = [] then
    onPorts s (fun p => { p with urgent := p.urgent ++ [c] })
  else if c ∈ s.ports.urgentBacklog then s
  else onPorts s (fun p => { p with urgentBacklog := p.urgentBacklog ++ [c] })

/-- The cell is a TEST BLOCK report for the line. -/
def isTestBlockFor (len : Nat) (c : Cell) : Bool :=
  c.kind = kindTestBlock ∧ (field2 c 0).toNat = len

/-- A TEST BLOCK report is offered: the line's block value is set (R40), and a TEST BLOCK for the line that
still waits takes the new value in its place (R16). -/
def offerTestBlock (s : State) (len : Nat) (blocked : Bool) : State :=
  let s := modLine s len (fun l => { l with blocked := blocked })
  let new := testBlockCell (own s) len blocked
  let merge := fun c => if isTestBlockFor len c then new else c
  if (s.ports.urgent ++ s.ports.urgentBacklog).any (isTestBlockFor len) then
    onPorts s (fun p => { p with urgent := p.urgent.map merge, urgentBacklog := p.urgentBacklog.map merge })
  else offerUrgent s new

/-! ### Marks and block values (R40, R93) -/

/-- A line's mark as written, its block value with it: BLOCKED exactly while the mark is not FREE (R40). -/
def writeMark (s : State) (len : Nat) (m : Mark) : State :=
  modLine (onArbiter s (fun a => { a with marks := tabPut .free a.marks len m })) len
    (fun l => { l with blocked := m ≠ .free })

/-- A line is cut off for its session: its cut-off is set and its mark is IN_SESSION (R33, R93). -/
def cutLine (s : State) (len : Nat) : State :=
  writeMark (modLine s len (fun l => { l with cutOff := true })) len .inSession

/-! ### Joining the South queue: timers of an order run from here (R14) -/

/-- The silence limit of a window: 8 Δt (µs) plus 5 ms, taken up to the next whole ms (R126). -/
def silenceLimit (interval : Nat) : Nat := (8 * interval + 5000 + 999) / 1000

/-- An ACCESS RELEASE for the line is in the order table or on the order wait list. -/
def releaseToCome (s : State) (len : Nat) : Bool :=
  (s.engine.orders.map (·.order) ++ s.engine.waiting).any (fun o => o.kind = .accessRelease ∧ o.line = len)

/-- The cell of an order without an entry joins: an ACCESS OPERATE whose session has ended meanwhile cuts its line off
until the clean-up's ACCESS RELEASE is acknowledged (R37, R38, section 2.3; DESIGN CHOICE, log entry 16). -/
def strayOrderJoined (s : State) (c : Cell) : State :=
  let len := (field2 c 3).toNat
  if payloadAt c 1 = orderCode .accessOperate ∧ releaseToCome s len then
    modLine s len (fun l => { l with cutOff := true })
  else s

/-- What a relay order's joining does, by its entry: the entry's 40 ms timer starts (R90); the ACCESS OPERATE of a
session cuts its line off, the line is IN_SESSION and the session CONNECTING (R15, R93, section 2.3); RELEASE ALL gives
the time R115 keeps. The cell of an order given up before has no entry: an ACCESS OPERATE still cuts its line off while
the line's ACCESS RELEASE is to come (R37; log entry 16), and any other joins without effect. -/
def relayOrderJoined (s : State) (c : Cell) : State :=
  let tag := (payloadAt c 0).toNat
  match s.engine.orders.find? (fun o =>
      o.tag = tag ∧ o.timer = none ∧ shelfAddress o.order.shelf = c.dst ∧ orderCode o.order.kind = payloadAt c 1) with
  | none => strayOrderJoined s c
  | some o =>
    let s := onEngine s (fun e => { e with orders := e.orders.map (fun x =>
      if x.tag = tag then { x with timer := some Config.orderMs } else x) })
    match o.order.kind, o.order.owner with
    | .accessOperate, .session id =>
      modSession (cutLine s o.order.line) id (fun x => { x with state := .connecting })
    | .releaseAll, _ =>
      onEngine s (fun e => { e with releaseAllAt := tabPut none e.releaseAllAt o.order.shelf (some s.clock) })
    | _, _ => s

/-- An audit order's joining starts the audit timer of the attempt that carries its tag (R28). -/
def auditOrderJoined (s : State) (c : Cell) : State :=
  match shelfOf c.dst with
  | none => s
  | some n => modShelf s n (fun x => { x with audit := x.audit.map (fun a =>
      if a.tag = (payloadAt c 0).toNat ∧ a.timer = none then { a with timer := some Config.auditMs } else a) })

/-- A HEAD START's joining starts the silence timer of the window that carries its tag (R119, R126). -/
def headOrderJoined (s : State) (c : Cell) : State :=
  match headOf c.dst with
  | none => s
  | some b =>
    match windowAt s b with
    | none => s
    | some w =>
      if payloadAt c 0 = 1#8 ∧ (payloadAt c 1).toNat = w.tag then
        putWindow s b (some { w with silence := some (silenceLimit w.interval) })
      else s

/-- A cell joins the tail of the South queue. -/
def joinSouth (s : State) (c : Cell) : State :=
  let s := onPorts s (fun p => { p with southQueue := p.southQueue ++ [c] })
  if c.kind = kindRelayOrder then relayOrderJoined s c
  else if c.kind = kindAuditOrder then auditOrderJoined s c
  else if c.kind = kindHeadOrder then headOrderJoined s c
  else s

/-- A cell is offered to the South queue (R15). -/
def offerSouth (s : State) (c : Cell) : State :=
  if s.ports.southQueue.length < Config.southCapacity ∧ s.ports.southBacklog = [] then joinSouth s c
  else if c ∈ s.ports.southBacklog then s
  else onPorts s (fun p => { p with southBacklog := p.southBacklog ++ [c] })

/-! ### Calendar stamps (R182, R211) -/

def leapYear (y : Nat) : Bool := y % 4 = 0

/-- The month lengths (section 9.1). -/
def monthLength (month year : Nat) : Nat :=
  match month with
  | 2 => if leapYear year then 29 else 28
  | 4 => 30
  | 6 => 30
  | 9 => 30
  | 11 => 30
  | _ => 31

/-- Days from 2000-01-01 to the first of a month. -/
def daysBefore (month year : Nat) : Nat :=
  let years := year - 2000
  years * 365 + (years + 3) / 4 + ((List.range (month - 1)).map (fun m => monthLength (m + 1) year)).sum

/-- Seconds from 2000-01-01 00:00:00 to the calendar value. -/
def calendarSeconds (c : Calendar) : Nat :=
  ((daysBefore c.month c.year + (c.day - 1)) * 24 + c.hour) * 3600 + c.minute * 60 + c.second

/-- The calendar as a stamp; none is NOT_SET (R182). -/
def stampNow (s : State) : Option Nat :=
  if s.calendar.running then some (calendarSeconds s.calendar) else none

end Sys2Proof.Machine
end

