-- ==== Sys2Proof/Machine/Notices.lean ====
section
/-! DEFINITION. Notices (section 10.5): their cells, and the offer of a notice to each unit whose mask holds
its kind (R208). -/

namespace Sys2Proof.Machine

/-- The nine units that may receive notices: 0x02 is number 0, desk n is number n + 1 (section 10.5). -/
def unitAddress (u : Nat) : Octet := if u = 0 then maintenance else octet (0x1F + u)

/-- The notice unit whose address this is. -/
def unitOf (a : Octet) : Option Nat :=
  if a = maintenance then some 0
  else if 0x20 ≤ a.toNat ∧ a.toNat ≤ 0x27 then some (a.toNat - 0x1F) else none

/-- A notice's kind. -/
def noticeKind : Notice → NoticeKind
  | .ticket .. => .ticket
  | .cable .. => .cable
  | .sweep .. => .sweep
  | .bus .. => .bus
  | .restart _ => .restart

/-- Two notices of one kind and subject (section 10.5): a ticket by id, subject and class, a group, a schedule,
a bus, and the one RESTART of a unit. -/
def sameSubject : Notice → Notice → Bool
  | .ticket i u c _, .ticket j v d _ => i = j ∧ u = v ∧ c = d
  | .cable g .., .cable h .. => g = h
  | .sweep n .., .sweep m .. => n = m
  | .bus b _, .bus c _ => b = c
  | .restart _, .restart _ => true
  | _, _ => false

/-- Octets 3 to 14 of a NOTICE cell (section 11.7). -/
def noticePayload : Notice → List Octet
  | .ticket id subject cls st =>
    [1#8, octet id, subjectKindCode subject] ++ octets2 (subjectNumber subject)
      ++ [octet (classOrder cls), noticeStateCode st]
  | .cable g storm count threshold ticket noSlot =>
    [2#8, octet g, groupStateCode storm, octet count, octet threshold, octet (ticket.getD 0),
      flagOctet [ticket.isSome, noSlot]]
  | .sweep n st unfit cursor tested failed skipped stormSkipped deferred =>
    [3#8, octet (n % 8 * 32 + runStateCode st * 4 + unfit.toNat * 2)]
      ++ pack13 [cursor.getD 8191, tested, failed, skipped, stormSkipped, deferred] 10
  | .bus b st => [4#8, octet b, busStateCode st]
  | .restart svc => [5#8, serviceCode svc]

def noticeCell (s : State) (u : Nat) (n : Notice) : Cell :=
  makeCell kindNotice (own s) (unitAddress u) (noticePayload n)

/-- The RESYNC notice (section 11.7). -/
def resyncCell (s : State) (u : Nat) : Cell := makeCell kindNotice (own s) (unitAddress u) [6#8]

/-- A notice offered to one unit whose mask holds its kind: it joins the queue at once, replaces a pending
notice of its subject, joins the pending set, or is dropped with the RESYNC mark set (R208). -/
def offerToUnit (s : State) (u : Nat) (n : Notice) : State :=
  let x := unitAt s u
  if x.pending = [] ∧ x.resync = false ∧ 0 < normalRoom s then joinNormal s [noticeCell s u n]
  else if x.pending.any (sameSubject n) then
    putUnit s u { x with pending := x.pending.map (fun m => if sameSubject n m then n else m) }
  else if x.pending.length < Config.pendingCapacity then putUnit s u { x with pending := x.pending ++ [n] }
  else putUnit s u { x with resync := true }

/-- A notice produced by any block is offered, in address order, to each unit whose mask holds its kind
(R208). -/
def notify (s : State) (n : Notice) : State :=
  (List.range 9).foldl
    (fun s u => if noticeKind n ∈ (unitAt s u).mask then offerToUnit s u n else s) s

/-- The notices in the order they are produced. -/
def notifyAll (s : State) (ns : List Notice) : State := ns.foldl notify s

/-- One cell of a waiting unit at an increase of the room: the RESYNC notice, else the oldest pending notice
(R208). -/
def deliverNotice (s : State) (u : Nat) : State :=
  let x := unitAt s u
  if normalRoom s = 0 then s
  else if x.resync then putUnit (joinNormal s [resyncCell s u]) u { x with resync := false }
  else match x.pending with
    | [] => s
    | n :: rest => putUnit (joinNormal s [noticeCell s u n]) u { x with pending := rest }

end Sys2Proof.Machine
end

