-- ==== Sys2Proof/Machine/Orders.lean ====
section
/-! DEFINITION. Relay orders with their tags (section 5.2), and the states of buses and risers (section
5.1). -/

namespace Sys2Proof.Machine

/-! ### The tag issue and the outstanding order table (R90) -/

/-- The tags that are outstanding: those of order table entries and of audit attempts in flight. -/
def outstandingTags (s : State) : List Nat :=
  s.engine.orders.map (·.tag) ++ (List.range 16).filterMap (fun n => (shelfAt s n).audit.map (·.tag))

/-- The tag the issue gives next: the candidate, or the first value after it, cyclically, that is not
outstanding. -/
def nextOrderTag (s : State) : Nat :=
  (((List.range 256).map (fun i => (s.engine.candidate + i) % 256)).find?
    (fun t => t ∉ outstandingTags s)).getD (s.engine.candidate % 256)

/-- The tag issue after it gave `t`. -/
def tagIssued (s : State) (t : Nat) : State := onEngine s (fun e => { e with candidate := (t + 1) % 256 })

/-- A relay order takes a tag and an entry and is offered to the South queue. -/
def placeOrder (s : State) (o : Order) : State :=
  let t := nextOrderTag s
  let s := tagIssued s t
  let s := onEngine s (fun e => { e with orders := e.orders ++ [{ tag := t, order := o, timer := none }] })
  offerSouth s (relayOrderCell (own s) t o)

/-- An entry is free, and no order waits before this one. -/
def orderEntryFree (s : State) : Bool :=
  s.engine.orders.length < Config.orderCapacity ∧ s.engine.waiting = []

/-- An order that finds no entry waits in the order wait list. -/
def waitOrder (s : State) (o : Order) : State :=
  onEngine s (fun e => { e with waiting := e.waiting ++ [o] })

/-- A relay order is requested (R90). -/
def requestOrder (s : State) (o : Order) : State :=
  if orderEntryFree s then placeOrder s o else waitOrder s o

/-- The entry with a tag leaves the table, and the tag is given back. -/
def removeOrder (s : State) (tag : Nat) : State :=
  onEngine s (fun e => { e with orders := e.orders.filter (fun o => o.tag ≠ tag) })

/-- The orders of an owner are given up: their entries are removed, and those that wait are taken off the wait
list unsent (R90, R99). -/
def giveUpOrders (s : State) (w : Owner) : State :=
  onEngine s (fun e => { e with
    orders := e.orders.filter (fun o => o.order.owner ≠ w)
    waiting := e.waiting.filter (fun o => o.owner ≠ w) })

def riserOperateOrder (shelf bus : Nat) (w : Owner) : Order :=
  { kind := .riserOperate, shelf := shelf, bus := bus, line := 0, owner := w }
def accessOperateOrder (len : Nat) (w : Owner) : Order :=
  { kind := .accessOperate, shelf := lineShelf len, bus := 0, line := len, owner := w }
def accessReleaseOrder (len : Nat) (w : Owner) : Order :=
  { kind := .accessRelease, shelf := lineShelf len, bus := 0, line := len, owner := w }
def riserReleaseOrder (shelf bus : Nat) (w : Owner) : Order :=
  { kind := .riserRelease, shelf := shelf, bus := bus, line := 0, owner := w }
def releaseAllOrder (shelf : Nat) (w : Owner) : Order :=
  { kind := .releaseAll, shelf := shelf, bus := 0, line := 0, owner := w }

/-! ### Buses and risers (R88, R89) -/

/-- The bus states whose entry and exit give a BUS notice (R88). -/
def notedBusState : BusState → Bool
  | .quarantine => true
  | .outOfService => true
  | .stuck => true
  | _ => false

/-- Reservations of a bus lapse (R79). -/
def lapseReservations (s : State) (b : Nat) : State :=
  let held := fun (x : Entry) => x.reservation.map (·.bus) = some b
  if s.arbiter.queue.any held then
    examineLater (onArbiter s (fun a => { a with
      queue := a.queue.map (fun x => if held x then { x with reservation := none } else x) }))
  else s

/-- A bus comes into a state: its BUS notice (R88), the examination event of a change into FREE (R73), the
lapse of its reservation when it goes STUCK or OUT_OF_SERVICE (R79). -/
def setBusState (s : State) (b : Nat) (st : BusState) : State :=
  let old := (busAt s b).state
  if old = st then s
  else
    let s := modBus s b (fun x => { x with state := st })
    let s := if notedBusState old ∨ notedBusState st then notify s (.bus b st) else s
    let s := if st = .free then examineLater s else s
    if st = .stuck ∨ st = .outOfService then lapseReservations s b else s

/-- A bus comes to the point where it would become FREE: OUT_OF_SERVICE under REMOVE_PENDING (R107). -/
def busToFree (s : State) (b : Nat) : State :=
  if (busAt s b).removePending then
    setBusState (modBus s b (fun x => { x with removePending := false })) b .outOfService
  else setBusState s b .free

/-- The release on a bus is complete: it has no holder, and it stays QUARANTINE while its quarantine timer
runs (R98, R106). -/
def busReleased (s : State) (b : Nat) : State :=
  let s := modBus s b (fun x => { x with holder := .none })
  if (busAt s b).quarantine.isSome then s else busToFree s b

/-- A riser becomes FREE: an examination event (R89). -/
def freeRiser (s : State) (n : Nat) : State :=
  if riserAt s n = .free then s else examineLater (putRiser s n .free)

/-- The shelf whose riser is operated, or UNKNOWN, toward a bus. -/
def riserToward (s : State) (b : Nat) : Option Nat :=
  (List.range 16).find? (fun n => riserAt s n = .operated b ∨ riserAt s n = .unknown b)

/-- A release order on a bus has run out: the bus is STUCK with no holder, its quarantine ended, its riser
UNKNOWN (R101, R102). -/
def stickBus (s : State) (b shelf : Nat) : State :=
  let s := modBus s b (fun x => { x with holder := .none, quarantine := none })
  let s := setBusState s b .stuck
  putRiser s shelf (.unknown b)

/-- The release retry of a bus starts (R101, R102). -/
def startRetry (s : State) (b : Nat) (p : PendingRelease) : State :=
  modBus s b (fun x => { x with retry := some { order := p, resends := 0, timer := some Config.retryMs } })

/-- The riser clean-up takes the bus over and requests its first release order: RISER RELEASE (R99), or ACCESS RELEASE
for a relay that was ordered as well (R34; log entry 16). -/
def startCleanUp (s : State) (b : Nat) (o : Order) : State :=
  requestOrder (modBus s b (fun x => { x with holder := .cleanUp })) o

/-- The order a release retry keeps pending. -/
def retryOrder (b : Nat) : PendingRelease → Order
  | .access len => accessReleaseOrder len (.retry b)
  | .riser n => riserReleaseOrder n b (.retry b)

end Sys2Proof.Machine
end

