-- ==== Sys2Proof/Machine/Tickets.lean ====
section
/-! DEFINITION. The ticket table and its lifecycle (sections 7.2 to 7.5), and the cable groups with their storms
(chapter 8). -/

namespace Sys2Proof.Machine

/-! ### The table (section 7.2) -/

def findTicket (s : State) (u : Subject) (c : FaultClass) : Option Ticket :=
  s.tickets.tickets.find? (fun t => t.subject = u ∧ t.cls = c)

def ticketAt (s : State) (id : Nat) : Option Ticket := s.tickets.tickets.find? (fun t => t.id = id)

def modTicket (s : State) (id : Nat) (f : Ticket → Ticket) : State :=
  onTickets s (fun m => { m with tickets := m.tickets.map (fun t => if t.id = id then f t else t) })

/-- A ticket's slot is freed, and it leaves opening order. -/
def freeTicket (s : State) (id : Nat) : State :=
  onTickets s (fun m => { m with tickets := m.tickets.filter (fun t => t.id ≠ id) })

/-- A new ticket takes the last place in opening order. -/
def addTicket (s : State) (t : Ticket) : State :=
  onTickets s (fun m => { m with tickets := m.tickets ++ [t] })

def isWet : FaultClass → Bool
  | .tipGround => true
  | .ringGround => true
  | .lowInsulation => true
  | _ => false

def isLineSubject : Subject → Bool
  | .line _ => true
  | _ => false

/-- The measured classes (section 7.2). -/
def isMeasured : FaultClass → Bool
  | .tipGround => true
  | .ringGround => true
  | .short => true
  | .lowInsulation => true
  | .foreignDc => true
  | .foreignAc => true
  | .openLoop => true
  | .headDegraded => true
  | _ => false

/-- A ticket counts while it is SUSPECT, OPEN or DISPATCHED (section 8.2). -/
def isStanding (t : Ticket) : Bool := t.state ≠ .cleared

/-- The group a wet-class line ticket's line names in its directory entry (R164, R172). -/
def wetGroup (s : State) (t : Ticket) : Option Nat :=
  match t.subject with
  | .line len => if isWet t.cls then (directoryAt s len).bind (·.group) else none
  | _ => none

/-- The ticket is a member of group `g` (section 8.2). -/
def isMember (s : State) (g : Nat) (t : Ticket) : Bool := isStanding t ∧ wetGroup s t = some g

/-! ### Slots and eviction (section 7.5) -/

/-- What a slot is sought for. -/
inductive Want where
  | suspectLine
  | openLine
  | equipment
  deriving DecidableEq, Repr

def slotUsed (s : State) (n : Nat) : Bool := s.tickets.tickets.any (fun t => t.id = n)

/-- The lowest free slot among `n` from `lo`, slot `bar` not offered. -/
def lowestFree (s : State) (lo n : Nat) (bar : Option Nat) : Option Nat :=
  ((List.range n).map (· + lo)).find? (fun k => slotUsed s k = false ∧ bar ≠ some k)

/-- The ticket table as the record being applied found it; none while no record is applied. -/
abbrev TicketBase := Option (List Ticket)

/-- The record being applied has neither created the ticket nor changed it, its cable ticket's clearing by a storm
exit that a verdict of the record caused among the changes (R157). An attachment alone, which R169 and R173 move
for every member at once, is not counted a change (DESIGN CHOICE, log entry 23). -/
def isEvictable (base : TicketBase) (t : Ticket) : Bool :=
  match base with
  | none => true
  | some found => found.any (fun b => { b with attached := t.attached } = t)

/-- The slot a new ticket takes, with the ticket evicted for it, first choice that exists (R157, R158).
Tickets that the record being applied has created or changed since `base` are
never chosen; SUSPECT members of `barGroup` are
never chosen (R169); slot `barSlot` is not offered (R176). -/
def slotFor (s : State) (w : Want) (base : TicketBase) (barGroup barSlot : Option Nat) :
    Option (Nat × Option Ticket) :=
  let oldest := fun (p : Ticket → Bool) => s.tickets.tickets.find? (fun t => p t ∧ isEvictable base t)
  let cleared : Ticket → Bool := fun t => t.state = .cleared
  let suspect : Ticket → Bool := fun t =>
    t.state = .suspect && (match barGroup with | some g => !isMember s g t | none => true)
  let general := lowestFree s 0 Config.generalSlots barSlot
  let fresh := match w with
    | .equipment =>
      (lowestFree s Config.generalSlots (Config.ticketSlots - Config.generalSlots) barSlot).or general
    | _ => general
  let evicted := match w with
    | .suspectLine => oldest (fun t => cleared t ∧ isLineSubject t.subject)
    | .openLine => (oldest (fun t => cleared t ∧ t.id < Config.generalSlots)).or (oldest suspect)
    | .equipment => (oldest cleared).or (oldest suspect)
  match fresh with
  | some n => some (n, none)
  | none => evicted.map (fun t => (t.id, some t))

/-- The ticket evicted for a new one leaves the table as the new one takes its slot (R159). -/
def evictTicket (s : State) : Option Ticket → State
  | some t => freeTicket s t.id
  | none => s

/-! ### Storms (chapter 8) -/

/-- One CABLE notice for a group, as it now stands (R172). -/
def cableNotice (s : State) (g : Nat) (noSlot : Bool) : State :=
  let x := groupAt s g
  notify s (.cable g x.storm x.count (thresholdAt s g) x.ticket noSlot)

def ticketNotice (s : State) (t : Ticket) (st : NoticeState) : State :=
  notify s (.ticket t.id t.subject t.cls st)

/-- Every current member of a group is attached to it (R169, R171). -/
def attachMembers (s : State) (g : Nat) : State :=
  onTickets s (fun m => { m with tickets := m.tickets.map (fun t =>
    if isMember s g t then { t with attached := some g } else t) })

/-- The tickets attached to a group lose the attachment (R173). -/
def detachMembers (s : State) (g : Nat) : State :=
  onTickets s (fun m => { m with tickets := m.tickets.map (fun t =>
    if t.attached = some g then { t with attached := none } else t) })

/-- A group leaves STORM: its cable ticket becomes CLEARED, its members lose their attachment (R173). -/
def exitStorm (s : State) (g : Nat) : State :=
  let cable := (groupAt s g).ticket
  let s := match cable with
    | some id => modTicket s id (fun t => { t with state := .cleared })
    | none => s
  let s := putGroup s g { groupAt s g with storm := false, ticket := none }
  let s := detachMembers s g
  let s := match cable.bind (ticketAt s) with
    | some t => ticketNotice s t .cleared
    | none => s
  cableNotice s g false

/-- The exit test (R173). -/
def exitDue (s : State) (g : Nat) : Bool :=
  let x := groupAt s g
  let t := thresholdAt s g
  x.storm ∧ (t = 0 ∨ x.count ≤ t / 2)

/-- The entry test (R169). -/
def entryDue (s : State) (g : Nat) : Bool :=
  let x := groupAt s g
  let t := thresholdAt s g
  x.storm = false ∧ 1 ≤ t ∧ t ≤ x.count

/-- A ticket made OPEN for a storm of group `g` (R169). -/
def newCableTicket (s : State) (g slot : Nat) : Ticket :=
  { id := slot, subject := .cableGroup g, cls := .cableStorm, state := .opened, origin := .equipment,
    opened := stampNow s, lastSeen := stampNow s, occurrences := 1, recurrences := 0, value := none,
    dispatch := none, attached := none, acknowledged := false }

/-- A group is in STORM with the given cable ticket, its members attached (R169). -/
def beginStorm (s : State) (g id : Nat) : State :=
  attachMembers (putGroup s g { groupAt s g with storm := true, ticket := some id }) g

/-- How a ticket change bears on membership (R167). -/
inductive Membership where
  | joins
  | leaves
  | stays
  deriving DecidableEq, Repr

/-- A ticket change with its notice and its member change, up to the exit test (R164, R167, R172, R173); the entry test
is `entryAfter`. The group's state is taken before the change: in STORM one CABLE notice stands for the TICKET notice,
and in CALM the TICKET notice is given. -/
def changeNoticed (s : State) (t : Ticket) (st : NoticeState) (d : Membership) : State :=
  match wetGroup s t with
  | none => ticketNotice s t st
  | some g =>
    let x := groupAt s g
    let counted := match d with
      | .joins => { x with count := x.count + 1 }
      | .leaves => { x with count := x.count - 1 }
      | .stays => x
    if x.storm then
      let s := putGroup s g counted
      let s := match d with
        | .joins => modTicket s t.id (fun y => { y with attached := some g })
        | .leaves => modTicket s t.id (fun y =>
            if y.subject = t.subject ∧ y.cls = t.cls then { y with attached := none } else y)
        | .stays => s
      if d = .leaves ∧ exitDue s g then exitStorm s g else cableNotice s g false
    else putGroup (ticketNotice s t st) g counted

/-- The notice and the member change of a ticket evicted for a slot: an evicted SUSPECT ticket leaves its group's
count, an evicted CLEARED ticket gives its notice by the group state `before` the slot was taken (R159, R172). -/
def evictedNoticed (before s : State) (ev : Option Ticket) : State :=
  match ev with
  | none => s
  | some t =>
    if t.state = .suspect then changeNoticed s t .evicted .leaves
    else match wetGroup before t with
      | some g => if (groupAt before g).storm then cableNotice s g false else ticketNotice s t .evicted
      | none => ticketNotice s t .evicted

/-- The entry test, by `test`, of the group that an evicted SUSPECT ticket has left (R159, R169). -/
def evictedTested (test : State → Ticket → State) (s : State) (ev : Option Ticket) : State :=
  match ev with
  | none => s
  | some t => if t.state = .suspect then test s t else s

/-- A new cable ticket for a group takes a slot, if one can be had (R169, R170, R176): then the group is in
STORM with it and the notices follow, the evicted ticket's first, and otherwise `failed` says what becomes of the
group. The group an evicted SUSPECT ticket has left is tested for entry when these notices have been given. -/
def raiseCableTicket (test : State → Ticket → State) (failed : State → State) (s : State) (g : Nat)
    (base : TicketBase) (barSlot : Option Nat) : State :=
  match slotFor s .equipment base (some g) barSlot with
  | none => failed s
  | some (slot, ev) =>
    let before := s
    let s := evictTicket s ev
    let new := newCableTicket s g slot
    let s := beginStorm (addTicket s new) g slot
    let s := evictedNoticed before s ev
    evictedTested test (cableNotice (ticketNotice s new .opened) g false) ev

/-- A group enters STORM: its CLEARED cable ticket is reopened, or a new one is created (R169); without a slot
it stays CALM with one NO_SLOT notice (R170). -/
def enterStorm (test : State → Ticket → State) (s : State) (g : Nat) (base : TicketBase) : State :=
  match findTicket s (.cableGroup g) .cableStorm with
  | some t =>
    let t' := { t with
      state := .opened, recurrences := count16 t.recurrences, occurrences := count16 t.occurrences,
      lastSeen := stampNow s, acknowledged := false }
    let s := modTicket s t.id (fun _ => t')
    let s := beginStorm s g t.id
    cableNotice (ticketNotice s t' .opened) g false
  | none => raiseCableTicket test (fun s => cableNotice s g true) s g base none

/-- The entry test of the group that a ticket's line names, after the ticket's member change (R169); an entry may evict
a SUSPECT ticket of another group, which is tested in turn (R159). -/
def entryAfter (fuel : Nat) (base : TicketBase) (s : State) (t : Ticket) : State :=
  match fuel with
  | 0 => s
  | fuel + 1 =>
    match wetGroup s t with
    | none => s
    | some g => if entryDue s g then enterStorm (entryAfter fuel base) s g base else s

/-- The entry test after a member change. Each nested eviction takes one SUSPECT ticket out of the table, so one turn
more than it holds tickets suffices. -/
def entryTested (base : TicketBase) (s : State) (t : Ticket) : State :=
  entryAfter (s.tickets.tickets.length + 1) base s t

/-- A ticket change is handed to the storm rules: its member change with its notice, then the entry test (R167). -/
def handChange (s : State) (t : Ticket) (st : NoticeState) (d : Membership) (base : TicketBase) : State :=
  let s := changeNoticed s t st d
  if d = .stays then s else entryTested base s t

/-! ### The lifecycle (section 7.3) -/

/-- A failure updates a ticket it did not create (R155). -/
def updateTicket (s : State) (value : Option Int) (t : Ticket) : Ticket :=
  { t with
    lastSeen := stampNow s
    occurrences := count16 t.occurrences
    value := if isMeasured t.cls then value else t.value }

/-- What a failure needs of the slot table: SUSPECT for a routine line failure but CROSS_HAZARD, OPEN for other
line failures, and an equipment slot otherwise (R152, R154). -/
def failureWant (u : Subject) (c : FaultClass) (o : Origin) : Want :=
  if isLineSubject u then (if o = .routine ∧ c ≠ .crossHazard then .suspectLine else .openLine) else .equipment

/-- The ticket a failure creates (R152). -/
def newTicket (s : State) (id : Nat) (u : Subject) (c : FaultClass) (o : Origin) (value : Option Int) : Ticket :=
  { id := id, subject := u, cls := c
    state := if failureWant u c o = .suspectLine then .suspect else .opened
    origin := o, opened := stampNow s, lastSeen := stampNow s, occurrences := 1, recurrences := 0
    value := if isMeasured c then value else none
    dispatch := none, attached := none, acknowledged := false }

/-- The ticket table as the record found it, but for a slot that the record has filled since: its ticket is none that
the record found (R157). -/
def baseWithout (base : TicketBase) (slot : Nat) : TicketBase := base.map (·.filter (fun t => t.id ≠ slot))

/-- A failure with no ticket creates one, if a slot can be had (R152, R157, R158). -/
def createTicket (s : State) (u : Subject) (c : FaultClass) (o : Origin) (value : Option Int)
    (base : TicketBase) : State × Option (Nat × Option TicketAction) :=
  match slotFor s (failureWant u c o) base none none with
  | none => (s, none)
  | some (slot, ev) =>
    let before := s
    let s := evictTicket s ev
    let new := newTicket s slot u c o value
    let s := addTicket s new
    let base := baseWithout base slot
    let s := evictedTested (entryTested base) (evictedNoticed before s ev) ev
    (handChange s new (if new.state = .suspect then .suspect else .opened) .joins base,
      some (slot, some .created))

/-- A failure of a subject and class (R152, R154, R155): none when it could not be ticketed, and otherwise the
ticket's id with the action, if the failure did more than update it in place. -/
def failTicket (s : State) (u : Subject) (c : FaultClass) (o : Origin) (value : Option Int)
    (base : TicketBase) : State × Option (Nat × Option TicketAction) :=
  match findTicket s u c with
  | none => createTicket s u c o value base
  | some t =>
    let new := updateTicket s value t
    match t.state with
    | .suspect =>
      let new := { new with state := .opened }
      (handChange (modTicket s t.id (fun _ => new)) new .opened .stays base,
        some (t.id, some .opened))
    | .opened => (modTicket s t.id (fun _ => new), some (t.id, none))
    | .dispatched => (modTicket s t.id (fun _ => new), some (t.id, none))
    | .cleared =>
      let new := { new with state := .opened, recurrences := count16 t.recurrences }
      (handChange (modTicket s t.id (fun _ => new)) new .opened .joins base,
        some (t.id, some .reopened))

/-- A pass of a subject and class (R153): the ticket's id and the action, if it did anything. -/
def passTicket (s : State) (u : Subject) (c : FaultClass) (base : TicketBase) :
    State × Option (Nat × TicketAction) :=
  match findTicket s u c with
  | none => (s, none)
  | some t =>
    match t.state with
    | .suspect => (handChange (freeTicket s t.id) t .closed .leaves base, some (t.id, .removed))
    | .cleared => (s, none)
    | _ =>
      let new := { t with state := .cleared }
      (handChange (modTicket s t.id (fun _ => new)) new .cleared .leaves base,
        some (t.id, .cleared))

/-- An equipment failure event (R154). -/
def equipmentFail (s : State) (u : Subject) (c : FaultClass) (value : Option Int) : State :=
  (failTicket s u c .equipment value none).1

/-- A connect success or HEAD_DEGRADED pass (R154). -/
def equipmentPass (s : State) (u : Subject) (c : FaultClass) : State := (passTicket s u c none).1

/-! ### Events from the table store (R168, R174) -/

/-- The line's wet tickets that count. -/
def lineMembers (s : State) (len : Nat) : List Ticket :=
  s.tickets.tickets.filter (fun t => t.subject = .line len ∧ isWet t.cls ∧ isStanding t)

/-- The attachment of a line's counting wet tickets. -/
def attachLine (s : State) (len : Nat) (g : Option Nat) : State :=
  onTickets s (fun m => { m with tickets := m.tickets.map (fun t =>
    if t.subject = .line len ∧ isWet t.cls ∧ isStanding t then { t with attached := g } else t) })

/-- The old group of a move: its count falls by k, and the exit test is made (R168). -/
def moveOut (s : State) (g k len : Nat) : State :=
  let s := putGroup s g { groupAt s g with count := (groupAt s g).count - k }
  let s := attachLine s len none
  if (groupAt s g).storm then (if exitDue s g then exitStorm s g else cableNotice s g false) else s

/-- The new group of a move: its count rises by k; a group in STORM takes the tickets, a CALM one is tested for
entry (R168). -/
def moveIn (s : State) (g k len : Nat) : State :=
  let s := putGroup s g { groupAt s g with count := (groupAt s g).count + k }
  if (groupAt s g).storm then cableNotice (attachLine s len (some g)) g false
  else if entryDue s g then enterStorm (entryTested none) s g none else s

/-- A group-move event, the directory entry already replaced (R168). -/
def groupMoved (s : State) (len : Nat) (old new : Option Nat) : State :=
  let k := (lineMembers s len).length
  if k = 0 ∨ old = new then s
  else
    let s := match old with
      | some g => moveOut s g k len
      | none => s
    match new with
    | some g => moveIn s g k len
    | none => s

/-- A threshold-change event, the new threshold already stored (R174). -/
def thresholdChanged (s : State) (g : Nat) : State :=
  if (groupAt s g).storm then (if exitDue s g then exitStorm s g else cableNotice s g false)
  else if entryDue s g then enterStorm (entryTested none) s g none else s

/-! ### Ticket commands on the table (R162, R163, R176) -/

/-- A ticket is closed: its slot is freed, and it leaves its group's count (R163, R164). -/
def closeTicket (s : State) (t : Ticket) : State :=
  handChange (freeTicket s t.id) t .closed (if isStanding t then .leaves else .stays) none

/-- A cable ticket of a group in STORM is closed by force: a new one takes another slot, or the group leaves
STORM (R176). -/
def replaceCableTicket (s : State) (t : Ticket) (g : Nat) : State :=
  let s := ticketNotice (freeTicket s t.id) t .closed
  raiseCableTicket (entryTested none) (fun s =>
    let s := putGroup s g { groupAt s g with storm := false, ticket := none }
    cableNotice (detachMembers s g) g true) s g none (some t.id)

end Sys2Proof.Machine
end

