-- ==== Sys2Proof/Machine/Classifier.lean ====
section
/-! DEFINITION. The classifier (section 7.1) and the application of a record's verdicts to the ticket table
(R150, R156). -/

namespace Sys2Proof.Machine

/-- A verdict on a line class, a failure with its value (R144). -/
inductive Verdict where
  | fail (value : Option Int)
  | pass
  | notJudged
  deriving DecidableEq, Repr

/-- The nine line classes in class order (section 7.1). -/
def lineClasses : List FaultClass :=
  [.tipGround, .ringGround, .short, .lowInsulation, .foreignDc, .foreignAc, .openLoop, .dialFault, .crossHazard]

/-- A class failed by the least of the values below `limit`, and passed by values none of which is (R145,
R147). -/
def judgeLow (values : List Nat) (limit : Nat) : Verdict :=
  match (values.filter (· < limit)).min? with
  | some v => .fail (some v)
  | none => if values = [] then .notJudged else .pass

/-- The resistances with status VALUE on a leg (R145). -/
def resistances (rs : List StepResult) (l : Leg) : List Nat :=
  (rs.filter (fun r => r.kind = .res ∧ r.status = .value ∧ r.leg = some l)).map (·.resistance)

/-- The DC of greatest magnitude, with its sign (R146). -/
def greatestDc (ds : List Int) : Option Int :=
  ds.foldl (fun best d => match best with
    | none => some d
    | some b =>
      if b.natAbs < d.natAbs ∨ (b.natAbs = d.natAbs ∧ b ≠ d ∧ Config.foreignDcTie d.natAbs) then some d
      else some b) none

/-- The program has an FV step, and every FV step has a result with status VALUE (R146). -/
def allFvValued (rs : List StepResult) : Bool :=
  let fv := rs.filter (·.kind = .fv)
  fv ≠ [] ∧ fv.all (·.status = .value)

/-- FOREIGN_DC (R146). -/
def judgeForeignDc (p : Profile) (rs : List StepResult) : Verdict :=
  let above := ((rs.filter (fun r => r.kind = .fv ∧ r.status = .value)).map (·.dc)).filter
    (fun d => p.foreignDc < d.natAbs)
  let foreign := rs.any (fun r => r.kind = .res ∧ r.status = .foreign)
  if above ≠ [] ∨ foreign then .fail (greatestDc above)
  else if allFvValued rs then .pass else .notJudged

/-- FOREIGN_AC (R146). -/
def judgeForeignAc (p : Profile) (rs : List StepResult) : Verdict :=
  let above := ((rs.filter (fun r => r.kind = .fv ∧ r.status = .value)).map (·.ac)).filter (p.foreignAc < ·)
  match above.max? with
  | some v => .fail (some v)
  | none => if allFvValued rs then .pass else .notJudged

/-- DIAL_FAULT, from the digits that carry a speed and a break ratio (R148). -/
def judgeDial (p : Profile) (rs : List StepResult) : Verdict :=
  let timings := (rs.flatMap (·.digits)).filterMap (·.timing)
  if timings = [] then .notJudged
  else if timings.all (fun t => p.speedMin ≤ t.1 ∧ t.1 ≤ p.speedMax ∧ p.ratioMin ≤ t.2 ∧ t.2 ≤ p.ratioMax) then
    .pass
  else .fail none

/-- CROSS_HAZARD, from the settling verdict the record is judged by (R149, `recordVerdict`). -/
def judgeHazard : SettlingVerdict → Verdict
  | .hazard => .fail none
  | .clear => .pass
  | _ => .notJudged

/-- The verdict on a line class (R144 to R149). -/
def judge (p : Profile) (rs : List StepResult) (v : SettlingVerdict) : FaultClass → Verdict
  | .tipGround => judgeLow (resistances rs .tipGround) p.ground
  | .ringGround => judgeLow (resistances rs .ringGround) p.ground
  | .short => judgeLow (resistances rs .tipRing) p.short
  | .lowInsulation => judgeLow ((resistances rs .tipRing).filter (p.short ≤ ·)) p.insulation
  | .foreignDc => judgeForeignDc p rs
  | .foreignAc => judgeForeignAc p rs
  | .openLoop =>
    judgeLow ((rs.filter (fun r => r.kind = .cap ∧ r.status = .value ∧ r.leg = some .tipRing ∧
      r.negative = false)).map (·.length)) p.minLength
  | .dialFault => judgeDial p rs
  | .crossHazard => judgeHazard v
  | _ => .notJudged

/-- The application of a record's verdicts so far: the failed classes with their NOT_TICKETED marks, and the
actions. -/
structure Applied where
  state : State
  failed : List (FaultClass × Bool)
  actions : List (Nat × TicketAction)
  deriving DecidableEq, Repr

/-- One class's verdict is applied, by a record that found the tickets `found` (R150, R152, R153, R157). -/
def applyVerdict (found : List Ticket) (len : Nat) (o : Origin) (a : Applied) (c : FaultClass) (v : Verdict) : Applied :=
  match v with
  | .notJudged => a
  | .fail value =>
    match failTicket a.state (.line len) c o value (some found) with
    | (s, none) => { a with state := s, failed := a.failed ++ [(c, true)] }
    | (s, some (id, act)) =>
      { a with
        state := s
        failed := a.failed ++ [(c, false)]
        actions := match act with
          | some x => a.actions ++ [(id, x)]
          | none => a.actions }
  | .pass =>
    match passTicket a.state (.line len) c (some found) with
    | (s, none) => { a with state := s }
    | (s, some (id, x)) => { a with state := s, actions := a.actions ++ [(id, x)] }

/-- The CROSS_HAZARD verdict is handed to the arbiter (R67, R156). -/
def applyHold (s : State) (len : Nat) : Verdict → State
  | .fail _ => onArbiter s (fun a => { a with holds := tabPut false a.holds len true })
  | .pass => onArbiter s (fun a => { a with holds := tabPut false a.holds len false })
  | .notJudged => s

/-- The settling verdict a record is judged by. A RESTARTED record whose steps were all NOT_RUN brings only
NOT_JUDGED verdicts (R165), so a CLEAR settling verdict of such a record is no pass: R165 is followed where R149
would make it one (DEDUCED, log entry 42). -/
def recordVerdict (r : ResultRecord) (settling : SettlingVerdict) : SettlingVerdict :=
  if r.outcome = .restarted ∧ r.results.all (·.status = .notRun) = true then .notJudged else settling

/-- The verdicts of one record are applied in class order, and the record is completed: up to four ticket
actions are listed (R150). -/
def classify (s : State) (r : ResultRecord) (settling : SettlingVerdict) : State × ResultRecord :=
  let p := match directoryAt s r.line with
    | some d => profileAt s d.profile
    | none => profileZero
  let o := if r.cls = .demand then Origin.demand else Origin.routine
  let verdict := judge p r.results (recordVerdict r settling)
  let a := lineClasses.foldl (fun a c => applyVerdict s.tickets.tickets r.line o a c (verdict c))
    { state := s, failed := [], actions := [] }
  (applyHold a.state r.line (verdict .crossHazard), { r with failed := a.failed, actions := a.actions.take 4 })

end Sys2Proof.Machine
end

