-- ==== Sys2Proof/Machine/Results.lean ====
section
/-! DEFINITION. The result store (section 10.4) and the RESULT cells (section 11.7). -/

namespace Sys2Proof.Machine

/-! ### RESULT cells (R206, section 11.7) -/

/-- The header cell's payload. The start stamp stands here, in octets 11 to 14, as the table of section 11.7 has it,
and not in the closing cell, where R206 names it (DEDUCED, log entry 53). -/
def headerPayload (r : ResultRecord) (tag : Half) : List Octet :=
  let routine := match r.cls with | .demand => 0 | .routine _ => 1
  octets2 tag.toNat ++ octets2 r.line ++
    [halves (r.session.getD 15) (lineTypeCode r.lineType), octet r.program,
      octet (routine * 128 + r.supervisionLost.toNat * 64 + r.results.length % 16), outcomeCode r.outcome]
    ++ stampOctets r.started

/-- A digit's three octets. -/
def digitOctets (d : Digit) : List Octet :=
  let t := d.timing.getD (0, 0)
  let speed := t.1 % 1024
  [octet (d.value.getD 0 % 16 * 16 + d.value.isNone.toNat * 8 + d.timing.isNone.toNat * 4 + speed / 256),
    octet speed, octet t.2]

/-- The value octets of a step with status VALUE. -/
def valueOctets (x : StepResult) : List Octet :=
  match x.kind with
  | .fv => octets3s x.dc ++ octets3 x.ac
  | .res => octets4 x.resistance
  | .cap => octets3 x.capacitance ++ octets3 x.length
  | .dial => []

/-- A step cell's payload; `i` is the step number from 1. A step without measurement fields sends 0 there. -/
def stepPayload (i : Nat) (x : StepResult) : List Octet :=
  let start := [octet (x.retried.toNat * 128 + statusCode x.status * 16 + i % 16),
    halves (stepKindCode x.kind) (legCode? x.leg)]
  if x.status = .noData ∨ x.status = .notRun then start
  else if x.kind = .dial then start ++ [octet x.digits.length] ++ x.digits.flatMap digitOctets
  else start ++
    [octet (x.atMost.toNat * 128 + x.noisy.toNat * 64 + x.openLimit.toNat * 32 + x.negative.toNat * 16
      + x.clamped.toNat * 8), octet (x.sized - 1), octet (x.taken - 1), octet x.lost]
    ++ (if x.status = .value then valueOctets x else [])

/-- Bits 15 to 7 of a half: one for each line class in class order. -/
def classBits (cs : List FaultClass) : Nat :=
  ((lineClasses.filter (· ∈ cs)).map (fun c => 2 ^ (16 - classOrder c))).sum

/-- The closing cell's payload, as the table of section 11.7 lays it out: of the stamps the end stamp alone, though
R206 has this cell carry both (DEDUCED, log entry 53). -/
def closingPayload (r : ResultRecord) : List Octet :=
  let code := fun (i : Nat) => match r.actions[i]? with | some (_, a) => actionCode a | none => 0
  let id := fun (i : Nat) => match r.actions[i]? with | some (n, _) => octet n | none => 0#8
  stampOctets r.ended
    ++ octets2 (classBits (r.failed.map (·.1)) + code 0 * 16 + code 1 * 2)
    ++ octets2 (classBits ((r.failed.filter (·.2)).map (·.1)) + code 2 * 16 + code 3 * 2)
    ++ [id 0, id 1, id 2, id 3]

/-- The RESULT cells of a record for one recipient: the header, the steps in program order, the closing. -/
def resultCells (own : Octet) (r : ResultRecord) (x : Recipient) : List Cell :=
  [makeCell kindHeader own x.unit (headerPayload r x.tag)]
    ++ r.results.zipIdx.map (fun (y, i) => makeCell kindStep own x.unit (stepPayload (i + 1) y))
    ++ [makeCell kindClosing own x.unit (closingPayload r)]

/-! ### Slots (R204, R205) -/

/-- The FREE slot of lowest number. -/
def freeSlot (s : State) : Option Nat := (List.range Config.resultSlots).find? (fun n => slotAt s n = .free)

/-- The number of FREE slots (R200). -/
def freeSlotCount (s : State) : Nat := (List.range Config.resultSlots).countP (fun n => slotAt s n = .free)

/-- A slot becomes FREE: an examination event (R204). -/
def releaseSlot (s : State) (n : Nat) : State := examineLater (putSlot s n .free)

/-- A record is filled into a slot; with no recipient the slot becomes FREE at once (R205). -/
def fillSlot (s : State) (n : Nat) (r : ResultRecord) (rs : List Recipient) : State :=
  if rs = [] then releaseSlot s n
  else onInterp (putSlot s n (.filled r rs 0)) (fun i => { i with fillingOrder := i.fillingOrder ++ [n] })

/-- A record is filled into its slot, or the FREE slot of lowest number; with none to hold it, it is lost for
delivery (R205). -/
def fillRecord (s : State) (held : Option Nat) (r : ResultRecord) (rs : List Recipient) : State :=
  match held with
  | some n => fillSlot s n r rs
  | none => match freeSlot s with
    | some n => fillSlot s n r rs
    | none => s

def recipients (rs : List Requester) : List Recipient := rs.map (fun r => { unit := r.unit, tag := r.tag })

/-- The record of a request that ends without a session (R205). Both its stamps take the calendar as it stands
(R182) at the end of the request (DEDUCED, log entry 11). -/
def sessionlessRecord (s : State) (line program : Nat) (o : EndOutcome) : ResultRecord :=
  { line := line, lineType := (directoryAt s line).map (·.lineType), program := program, cls := .demand
    session := none, outcome := o, supervisionLost := false, started := stampNow s, ended := stampNow s
    results := [], failed := [], actions := [] }

/-- A demand request ends without a session: its record goes to its requesters, in its slot or the FREE slot of
lowest number (R81, R83, R205). -/
def endWithoutSession (s : State) (held : Option Nat) (line program : Nat) (rs : List Requester)
    (o : EndOutcome) : State :=
  fillRecord s held (sessionlessRecord s line program o) (recipients rs)

/-- The store offers the next RESULT cell of the oldest FILLED record, while the NORMAL queue has room (R206).
A cell for a recipient whose address is a line shelf's or a test head's joins the NORMAL queue too, though R15 inserts
what is so destined on Port S (DESIGN CHOICE, log entry 39). -/
def deliverResult (s : State) : State :=
  if normalRoom s = 0 then s
  else match s.interp.fillingOrder with
  | [] => s
  | n :: order =>
    match slotAt s n with
    | .filled r (x :: rest) sent =>
      let cells := resultCells (own s) r x
      let s := joinNormal s ((cells[sent]?).toList)
      if sent + 1 < cells.length then putSlot s n (.filled r (x :: rest) (sent + 1))
      else if rest ≠ [] then putSlot s n (.filled r rest 0)
      else releaseSlot (onInterp s (fun i => { i with fillingOrder := order })) n
    | _ => onInterp s (fun i => { i with fillingOrder := order })

end Sys2Proof.Machine
end

