-- ==== Sys2Proof/Machine/Tracker.lean ====
section
/-! DEFINITION. The supervision tracker's operations (chapter 2): writing hook states with the derived counts,
the test mark with its TEST BLOCK reports, the freshness of shelves, and the audit exchange. -/

namespace Sys2Proof.Machine

/-! ### Hook states (R22 to R24) -/

/-- How many lines of a shelf have a hook state of the given sort. -/
def countHooks (s : State) (n : Nat) (sort : Hook → Bool) : Nat :=
  s.tracker.lines.countP (fun x => lineShelf x.1 = n ∧ sort x.2.hook)

/-- The shelf's derived counts are made to agree with the line table (R24). -/
def recountShelf (s : State) (n : Nat) : State :=
  modShelf s n (fun x => { x with
    ringing := countHooks s n (· = .ringing)
    offHook := countHooks s n (fun h => h = .offHook ∨ h = .parked) })

/-- An open step window of a session on the shelf follows the ringing count upward (R120). -/
def followRinging (s : State) (n : Nat) : State :=
  (List.range 4).foldl (fun s b =>
    match windowAt s b with
    | some w =>
      if lineShelf w.line = n ∧ w.kind ≠ .settling then
        putWindow s b (some { w with ringingMax := max w.ringingMax (shelfAt s n).ringing })
      else s
    | none => s) s

/-- The hook state of a line is written: the age starts again, the counts agree, and a change of value is a
hook-state-change event for the arbiter (R24). -/
def writeHook (s : State) (len : Nat) (h : Hook) : State :=
  let old := (lineOf s len).hook
  let s := modLine s len (fun l => { l with hook := h, writtenAt := s.tracker.ageClock })
  let s := recountShelf s (lineShelf len)
  let s := followRinging s (lineShelf len)
  if old = h then s else examineLater s

/-- The hook meaning of a report (R22); LOOP_OPEN and LOOP_CLOSE have none. -/
def reportMeaning : Report → Option Hook
  | .offHook => some .offHook
  | .onHook => some .idle
  | .park => some .parked
  | .ringTrip => some .offHook
  | .loopOpen => none
  | .loopClose => none

/-- A report changes the entry as the table of R22 gives; the age is set to 0 in every case. -/
def applyReport (s : State) (len : Nat) (r : Report) : State :=
  match reportMeaning r with
  | some h => writeHook s len h
  | none => modLine s len (fun l => { l with writtenAt := s.tracker.ageClock })

/-- The last forwarded value takes a report's hook meaning (R22, R41). -/
def forwardReport (s : State) (len : Nat) (r : Report) : State :=
  match reportMeaning r with
  | some h => modLine s len (fun l => { l with lastForwarded := h })
  | none => s

/-! ### Test marks (R40, R41, R66) -/

/-- The synthesised report that follows UNBLOCKED, from the hook state and the last forwarded value (R41). -/
def synthesisedReport (l : Line) : Option Report :=
  match l.hook, l.lastForwarded with
  | .offHook, _ => some .offHook
  | .parked, .parked => none
  | .parked, _ => some .offHook
  | .idle, .offHook => some .onHook
  | .idle, .parked => some .onHook
  | _, _ => none

/-- UNBLOCKED is offered for a line, with the synthesised report behind it where one is called for and
wanted (R40, R41). The report goes to the tail, as R15 says, also when UNBLOCKED has merged with a TEST BLOCK that
waits in mid-queue (R16), where R41 would have it immediately behind (DESIGN CHOICE, log entry 40). -/
def offerUnblocked (s : State) (len : Nat) (synthesise : Bool) : State :=
  let s := offerTestBlock s len false
  match synthesisedReport (lineOf s len) with
  | some r => if synthesise then offerUrgent s (synthReportCell (own s) len r) else s
  | none => s

/-- The mark of a line changes (R66). Out of FREE, BLOCKED is offered; into FREE, UNBLOCKED is, and the change
is an examination event. -/
def setMark (s : State) (len : Nat) (m : Mark) (synthesise : Bool) : State :=
  let old := markOf s len
  let s := writeMark s len m
  if old = .free ∧ m ≠ .free then offerTestBlock s len true
  else if old ≠ .free ∧ m = .free then examineLater (offerUnblocked s len synthesise)
  else s

/-! ### Freshness (R25 to R27, R113) -/

/-- Every session on a line of the shelf has SUPERVISION_LOST set (R113). -/
def loseSupervision (s : State) (n : Nat) : State :=
  (List.range Config.sessionPlaces).foldl (fun s id => modSession s id (fun x =>
    if lineShelf x.line = n then { x with supervisionLost := true } else x)) s

/-- A shelf becomes STALE or DRIFT: its mismatch is cleared and its sessions are marked (R25, R26, R113). -/
def distrustShelf (s : State) (n : Nat) (f : Freshness) : State :=
  let old := (shelfAt s n).freshness
  let s := modShelf s n (fun x => { x with freshness := f, mismatch := false })
  if old = f then s else loseSupervision s n

/-- A shelf-open event, when the shelf has become open for access (R32). -/
def shelfOpened (s : State) (n : Nat) (before : Bool) : State :=
  if openForAccess s n ∧ before = false then examineLater s else s

/-- The riser release state of a shelf is written (R32). -/
def setReleased (s : State) (n : Nat) (v : Bool) : State :=
  let before := openForAccess s n
  shelfOpened (modShelf s n (fun x => { x with released := v })) n before

/-! ### Audits (R27 to R31) -/

/-- An audit attempt is sent: a tag, no card received, and an AUDIT ORDER to the shelf (R28). -/
def sendAudit (s : State) (n : Nat) : State :=
  let t := nextOrderTag s
  let s := tagIssued s t
  let s := modShelf s n (fun x => { x with audit := some { tag := t, timer := none, cards := [] } })
  offerSouth s (auditOrderCell (own s) n t)

/-- An audit is started (R27). -/
def startAudit (s : State) (n : Nat) : State :=
  sendAudit (modShelf s n (fun x => { x with auditRetries := 0 })) n

/-- The hook state a completed audit gives circuit `i` of card `c`. -/
def auditedHook (cards : Tab (List Hook)) (k : Nat) : Hook :=
  (tabGet [] cards (k / 16)).getD (k % 16) .unknown

/-- The audit of a shelf completes (R30). -/
def completeAudit (s : State) (n : Nat) (cards : Tab (List Hook)) : State :=
  let before := openForAccess s n
  let changed := (List.range 256).filter (fun k => (lineOf s (n * 256 + k)).hook ≠ auditedHook cards k)
  let s := (List.range 256).foldl (fun s k =>
    modLine s (n * 256 + k) (fun l => { l with hook := auditedHook cards k, writtenAt := s.tracker.ageClock })) s
  let s := recountShelf s n
  let s := followRinging s n
  let s := modShelf s n (fun x => { x with
    mismatch := false, audit := none, auditRetries := 0, heartbeat := some Config.heartbeatMs,
    freshness := .fresh })
  let s := changed.foldl (fun s _ => examineLater s) s
  shelfOpened s n before

/-- A shelf's hook codes in an audit report: sixteen half-octets, circuit 0 in the high half of octet 5
(section 11.4); none when one of them is not a hook code (R29). -/
def auditHooks (c : Cell) : Option (List Hook) :=
  (List.range 16).mapM (fun i =>
    let o := (payloadAt c (2 + i / 2)).toNat
    hookOf (if i % 2 = 0 then o / 16 else o % 16))

/-- An AUDIT REPORT is taken when it matches the audit in flight of its shelf, and otherwise discarded
(R29, R212). -/
def takeAuditReport (s : State) (c : Cell) : State :=
  match shelfOf c.src with
  | none => s
  | some n =>
    match (shelfAt s n).audit, auditHooks c with
    | some a, some hooks =>
      let card := (payloadAt c 1).toNat
      if a.tag = (payloadAt c 0).toNat ∧ card ≤ 15 then
        let cards := tabPut [] a.cards card hooks
        if cards.length = 16 then completeAudit s n cards
        else modShelf s n (fun x => { x with audit := some { a with cards := cards } })
      else s
    | _, _ => s

/-- A summary of a FRESH shelf is compared with the tracked off-hook count (R26). -/
def compareSummary (s : State) (n count : Nat) : State :=
  let x := shelfAt s n
  if count = x.offHook then modShelf s n (fun x => { x with mismatch := false })
  else if x.mismatch = false then modShelf s n (fun x => { x with mismatch := true })
  else startAudit (distrustShelf s n .drift) n

/-- A summary of an unreleased shelf brings a fresh RELEASE ALL when none is pending and none joined the South
queue in the last 1,000 ms (R115). -/
def freshReleaseAll (s : State) (n : Nat) : State :=
  let mine : Order → Bool := fun o => o.kind = .releaseAll ∧ o.shelf = n
  let recent : Bool := match tabGet none s.engine.releaseAllAt n with
    | some t => s.clock < t + Config.releaseAllGapMs
    | none => false
  if s.engine.orders.any (fun o => mine o.order) || s.engine.waiting.any mine || recent then s
  else requestOrder s (releaseAllOrder n (.freshRelease n))

/-- A SCAN SUMMARY is read (R25 to R27). Where one summary of a STALE and unreleased shelf calls for an audit order
and for a RELEASE ALL, the audit order comes first (DESIGN CHOICE, log entry 43). -/
def readSummary (s : State) (n count : Nat) : State :=
  let s := modShelf s n (fun x => { x with heartbeat := some Config.heartbeatMs })
  let s := match (shelfAt s n).freshness with
    | .fresh => compareSummary s n count
    | .drift => s
    | .stale => if (shelfAt s n).audit.isNone then startAudit s n else s
  if (shelfAt s n).released then s else freshReleaseAll s n

/-- The heartbeat timer of a shelf runs out (R25). -/
def heartbeatExpired (s : State) (n : Nat) : State :=
  let s := modShelf s n (fun x => { x with heartbeat := none })
  if (shelfAt s n).freshness = .stale then s else distrustShelf s n .stale

/-- The audit timer of a shelf runs out (R31). -/
def auditExpired (s : State) (n : Nat) : State :=
  let s := modShelf s n (fun x => { x with audit := none, auditRetries := x.auditRetries + 1 })
  if (shelfAt s n).auditRetries < 3 then sendAudit s n
  else distrustShelf (modShelf s n (fun x => { x with auditRetries := 0 })) n .stale

end Sys2Proof.Machine
end

