-- ==== Sys2Proof/Machine/Measure.lean ====
section
/-! DEFINITION. The measurement unit: windows and sample intake (section 6.1), the computations (sections 6.2 to
6.4) and the sample-loss checker (section 6.7). -/

namespace Sys2Proof.Machine

/-! ### Rounding (section "Arithmetic" of the introduction) -/

/-- `a / n` rounded half up, for quantities that are not negative. -/
def roundHalfUp (a n : Nat) : Nat := (2 * a + n) / (2 * n)

/-- `a / n` rounded half away from zero. -/
def roundHalfAway (a : Int) (n : Nat) : Int :=
  if a < 0 then -(roundHalfUp a.natAbs n : Int) else (roundHalfUp a.natAbs n : Int)

/-- The integer square root of a number below 2^64. -/
def integerRoot (n : Nat) : Nat :=
  (List.range 32).foldl (fun r i => if (r + 2 ^ (31 - i)) * (r + 2 ^ (31 - i)) ≤ n then r + 2 ^ (31 - i) else r) 0

/-! ### The sample-loss checker (R138 to R143) -/

/-- The value of a float8 target: the floor of m × 16^(e − 1) (R138). -/
def float8 (t : Octet) : Nat := t.toNat / 16 * 16 ^ (t.toNat % 16) / 16

/-- `lost` samples counted lost by a head, one after the other, each increase compared with the target (R139). A
target first exceeded sets DEGRADED and reports a failure with the count it compared. -/
def countLost (s : State) (h lost : Nat) : State :=
  let c := checkerAt s h
  let target := float8 (headAt s h).target
  let run := min (c.running + lost) Config.maxCount32
  if lost = 0 then s
  else if run ≤ target then putChecker s h { c with running := run }
  else
    let new := { c with
      running := run
      exceeded := c.exceeded || (headAt s h).mode = .hourly
      degraded := true }
    let s' := putChecker s h new
    if c.degraded then s'
    else equipmentFail s' (.head h) .headDegraded
      (some (min (max (c.running + 1) (target + 1)) Config.maxCount32))

/-- A timebase timer runs out (R140, R141). -/
def timebaseExpired (s : State) (h : Nat) : State :=
  let c := checkerAt s h
  let target := float8 (headAt s h).target
  match (headAt s h).mode with
  | .continuous => putChecker s h { c with timer := Config.timebaseMs }
  | .hourly =>
    let new := { c with
      latched := c.running, running := 0, timer := Config.timebaseMs, exceeded := false }
    if c.running ≤ target then
      if c.exceeded = false ∧ c.degraded then
        equipmentPass (putChecker s h { new with degraded := false }) (.head h) .headDegraded
      else putChecker s h new
    else if c.degraded then putChecker s h new
    else equipmentFail (putChecker s h { new with degraded := true }) (.head h) .headDegraded (some c.running)

/-! ### Windows (R119 to R127) -/

/-- What a window's end reports to the session engine (R95, R97, R124 to R126). -/
inductive WindowEnd where
  | settled (below : Bool)
  | done (result : StepResult)
  | repeated
  | noData
  | hazard
  deriving DecidableEq, Repr

/-- The window the engine opens: its size, sums and references (R119). -/
def newWindow (s : State) (tag : Nat) (kind : WindowKind) (leg : Leg) (line programWindow interval : Nat) : Window :=
  let ringing := (shelfAt s (lineShelf line)).ringing
  { tag := tag, kind := kind, leg := leg, line := line
    sized := if kind = .settling then 16 else if ringing = 0 then programWindow else 2 * programWindow
    interval := interval, taken := 0, sumV := 0, sumVV := 0, sumI := 0, tail := [], lastSeq := none, lost := 0
    ringingMax := if kind = .settling then 0 else ringing
    hazardRun := 0, belowClear := true, atMost := false, silence := none }

/-- The engine closes a window: it ends without report (R127). -/
def closeWindow (s : State) (b : Nat) : State := putWindow s b none

/-- A result with nothing measured. -/
def blankResult (status : StepStatus) (kind : StepKind) (leg : Option Leg) (retried : Bool) : StepResult :=
  { status := status, kind := kind, leg := leg, retried := retried, sized := 0, taken := 0, lost := 0
    atMost := false, noisy := false, openLimit := false, negative := false, clamped := false, dc := 0, ac := 0
    resistance := 0, capacitance := 0, length := 0, digits := [] }

/-- The fields every computed window result carries; NOISY for a ringing maximum of 8 or more (R120). -/
def measuredResult (w : Window) (status : StepStatus) (kind : StepKind) : StepResult :=
  { blankResult status kind (some w.leg) false with
    sized := w.sized, taken := w.taken, lost := w.lost, atMost := w.atMost, noisy := 8 ≤ w.ringingMax }

/-- An FV window's result (R128). -/
def fvResult (w : Window) : StepResult :=
  { measuredResult w .value .fv with
    dc := roundHalfAway w.sumV w.taken
    ac := integerRoot (((w.taken * w.sumVV - w.sumV * w.sumV) / (w.taken * w.taken : Nat)).toNat) }

/-- A RES window's result: the four tests in order (R129). -/
def resResult (w : Window) : StepResult :=
  let v := w.sumV.natAbs
  let i := w.sumI.natAbs
  if v < w.taken * 1000 then measuredResult w .invalid .res
  else if i = 0 ∨ w.sumV.sign ≠ w.sumI.sign then measuredResult w .foreign .res
  else
    let r := roundHalfUp (v * 1000000) i
    if i < w.taken ∨ 100000000 < r then
      { measuredResult w .value .res with resistance := 100000000, openLimit := true }
    else { measuredResult w .value .res with resistance := r }

/-- The capacitance per km of a line for a leg, read when the length is computed (R49, R132). -/
def capPerKm (s : State) (line : Nat) (leg : Leg) : Nat :=
  match directoryAt s line with
  | some d => if leg = .tipRing then (profileAt s d.profile).capTipRing else (profileAt s d.profile).capLegGround
  | none => 0

/-- A CAP window's result (R131, R132). -/
def capResult (s : State) (w : Window) : StepResult :=
  let tailI := (w.tail.map (·.2)).sum
  let leakage := roundHalfAway tailI 8
  let e := w.sumI - tailI - (w.taken - 8 : Nat) * leakage
  let q := e * w.interval
  let vs := roundHalfAway ((w.tail.map (·.1)).sum) 8
  if vs.natAbs < 1000 then measuredResult w .invalid .cap
  else
    let same := q.sign = vs.sign
    let c := if same then roundHalfUp q.natAbs vs.natAbs else 0
    let c' := min c 10000000
    { measuredResult w .value .cap with
      capacitance := c'
      negative := q ≠ 0 ∧ ¬ same
      clamped := 10000000 < c
      length := min (c' * 1000 / capPerKm s w.line w.leg) 99999 }

/-- The report of a window that has accounted for its samples (R125). -/
def windowReport (s : State) (w : Window) : WindowEnd :=
  if w.sized / 8 < w.lost then .repeated
  else match w.kind with
    | .settling => .settled w.belowClear
    | .fv => .done (fvResult w)
    | .res => .done (resResult w)
    | .cap => .done (capResult s w)

/-- A sample is accumulated (R123) and tested against the hazard levels (R124). -/
def accumulate (s : State) (w : Window) (v i : Int) (overrange : Bool) : Window :=
  let tests := w.kind = .settling ∨ w.kind = .fv
  { w with
    taken := w.taken + 1
    sumV := w.sumV + v
    sumVV := w.sumVV + v * v
    sumI := w.sumI + i
    tail := (if w.tail.length < 8 then w.tail else w.tail.drop 1) ++ [(v, i)]
    atMost := w.atMost || overrange
    belowClear := w.belowClear && (w.kind ≠ .settling || v.natAbs < s.tables.clear)
    hazardRun := if tests then (if s.tables.danger ≤ v.natAbs then w.hazardRun + 1 else 0) else w.hazardRun
    silence := some (silenceLimit w.interval) }

/-- How a taken sample's gap is counted (R122): none for a repeat, otherwise the samples counted lost. -/
def gapLoss (lastSeq : Option Nat) (seq : Nat) : Option Nat :=
  match lastSeq with
  | none => some 0
  | some l =>
    let g := (seq + 65536 - l) % 65536
    if g = 0 then none else if g ≤ 1024 then some (g - 1) else some 1

/-- A sample of the open window's tag is sequence-tested and accumulated; the window may end (R122 to R125). -/
def sampleInWindow (s : State) (b : Nat) (w : Window) (seq : Nat) (v i : Int) (overrange : Bool) :
    State × Option WindowEnd :=
  match gapLoss w.lastSeq seq with
  | none => (s, none)
  | some lost =>
    let s := countLost s b lost
    let w := accumulate s { w with lastSeq := some seq, lost := w.lost + lost } v i overrange
    if 4 ≤ w.hazardRun then (putWindow s b none, some .hazard)
    else if w.sized ≤ w.taken + w.lost then (putWindow s b none, some (windowReport s w))
    else (putWindow s b (some w), none)

/-- A SAMPLE cell is taken when its head's bus has a window open with its tag, and otherwise discarded (R121,
R212): the bus whose window it ended, with the report. -/
def takeSample (s : State) (c : Cell) : State × Option (Nat × WindowEnd) :=
  match headOf c.src with
  | none => (s, none)
  | some b =>
    match windowAt s b with
    | none => (s, none)
    | some w =>
      let v := (field3 c 3).toInt
      let i := (field3 c 6).toInt
      if (payloadAt c 2).toNat = w.tag ∧ v ≠ -8388608 ∧ i ≠ -8388608 then
        let r := sampleInWindow s b w (field2 c 0).toNat v i ((payloadAt c 9).getLsbD 0)
        (r.1, r.2.map (fun e => (b, e)))
      else (s, none)

end Sys2Proof.Machine
end

