-- ==== Sys2Proof/Machine/Dial.lean ====
section
/-! DEFINITION. The pulse collector (section 6.6). Timestamps are the line card's, and their differences are
taken modulo 65,536. -/

namespace Sys2Proof.Machine

/-- The time from timestamp `a` to timestamp `b`. -/
def elapsed (a b : Nat) : Nat := (b + 65536 - a) % 65536

/-- A collector as it is opened (R133): WAITING when the session awaits off-hook, and otherwise ACTIVE with the
loop CLOSED and closed-since none. -/
def openCollector (limit : Nat) (waiting : Bool) : Collector :=
  { collectorZero with phase := if waiting then .waiting else .active, limit := limit }

/-- The digit of `b` breaks (R136). -/
def digitOf (c : Collector) : Digit :=
  let b := c.breaks
  let span := elapsed c.firstStart c.latestStart
  { value := if b ≤ 9 then some b else if b = 10 then some 0 else none
    timing :=
      if b < 2 then none
      else if span = 0 then some (Config.zeroSpanSpeed b, Config.zeroSpanRatio b)
      else some (roundHalfUp (10000 * (b - 1)) span, roundHalfUp (100 * c.earlierSum) span) }

/-- The digit in progress completes (R136). -/
def completeDigit (c : Collector) : Collector :=
  { c with digits := c.digits ++ [digitOf c], breaks := 0, firstStart := 0, latestStart := 0, latestLength := 0,
           earlierSum := 0 }

/-- The digit list has reached the digit limit (R136). -/
def limitReached (c : Collector) : Bool := c.limit ≤ c.digits.length

/-- A LOOP_OPEN with timestamp `t` is confirmed: a closed interval of 251 ms or more before it ends the digit in
progress, and it begins a break unless the collector thereby reached its limit (R135, R136). -/
def confirmOpen (c : Collector) (t : Nat) : Collector :=
  let long : Bool := match c.closedSince with
    | some since => 251 ≤ elapsed since t
    | none => false
  let c := if long ∧ 1 ≤ c.breaks then completeDigit c else c
  if limitReached c then c
  else
    { c with
      loopOpen := true
      firstStart := if c.breaks = 0 then t else c.firstStart
      earlierSum := if c.breaks = 0 then c.earlierSum else c.earlierSum + c.latestLength
      latestStart := t
      breaks := c.breaks + 1 }

/-- A LOOP_CLOSE with timestamp `t` is confirmed (R135). -/
def confirmClose (c : Collector) (t : Nat) : Collector :=
  { c with loopOpen := false, latestLength := elapsed c.latestStart t, closedSince := some t }

/-- The pending transition is confirmed. -/
def confirmPending (c : Collector) : Collector :=
  match c.pending with
  | none => c
  | some (isOpen, t) =>
    let c := { c with pending := none }
    if isOpen then confirmOpen c t else confirmClose c t

/-- A transition becomes pending: LOOP_CLOSE starts the digit timer, LOOP_OPEN stops it (R134). -/
def makePending (c : Collector) (isOpen : Bool) (t : Nat) : Collector :=
  { c with pending := some (isOpen, t), timer := if isOpen then none else some Config.digitMs }

/-- The noise rejector takes a LOOP_OPEN or LOOP_CLOSE report in ACTIVE (R134). -/
def loopReport (c : Collector) (isOpen : Bool) (t : Nat) : Collector :=
  let effective := match c.pending with
    | some (o, _) => o
    | none => c.loopOpen
  if effective = isOpen then c
  else match c.pending with
    | none => makePending c isOpen t
    | some (_, since) =>
      if elapsed since t < 10 then
        { c with pending := none, timer := if c.loopOpen then none else some Config.digitMs }
      else
        let c := confirmPending c
        if limitReached c then c else makePending c isOpen t

/-- A report reaches the collector (R133, R134). -/
def collectReport (c : Collector) (r : Report) (t : Nat) : Collector :=
  match c.phase, r with
  | .waiting, .offHook => { c with phase := .active, loopOpen := false, closedSince := some t }
  | .waiting, .ringTrip => { c with phase := .active, loopOpen := false, closedSince := some t }
  | .active, .loopOpen => loopReport c true t
  | .active, .loopClose => loopReport c false t
  | _, _ => c

/-- The digit timer runs out: a pending LOOP_CLOSE is confirmed, and a digit in progress completes (R135). -/
def digitTimerExpired (c : Collector) : Collector :=
  let c := { c with timer := none }
  let c := match c.pending with
    | some (false, _) => confirmPending c
    | _ => c
  if 1 ≤ c.breaks then completeDigit c else c

/-- A collector closes (R137). Closing other than by its digit limit drops a pending LOOP_OPEN, confirms a
pending LOOP_CLOSE and completes a digit in progress. -/
def closeCollector (c : Collector) : Collector :=
  let c :=
    if limitReached c then c
    else
      let c := match c.pending with
        | some (false, _) => confirmPending c
        | _ => c
      if 1 ≤ c.breaks then completeDigit c else c
  { c with phase := .closed, pending := none, timer := none }

/-- The step result a closed collector gives (R137). -/
def dialResult (c : Collector) : StepResult := { blankResult .value .dial none false with digits := c.digits }

end Sys2Proof.Machine
end

