-- ==== Sys2Proof/Machine/Queue.lean ====
section
/-! DEFINITION. The request queue (section 4.3): its order, joining, merging, displacement, and the requests
given back by sessions (section 4.8). -/

namespace Sys2Proof.Machine

/-! ### The order of the queue (R68) -/

def isDemand (x : Entry) : Bool := x.cls = .demand
def isRoutine (x : Entry) : Bool := ! isDemand x

/-- Demand entries stand ahead of routine entries, and within each class returned entries ahead of the rest. -/
def placeRank (x : Entry) : Nat := (if isDemand x then 0 else 2) + (if x.returned then 0 else 1)

/-- The same line, program and class. -/
def sameRequest (x y : Entry) : Bool := x.line = y.line ∧ x.program = y.program ∧ isDemand x = isDemand y

/-- An entry takes the last place of its rank. -/
def insertEntry (q : List Entry) (x : Entry) : List Entry :=
  q.filter (fun y => placeRank y ≤ placeRank x) ++ [x] ++ q.filter (fun y => placeRank x < placeRank y)

def putQueue (s : State) (q : List Entry) : State := onArbiter s (fun a => { a with queue := q })

/-- An entry joins the queue: an examination event (R73). -/
def joinQueue (s : State) (x : Entry) : State := examineLater (putQueue s (insertEntry s.arbiter.queue x))

/-- An entry leaves the queue; a reservation it held lapses, which is an examination event (R79). -/
def leaveQueue (s : State) (x : Entry) : State :=
  let s := putQueue s (s.arbiter.queue.filter (fun y => ! sameRequest x y))
  if x.reservation.isSome then examineLater s else s

/-- An entry changed in its place. -/
def replaceEntry (s : State) (x : Entry) : State :=
  putQueue s (s.arbiter.queue.map (fun y => if sameRequest x y then x else y))

def routineCount (q : List Entry) : Nat := q.countP isRoutine

/-- A routine entry is handed back busy, preempted or dropped, or reported skipped (R84). -/
def reportRoutine (s : State) (c : RequestClass) (line : Nat) (r : SweepReport) : State :=
  match c with
  | .routine n => handOn s (.report n line r)
  | .demand => s

/-- The newest routine entry is removed and handed back as dropped (R71). -/
def displaceRoutine (s : State) : State :=
  match (s.arbiter.queue.filter isRoutine).getLast? with
  | some x => reportRoutine (leaveQueue s x) x.cls x.line .handedBack
  | none => s

/-! ### Demand requests (R69 to R71) -/

/-- The wait limit in ms, clamped (R69): absent is 60 s, 0 is 1 s, above 600 is 600 s. -/
def clampWait (limit : Half) : Nat :=
  if limit = 0xFFFF#16 then 60000
  else if limit.toNat = 0 then 1000
  else min limit.toNat 600 * 1000

/-- A new demand entry (R69). -/
def demandEntry (line program : Nat) (r : Requester) (waitMs : Nat) : Entry :=
  { line := line, program := program, cls := .demand, requesters := [r], returned := false, waitMs := waitMs
    seenBusy := false, retries := 0, reservation := none, slot := none }

/-- A request merges into a waiting demand entry (R70). -/
def mergeRequest (s : State) (x : Entry) (r : Requester) (waitMs : Nat) : State × ResponseCode :=
  let longer := { x with waitMs := max x.waitMs waitMs }
  if r ∈ x.requesters then (replaceEntry s longer, .merged)
  else if x.requesters.length < 4 then
    (replaceEntry s { longer with requesters := x.requesters ++ [r] }, .merged)
  else (s, .full)

/-- A demand request that has passed the tests before it merges, displaces or joins (R69 to R71). -/
def submitDemand (s : State) (line program : Nat) (r : Requester) (waitMs : Nat) : State × ResponseCode :=
  let new := demandEntry line program r waitMs
  match s.arbiter.queue.find? (sameRequest new) with
  | some x => mergeRequest s x r waitMs
  | none =>
    if s.arbiter.queue.length < Config.queueCapacity then (joinQueue s new, .done)
    else if routineCount s.arbiter.queue = 0 then (s, .full)
    else (joinQueue (displaceRoutine s) new, .done)

/-! ### Routine requests (R72) -/

/-- The arbiter's answer to a routine submission. -/
inductive Submission where
  | accepted
  | serviceState
  | duplicate
  | full
  deriving DecidableEq, Repr

def routineEntry (schedule line program : Nat) : Entry :=
  { line := line, program := program, cls := .routine schedule, requesters := [], returned := false, waitMs := 0
    seenBusy := false, retries := 0, reservation := none, slot := none }

/-- A routine submission is refused or joins (R72). -/
def submitRoutine (s : State) (schedule line program : Nat) : State × Submission :=
  let new := routineEntry schedule line program
  if s.arbiter.service = .starting ∨ s.arbiter.service = .unconfigured then (s, .serviceState)
  else if s.arbiter.queue.any (sameRequest new) then (s, .duplicate)
  else if Config.queueCapacity ≤ s.arbiter.queue.length ∨ Config.routineCapacity ≤ routineCount s.arbiter.queue then
    (s, .full)
  else (joinQueue s new, .accepted)

/-! ### Requests given back (R83) -/

/-- The entry a session's request rejoins as. -/
def returnedEntry (x : Session) (retries : Nat) (seenBusy : Bool) : Entry :=
  { line := x.line, program := x.program, cls := x.cls, requesters := x.requesters, returned := true
    waitMs := x.waitMs, seenBusy := seenBusy, retries := retries, reservation := none, slot := x.slot }

/-- A returned entry merges with the waiting entry of the same line, program and class (R83). -/
def mergeReturned (s : State) (new w : Entry) : State :=
  let all := new.requesters ++ w.requesters
  let s := leaveQueue s w
  let s := match w.slot with
    | some n => releaseSlot s n
    | none => s
  let s := reportRoutine s w.cls w.line .handedBack
  let s := if all.drop 4 = [] then s else endWithoutSession s none w.line w.program (all.drop 4) .noResource
  joinQueue s { new with requesters := all.take 4, waitMs := max new.waitMs w.waitMs }

/-- A request given back by its session rejoins, merges, displaces, or is handed back or ended (R83). -/
def giveBack (s : State) (new : Entry) : State :=
  match s.arbiter.queue.find? (sameRequest new) with
  | some w => mergeReturned s new w
  | none =>
    if isDemand new then
      if s.arbiter.queue.length < Config.queueCapacity then joinQueue s new
      else if routineCount s.arbiter.queue = 0 then
        endWithoutSession s new.slot new.line new.program new.requesters .noResource
      else joinQueue (displaceRoutine s) new
    else if s.arbiter.queue.length < Config.queueCapacity ∧ routineCount s.arbiter.queue < Config.routineCapacity then
      joinQueue s new
    else reportRoutine s new.cls new.line .handedBack

/-- A demand session that ended COMPLETE satisfies the waiting routine entries of its line and program (R85). -/
def satisfyRoutine (s : State) (line program : Nat) (failed : Bool) : State :=
  (s.arbiter.queue.filter (fun y => isRoutine y ∧ y.line = line ∧ y.program = program)).foldl
    (fun s y => reportRoutine (leaveQueue s y) y.cls y.line (.satisfied failed)) s

/-- A demand entry's wait timer runs out (R81). -/
def waitExpired (s : State) (x : Entry) : State :=
  endWithoutSession (leaveQueue s x) x.slot x.line x.program x.requesters
    (if x.seenBusy then .lineBusy else .noResource)

end Sys2Proof.Machine
end

