-- ==== Sys2Proof/Machine/Sessions.lean ====
section
/-! DEFINITION. The sessions (chapter 5): how a session ends, releases, connects, settles, measures and fails, and
the DIAL sessions. -/

namespace Sys2Proof.Machine

/-! ### The end of a session (R80, R98, R110) -/

/-- The record of a session as it ends (R205). -/
def sessionRecord (s : State) (id : Nat) (x : Session) (o : EndOutcome) : ResultRecord :=
  { line := x.line, lineType := (directoryAt s x.line).map (·.lineType), program := x.program, cls := x.cls
    session := some id, outcome := o, supervisionLost := x.supervisionLost, started := x.started
    ended := stampNow s, results := x.results, failed := [], actions := [] }

/-- A record is classified and goes to the result store; a demand COMPLETE satisfies, and a routine session is
reported to its schedule (R84, R85, R144, R150, R205). -/
def handRecord (s : State) (id : Nat) (x : Session) (o : EndOutcome) : State :=
  let c := classify s (sessionRecord s id x o) x.verdict
  let s := c.1
  let r := c.2
  let failed : Bool := r.failed ≠ []
  match x.cls with
  | .demand =>
    let s := fillRecord s x.slot r (recipients x.requesters)
    if o = .complete then satisfyRoutine s x.line x.program failed else s
  | .routine n =>
    let wanted : Bool := match (scheduleAt s n).config with
      | some cfg => cfg.report
      | none => false
    let s := if wanted then fillRecord s none r [{ unit := maintenance, tag := BitVec.ofNat 16 n }] else s
    reportRoutine s x.cls x.line (if o = .preempted then .handedBack else .ended o failed)

/-- How a session without an outcome gives its request back: abandoned (R34, R93), or after a connect failure
(R100). -/
inductive Returning where
  | abandoned
  | failed
  deriving DecidableEq, Repr

/-- A session's request is given back: an abandoned routine request goes to its schedule as busy (R83). -/
def returnRequest (s : State) (x : Session) : Returning → State
  | .abandoned =>
    if x.cls = .demand then giveBack s (returnedEntry x x.retries true)
    else reportRoutine s x.cls x.line .handedBack
  | .failed => giveBack s (returnedEntry x (x.retries + 1) false)

/-- A session ends in one step: its session table entry is freed, its line's mark changes, its record or its returned
request is handed over, and an examination event follows (R80, R98). -/
def finishSession (s : State) (id : Nat) (m : Mark) (synthesise : Bool) (ret : Returning) : State :=
  match sessionAt s id with
  | none => s
  | some x =>
    let s := setMark (putSession s id none) x.line m synthesise
    let s := match x.outcome with
      | some o => handRecord s id x o
      | none => returnRequest s x ret
    examineLater s

/-- A metallic session in RESERVED ends at once; its riser and bus become FREE if the RISER OPERATE never left
the wait list, and pass to the riser clean-up otherwise (R99). The clean-up also releases an access relay whose ACCESS
OPERATE has been ordered and waits in the South backlog (R34, R37; DESIGN CHOICE, log entry 16). -/
def dropReserved (s : State) (id : Nat) (synthesise : Bool) (ret : Returning) : State :=
  match sessionAt s id with
  | none => s
  | some x =>
    match x.bus with
    | none => finishSession s id .free synthesise ret
    | some b =>
      let unsent := s.engine.waiting.any (fun o => o.owner = .session id ∧ o.kind = .riserOperate)
      let ordered := s.engine.orders.any (fun o => o.order.owner = .session id ∧ o.order.kind = .accessOperate)
      let s := giveUpOrders s (.session id)
      let s := finishSession s id .free synthesise ret
      if unsent then busReleased (freeRiser s (lineShelf x.line)) b
      else startCleanUp s b (if ordered then accessReleaseOrder x.line (.cleanUp b)
        else riserReleaseOrder (lineShelf x.line) b (.cleanUp b))

/-- The session requests its ACCESS RELEASE and is RELEASING (R98). -/
def requestRelease (s : State) (id : Nat) (x : Session) : State :=
  let s := modSession s id (fun x => { x with state := .releasing, accessReleased := false })
  requestOrder s (accessReleaseOrder x.line (.session id))

/-- A settling or measuring session is given up: its window closes, HEAD STOP is queued with the window's tag,
and the release begins (R99, R105, R127). -/
def stopAndRelease (s : State) (id : Nat) (x : Session) : State :=
  match x.bus with
  | none => s
  | some b =>
    let tag := match windowAt s b with
      | some w => w.tag
      | none => ((busAt s b).nextTag + 255) % 256
    let s := closeWindow s b
    let s := offerSouth s (headStopCell (own s) b tag)
    requestRelease s id x

/-- A DIAL session ends: its collector closes and gives the step result, and the line is FREE (R110, R137). -/
def finishDial (s : State) (id : Nat) (x : Session) (o : List Digit → EndOutcome) : State :=
  let c := closeCollector (collectorAt s id)
  let opened : Bool := (collectorAt s id).phase ≠ .closed
  let results := if opened then [dialResult c] else x.results
  let digits := if opened then c.digits else []
  let s := putCollector s id collectorZero
  let s := modSession s id (fun x => { x with results := results, outcome := some (o digits) })
  finishSession s id .free true .failed

/-- COMPLETE with a digit, NO_DIGITS without (R110). -/
def dialOutcome (ds : List Digit) : EndOutcome := if ds = [] then .noDigits else .complete

/-- An ending cause reaches a session: the first sets the outcome and starts the release from the session's
state; of the later ones only CANCELLED and RESTARTED still reach a session releasing without an outcome (R99). -/
def endSession (s : State) (id : Nat) (o : EndOutcome) : State :=
  match sessionAt s id with
  | none => s
  | some x =>
    if x.outcome.isSome then s
    else
      let named := modSession s id (fun x => { x with outcome := some o })
      match x.state with
      | .releasing => if o = .cancelled ∨ o = .restarted then named else s
      | .reserved => if x.bus.isSome then dropReserved named id true .failed else finishDial s id x (fun _ => o)
      | .connecting => requestRelease (giveUpOrders named (.session id)) id x
      | .settling => stopAndRelease named id x
      | .measuring => stopAndRelease named id x
      | .awaitOffHook => finishDial s id x (fun _ => o)
      | .collecting => finishDial s id x (fun _ => o)

/-! ### Connecting (R92 to R94) -/

/-- The hook test of R93. -/
def hookTest (s : State) (x : Session) : Bool :=
  (lineOf s x.line).hook = .idle ∨ ((lineOf s x.line).hook = .parked ∧ x.cls = .demand)

/-- The ACCESS OPERATE of a session has an order table entry: with the hook test passed the order is offered to the
South queue, and its joining cuts the line off; otherwise the session is abandoned (R93). The hook state is read here
and not again when a cell that had to wait in the offer backlog joins (R15; log entry 16). -/
def tryAccess (s : State) (id : Nat) : State :=
  match sessionAt s id with
  | none => s
  | some x =>
    if hookTest s x then placeOrder s (accessOperateOrder x.line (.session id))
    else dropReserved s id true .abandoned

/-- The RISER OPERATE is acknowledged: the engine requests ACCESS OPERATE (R93). -/
def requestAccess (s : State) (id : Nat) : State :=
  match sessionAt s id with
  | none => s
  | some x =>
    if orderEntryFree s then tryAccess s id
    else waitOrder s (accessOperateOrder x.line (.session id))

/-! ### Windows of a session (R95, R96, R119) -/

/-- The engine takes the bus's next step tag, has a window opened with it, and requests HEAD START. -/
def runWindow (s : State) (x : Session) (b : Nat) (kind : WindowKind) (leg : Leg) (stimulus : Int) (count : Nat) :
    State :=
  let tag := (busAt s b).nextTag
  let interval := (headAt s b).interval
  let w := newWindow s tag kind leg x.line count interval
  let s := modBus s b (fun y => { y with nextTag := (tag + 1) % 256 })
  let s := putWindow s b (some w)
  offerSouth s (headStartCell (own s) b tag leg stimulus w.sized interval)

/-- The settling window of the session's present leg is run (R95). -/
def runSettling (s : State) (id : Nat) : State :=
  match sessionAt s id with
  | some x =>
    match x.bus with
    | some b => runWindow s x b .settling (if x.ringGround then .ringGround else .tipGround) 0 16
    | none => s
  | none => s

/-- The program step a session is at. -/
def presentStep (s : State) (x : Session) : Option ProgramStep := (programAt s x.program).steps[x.step]?

/-- The session's program step is run (R96). -/
def runStep (s : State) (id : Nat) : State :=
  match sessionAt s id with
  | some x =>
    match x.bus, presentStep s x with
    | some b, some (.fv leg w) => runWindow s x b .fv leg 0 w
    | some b, some (.res leg v w) => runWindow s x b .res leg v w
    | some b, some (.cap leg v w) => runWindow s x b .cap leg v w
    | _, _ => s
  | none => s

/-- The steps are done: the outcome is COMPLETE and the release begins (R97). -/
def completeSession (s : State) (id : Nat) : State :=
  match sessionAt s id with
  | some x => requestRelease (modSession s id (fun x => { x with outcome := some .complete })) id x
  | none => s

/-- The kind and leg of a program step, for its result. -/
def stepShape : ProgramStep → StepKind × Option Leg
  | .fv leg _ => (.fv, some leg)
  | .res leg _ _ => (.res, some leg)
  | .cap leg _ _ => (.cap, some leg)
  | .dial _ => (.dial, none)

/-- Every step result NOT_RUN (R92). -/
def notRunResults (p : Program) : List StepResult :=
  p.steps.map (fun st => blankResult .notRun (stepShape st).1 (stepShape st).2 false)

/-- A step result is recorded at the present step, with the step's retry mark (R97). -/
def recordResult (s : State) (id : Nat) (r : StepResult) : State :=
  modSession s id (fun x => { x with results := x.results.set x.step { r with retried := x.repeated } })

/-- A step result is recorded and counted: a NO_DATA result adds to the count of consecutive ones, and any other
sets it to 0 (R97). -/
def recordStep (s : State) (id : Nat) (r : StepResult) : State :=
  modSession (recordResult s id r) id
    (fun x => { x with noData := if r.status = .noData then x.noData + 1 else 0 })

/-- After a recorded result: HEAD_SILENT on the second NO_DATA in a row, else the next step, else COMPLETE
(R97). -/
def afterStep (s : State) (id : Nat) : State :=
  match sessionAt s id with
  | none => s
  | some x =>
    if 2 ≤ x.noData then endSession s id .headSilent
    else if x.step + 1 < (programAt s x.program).steps.length then
      runStep (modSession s id (fun x => { x with step := x.step + 1, repeated := false })) id
    else completeSession s id

/-- The NO_DATA result of the present step (R97). -/
def noDataResult (s : State) (x : Session) : StepResult :=
  match presentStep s x with
  | some st => blankResult .noData (stepShape st).1 (stepShape st).2 x.repeated
  | none => blankResult .noData .fv none x.repeated

/-- A hazard: the outcome and the verdict are HAZARD, the session is released and its bus enters QUARANTINE
(R105). -/
def hazardRelease (s : State) (id b : Nat) : State :=
  let s := modSession s id (fun x => { x with verdict := .hazard })
  let s := endSession s id .hazard
  let s := modBus s b (fun y => { y with quarantine := some Config.quarantineMs })
  setBusState s b .quarantine

/-- The engine acts on a settling window's report (R95). -/
def settlingReport (s : State) (id b : Nat) (x : Session) : WindowEnd → State
  | .settled below =>
    if x.ringGround then
      runStep (modSession s id (fun x => { x with
        state := .measuring, repeated := false, step := 0
        verdict := if x.belowSoFar && below then .clear else .unqualified })) id
    else runSettling (modSession s id (fun x => { x with
        ringGround := true, belowSoFar := below, repeated := false })) id
  | .repeated =>
    if x.repeated then endSession s id .headSilent
    else runSettling (modSession s id (fun x => { x with repeated := true })) id
  | .noData => endSession s id .headSilent
  | .hazard => hazardRelease s id b
  | .done _ => s

/-- The engine acts on a step window's report. A HAZARD records the step as NO_DATA and leaves the NO_DATA count as it
is (R97). -/
def stepReport (s : State) (id b : Nat) (x : Session) : WindowEnd → State
  | .done r => afterStep (recordStep s id r) id
  | .repeated =>
    if x.repeated then afterStep (recordStep s id (noDataResult s x)) id
    else runStep (modSession s id (fun x => { x with repeated := true })) id
  | .noData => afterStep (recordStep s id (noDataResult s x)) id
  | .hazard => hazardRelease (recordResult s id (noDataResult s x)) id b
  | .settled _ => s

/-- A window on a bus has ended: the report goes to the session that holds the bus. -/
def windowEnded (s : State) (b : Nat) (e : WindowEnd) : State :=
  match (busAt s b).holder with
  | .session id =>
    match sessionAt s id with
    | some x =>
      match x.state with
      | .settling => settlingReport s id b x e
      | .measuring => stepReport s id b x e
      | _ => s
    | none => s
  | _ => s

/-! ### Acknowledgements (R38, R91, R93, R94, R98, R103, R114) -/

/-- The ACCESS RELEASE of a line is acknowledged: the cut-off is cleared and the hook state written; a held ring
order is released and the line is RINGING (R38). -/
def accessReleased (s : State) (len : Nat) (h : Hook) (held : Option Cell) : State :=
  let s := modLine s len (fun l => { l with cutOff := false })
  let s := writeHook s len h
  match held with
  | some c => writeHook (offerSouth s c) len .ringing
  | none => s

/-- A shelf's start-up release is done; with the last, STARTING ends (R63, R114). -/
def startUpDone (s : State) (n : Nat) : State :=
  if n ∈ s.engine.startUp then
    let s := onEngine s (fun e => { e with startUp := e.startUp.filter (· ≠ n) })
    if s.engine.startUp = [] ∧ s.arbiter.service = .starting then
      let s := onArbiter s (fun a => { a with service := a.returnTo })
      if s.arbiter.service = .inService then examineLater s else s
    else s
  else s

/-- An order of a session is acknowledged (R93, R94, R98, R100), whether its cell has left the South backlog or not
(R91). With the acknowledgement of its ACCESS OPERATE the line is cut off and IN_SESSION, as it already is where the
order has joined the South queue; where its cell still waits in the backlog the line is cut off here, and the session,
still RESERVED, is SETTLING all the same (DESIGN CHOICE, log entry 47). -/
def sessionAcked (s : State) (id : Nat) (x : Session) (o : Order) (h : Option Hook) : State :=
  match o.kind with
  | .riserOperate => requestAccess s id
  | .accessOperate =>
    let s := modSession (cutLine s x.line) id (fun x => { x with
      state := .settling, ringGround := false, belowSoFar := true, repeated := false })
    runSettling (equipmentPass s (.shelf o.shelf) .accessFail) id
  | .accessRelease =>
    let s := modSession s id (fun x => { x with accessReleased := true, held := none })
    let s := accessReleased s o.line (h.getD .unknown) x.held
    requestOrder s (riserReleaseOrder (lineShelf x.line) (x.bus.getD 0) (.session id))
  | .riserRelease =>
    let s := freeRiser s o.shelf
    let s := busReleased s o.bus
    finishSession s id .free true .failed
  | .releaseAll => s

/-- An order of a release retry is acknowledged (R103). -/
def retryAcked (s : State) (b : Nat) (o : Order) (h : Option Hook) : State :=
  match o.kind with
  | .accessRelease =>
    let s := accessReleased s o.line (h.getD .unknown) none
    let s := if markOf s o.line = .lockedOut then setMark s o.line .free true else s
    let s := modBus s b (fun x => { x with
      retry := some { order := .riser o.shelf, resends := 0, timer := none } })
    requestOrder s (riserReleaseOrder o.shelf b (.retry b))
  | .riserRelease =>
    let s := modBus s b (fun x => { x with retry := none })
    busToFree (freeRiser s o.shelf) b
  | _ => s

/-- An order of a riser clean-up is acknowledged: after an ACCESS RELEASE, which clears the line's cut-off (R38), the
RISER RELEASE is requested; that one frees riser and bus (R99). -/
def cleanUpAcked (s : State) (b : Nat) (o : Order) (h : Option Hook) : State :=
  if o.kind = .accessRelease then
    requestOrder (accessReleased s o.line (h.getD .unknown) none) (riserReleaseOrder o.shelf b (.cleanUp b))
  else busReleased (freeRiser s o.shelf) b

/-- A taken acknowledgement is handed to the entry's owner (R91). -/
def orderAcked (s : State) (o : Order) (h : Option Hook) : State :=
  match o.owner with
  | .session id =>
    match sessionAt s id with
    | some x => sessionAcked s id x o h
    | none => s
  | .cleanUp b => cleanUpAcked s b o h
  | .retry b => retryAcked s b o h
  | .startUp n => startUpDone (setReleased s n true) n
  | .freshRelease n => setReleased s n true

/-! ### Timeouts (R100 to R103, R114, R115) -/

/-- A connect failure: the third sets ACCESS_FAIL and reports it (R100). -/
def connectFailed (s : State) (id : Nat) (x : Session) : State :=
  if x.retries < 2 then s
  else equipmentFail (modSession s id (fun x => { x with outcome := some .accessFail }))
    (.shelf (lineShelf x.line)) .accessFail none

/-- The line of an ACCESS RELEASE that has run out is LOCKED_OUT, and BLOCKED is offered (R38, R101). -/
def lockLine (s : State) (len : Nat) : State := offerTestBlock (setMark s len .lockedOut false) len true

/-- The bus of a release order that has run out is STUCK, the failure is reported, and the release retry starts with
the order pending (R101, R102). -/
def releaseFailed (s : State) (b shelf : Nat) (p : PendingRelease) : State :=
  startRetry (equipmentFail (stickBus s b shelf) (.shelf shelf) .accessFail none) b p

/-- A session's ACCESS RELEASE runs out: lock-out (R101). -/
def lockOut (s : State) (id : Nat) (x : Session) : State :=
  let s := lockLine s x.line
  let s := modSession s id (fun x => { x with outcome := some (x.outcome.getD .accessFail), held := none })
  let s := finishSession s id .lockedOut false .failed
  match x.bus with
  | none => s
  | some b => releaseFailed s b (lineShelf x.line) (.access x.line)

/-- A RISER RELEASE runs out: the bus is STUCK and its release retry starts (R102). -/
def riserReleaseFailed (s : State) (b shelf : Nat) : State := releaseFailed s b shelf (.riser shelf)

/-- An order of a riser clean-up runs out: the bus is STUCK with that order pending (R102). An ACCESS RELEASE leaves its
line cut off and the line's mark as it is, for the table of R66 takes no FREE line to LOCKED_OUT and a DIAL session
admitted meanwhile is never locked out (R110; DESIGN CHOICE, log entry 16). -/
def cleanUpTimedOut (s : State) (b : Nat) (o : Order) : State :=
  releaseFailed s b o.shelf (if o.kind = .accessRelease then .access o.line else .riser o.shelf)

/-- An order of a session runs out. -/
def sessionTimedOut (s : State) (id : Nat) (x : Session) (o : Order) : State :=
  match o.kind with
  | .riserOperate => dropReserved (connectFailed s id x) id true .failed
  | .accessOperate => requestRelease (connectFailed s id x) id x
  | .accessRelease => lockOut s id x
  | .riserRelease => riserReleaseFailed (finishSession s id .free true .failed) o.bus o.shelf
  | .releaseAll => s

/-- A re-sent order runs out: the retry timer restarts while the count is below 10 (R103). -/
def retryTimedOut (s : State) (b : Nat) : State :=
  modBus s b (fun x => { x with retry := x.retry.map (fun r => { r with
    timer := if r.resends < 10 then some Config.retryMs else none }) })

/-- The owner's timeout rule of an order whose timer has run out (R91). -/
def orderTimedOut (s : State) (o : Order) : State :=
  match o.owner with
  | .session id =>
    match sessionAt s id with
    | some x => sessionTimedOut s id x o
    | none => s
  | .cleanUp b => cleanUpTimedOut s b o
  | .retry b => retryTimedOut s b
  | .startUp n => startUpDone (setReleased s n false) n
  | .freshRelease n => setReleased s n false

/-- The retry timer of a STUCK bus runs out: the pending order is requested again (R103). -/
def retryExpired (s : State) (b : Nat) (r : ReleaseRetry) : State :=
  let s := modBus s b (fun x => { x with retry := some { r with timer := none, resends := r.resends + 1 } })
  requestOrder s (retryOrder b r.order)

/-- A quarantine timer runs out: without a holder the bus leaves QUARANTINE (R106). -/
def quarantineExpired (s : State) (b : Nat) : State :=
  let s := modBus s b (fun x => { x with quarantine := none })
  if (busAt s b).state = .quarantine ∧ (busAt s b).holder = .none then busToFree s b else s

/-! ### DIAL sessions (R109, R110) -/

/-- The digit limit of a session's DIAL step. -/
def dialLimit (s : State) (x : Session) : Nat :=
  match (programAt s x.program).steps with
  | [.dial n] => n
  | _ => 0

/-- The BLOCKED report of a line has left Port N: a DIAL session on it leaves RESERVED (R109). -/
def blockedReportLeft (s : State) (len : Nat) : State :=
  match sessionOnLine s len with
  | some (id, x) =>
    if x.bus.isNone ∧ x.state = .reserved then
      let waits : Bool := (lineOf s len).hook = .idle
      let s := setMark s len .inSession true
      let s := putCollector s id (openCollector (dialLimit s x) waits)
      modSession s id (fun x => { x with state := if waits then .awaitOffHook else .collecting })
    else s
  | none => s

/-- The collector has changed: at its digit limit the session ends (R110, R136). -/
def collectorChanged (s : State) (id : Nat) (x : Session) (c : Collector) : State :=
  let s := putCollector s id c
  if limitReached c then finishDial s id x dialOutcome else s

/-- A consumed report reaches a DIAL session (R35, R109, R110, R133). -/
def dialReport (s : State) (id : Nat) (x : Session) (r : Report) (t : Nat) : State :=
  let c := collectReport (collectorAt s id) r t
  match x.state, r with
  | .awaitOffHook, .offHook =>
    putCollector (modSession s id (fun x => { x with state := .collecting })) id c
  | .awaitOffHook, .ringTrip =>
    putCollector (modSession s id (fun x => { x with state := .collecting })) id c
  | .collecting, .onHook => finishDial s id x dialOutcome
  | _, _ => collectorChanged s id x c

end Sys2Proof.Machine
end

