-- ==== Sys2Proof/Machine/Admission.lean ====
section
/-! DEFINITION. The examination of the request queue (section 4.4), admission (R77, R92, R109) and preemption
(section 4.5). -/

namespace Sys2Proof.Machine

/-! ### Eligibility (R74) -/

/-- Another entry holds a reservation of the bus. -/
def busReservedToOther (s : State) (x : Entry) (b : Nat) : Bool :=
  s.arbiter.queue.any (fun y => ! sameRequest x y && y.reservation.map (·.bus) = some b)

/-- Another entry holds a reservation of the riser. -/
def riserReservedToOther (s : State) (x : Entry) (n : Nat) : Bool :=
  s.arbiter.queue.any (fun y => ! sameRequest x y && y.reservation.bind (·.riser) = some n)

/-- A bus is FREE and unreserved, or reserved to this entry. -/
def busOpen (s : State) (x : Entry) (b : Nat) : Bool :=
  (busAt s b).state = .free ∧ busReservedToOther s x b = false

/-- The riser of the line's shelf is FREE and unreserved, or reserved to this entry. -/
def riserOpen (s : State) (x : Entry) : Bool :=
  riserAt s (lineShelf x.line) = .free ∧ riserReservedToOther s x (lineShelf x.line) = false

/-- The DIAL sessions in the session table. -/
def dialSessions (s : State) : Nat := (liveSessions s).countP (fun x => x.2.bus.isNone)

/-- The free session id of lowest number (R80). -/
def freeSessionId (s : State) : Option Nat :=
  (List.range Config.sessionPlaces).find? (fun id => (sessionAt s id).isNone)

/-- The line and shelf conditions of R74. -/
def lineReady (s : State) (x : Entry) : Bool :=
  match directoryAt s x.line with
  | none => false
  | some d =>
    markOf s x.line = .free ∧ openForAccess s (lineShelf x.line) = true ∧
    (if isDemand x then (lineOf s x.line).hook = .idle ∨ (lineOf s x.line).hook = .parked
      else holdOf s x.line = false ∧ d.noRoutine = false ∧ (lineOf s x.line).hook = .idle) ∧
    (isDialProgram (programAt s x.program) = true → d.noDialTest = false ∧ dialSessions s < Config.dialPlaces)

/-- Every condition of R74 but those on bus and riser. -/
def readyButPlant (s : State) (x : Entry) : Bool :=
  s.arbiter.service = .inService && lineReady s x &&
    (! isDemand x || x.slot.isSome || (freeSlot s).isSome)

/-- Some bus is open to the entry. -/
def anyBusOpen (s : State) (x : Entry) : Bool := (List.range 4).any (busOpen s x)

/-- An entry is eligible (R74), and the session table has a place for it (R80). -/
def eligible (s : State) (x : Entry) : Bool :=
  readyButPlant s x && (freeSessionId s).isSome && (isDialProgram (programAt s x.program) || (riserOpen s x && anyBusOpen s x))

/-- The bus given to an eligible metallic entry (R76). -/
def chooseBus (s : State) (x : Entry) : Option Nat :=
  match x.reservation with
  | some r => if (busAt s r.bus).state = .free then some r.bus else free
  | none => free
where
  free : Option Nat :=
    ((List.range 4).find? (fun b => busOpen s x b && ! (checkerAt s b).degraded)).or
      ((List.range 4).find? (fun b => busOpen s x b))

/-! ### Admission (R77, R92, R109, R204) -/

/-- The session an entry becomes. -/
def newSession (s : State) (x : Entry) (bus slot : Option Nat) : Session :=
  { line := x.line, program := x.program, cls := x.cls, requesters := x.requesters, bus := bus
    admission := s.arbiter.admissions, retries := x.retries, waitMs := x.waitMs, slot := slot, held := none
    preempted := false, state := .reserved, started := stampNow s
    results := notRunResults (programAt s x.program), verdict := .notJudged, noData := 0
    supervisionLost := false, outcome := none, ringGround := false, belowSoFar := true, step := 0
    repeated := false, accessReleased := false
    dialTimer := if bus.isNone then some Config.dialSessionMs else none }

/-- The bus and riser of an admitted metallic entry are allocated, and RISER OPERATE is requested (R77, R89,
R92). -/
def allocatePlant (s : State) (id line b : Nat) : State :=
  let n := lineShelf line
  let s := setBusState s b .attached
  let s := modBus s b (fun y => { y with holder := .session id })
  let s := putRiser s n (.operated b)
  requestOrder s (riserOperateOrder n b (.session id))

/-- An eligible entry is admitted in one step (R77). -/
def admitEntry (s : State) (x : Entry) : State :=
  let bus := if isDialProgram (programAt s x.program) then none else chooseBus s x
  let slot := if isDemand x then x.slot.or (freeSlot s) else none
  let id := (freeSessionId s).getD 0
  let new := newSession s x bus slot
  let s := leaveQueue s x
  let s := onArbiter s (fun a => { a with admissions := a.admissions + 1 })
  let s := putSession s id (some new)
  let s := match slot with
    | some n => putSlot s n .reserved
    | none => s
  let s := setMark s x.line .reserved false
  match bus with
  | some b => allocatePlant s id x.line b
  | none => s

/-! ### Preemption (R78, R112) -/

/-- The routine sessions that may still be chosen. -/
def preemptible (x : Session) : Bool :=
  x.cls ≠ .demand ∧ x.bus.isSome = true ∧ x.state ≠ .releasing ∧ x.preempted = false

/-- The most recently admitted of some sessions. -/
def latestAdmitted (xs : List (Nat × Session)) : Option (Nat × Session) :=
  xs.foldl (fun best y => match best with
    | none => some y
    | some z => if z.2.admission < y.2.admission then some y else best) none

/-- The routine session a demand entry preempts (R78). -/
def sessionToPreempt (s : State) (x : Entry) : Option (Nat × Session) :=
  if isDemand x = false ∨ x.reservation.isSome ∨ isDialProgram (programAt s x.program) ∨
      readyButPlant s x = false then none
  else if riserOpen s x then
    if anyBusOpen s x then none
    else latestAdmitted ((liveSessions s).filter (fun y => preemptible y.2))
  else
    (liveSessions s).find? (fun y =>
      lineShelf y.2.line = lineShelf x.line ∧ preemptible y.2 = true ∧
      riserReservedToOther s x (lineShelf x.line) = false)

/-- A demand entry preempts a routine session: its resources are reserved, and it is ended PREEMPTED. -/
def preempt (s : State) (x : Entry) (id : Nat) (y : Session) : State :=
  let r : Reservation :=
    { bus := y.bus.getD 0
      riser := if lineShelf y.line = lineShelf x.line then some (lineShelf x.line) else none }
  let s := replaceEntry s { x with reservation := some r }
  let s := modSession s id (fun z => { z with preempted := true })
  endSession s id .preempted

/-! ### The walk (R75, R79) -/

/-- The resources of an entry's reservation are all FREE. -/
def reservedFree (s : State) (r : Reservation) : Bool :=
  (busAt s r.bus).state = .free && (match r.riser with | some n => riserAt s n = .free | none => true)

/-- What an entry's turn in the walk leaves. -/
inductive Turn where
  | stays
  | left
  | again
  deriving DecidableEq, Repr

/-- A routine entry's line bars it for good: unprovisioned, NO_ROUTINE or HAZARD_HOLD (R75). -/
def routineBarred (s : State) (x : Entry) : Bool :=
  match directoryAt s x.line with
  | none => true
  | some d => d.noRoutine || holdOf s x.line

/-- The line is busy for the entry's class (R75). -/
def lineBusy (s : State) (x : Entry) : Bool :=
  let h := (lineOf s x.line).hook
  markOf s x.line ≠ .free ∨ (if isDemand x then h ≠ .idle ∧ h ≠ .parked else h ≠ .idle)

/-- An eligible entry is admitted; where it held a reservation the walk begins again. -/
def admitTurn (s : State) (x : Entry) : State × Turn :=
  (admitEntry s x, if x.reservation.isSome then .again else .left)

/-- The entry's reservation has lapsed: it waits without one (R79). -/
def reservationLapsed (s : State) (x : Entry) : Bool :=
  s.arbiter.queue.any (fun y => sameRequest x y && y.reservation.isNone)

/-- A demand entry preempts; a reservation that lapses with the preempted session's end, its bus going
OUT_OF_SERVICE at once, begins the walk again (R75, R79). -/
def preemptTurn (s : State) (x : Entry) (id : Nat) (y : Session) : State × Turn :=
  let s := preempt s x id y
  (s, if reservationLapsed s x then .again else .stays)

/-- A demand entry's turn (R75, R78, R79). -/
def demandTurn (s : State) (x : Entry) : State × Turn :=
  let x := { x with seenBusy := lineBusy s x }
  let s := replaceEntry s x
  if eligible s x then admitTurn s x
  else match x.reservation with
    | some r =>
      if reservedFree s r then (examineLater (replaceEntry s { x with reservation := none }), .again)
      else (s, .stays)
    | none => match sessionToPreempt s x with
      | some (id, y) => preemptTurn s x id y
      | none => (s, .stays)

/-- A routine entry's turn (R75). -/
def routineTurn (s : State) (x : Entry) : State × Turn :=
  if routineBarred s x then (reportRoutine (leaveQueue s x) x.cls x.line .skipped, .left)
  else if lineBusy s x then (reportRoutine (leaveQueue s x) x.cls x.line .handedBack, .left)
  else if eligible s x then admitTurn s x
  else (s, .stays)

def entryTurn (s : State) (x : Entry) : State × Turn :=
  if isDemand x then demandTurn s x else routineTurn s x

/-- The walk of the queue from position `i`. A turn removes an entry, goes on, or begins again after a lapse.
A lapse uses up a reservation, and a new one is made only by ending a session, so `fuel` turns suffice. The walk
that begins again is the later examination of R79, in which an entry whose reservation lapsed may preempt (DESIGN
CHOICE, log entry 49). -/
def walkQueue (fuel i : Nat) (s : State) : State :=
  match fuel with
  | 0 => s
  | fuel + 1 =>
    match s.arbiter.queue[i]? with
    | none => s
    | some x =>
      match entryTurn s x with
      | (s, .stays) => walkQueue fuel (i + 1) s
      | (s, .left) => walkQueue fuel i s
      | (s, .again) => walkQueue fuel 0 s

/-- Turns enough for one examination of 64 entries. -/
def walkFuel : Nat := 8192

/-- An examination, made while the service state is IN_SERVICE (R65, R73). -/
def examineQueue (s : State) : State :=
  if s.arbiter.service = .inService then walkQueue walkFuel 0 s else s

end Sys2Proof.Machine
end

