-- ==== Sys2Proof/Machine/Sweeps.lean ====
section
/-! DEFINITION. The sweep scheduler (sections 9.2 to 9.6): filling a schedule's window, the reports back, deferral,
starting, completing and ending a sweep; and the settling of the work handed on inside a step. -/

namespace Sys2Proof.Machine

/-! ### Statistics and notices -/

/-- A 16-bit saturating count takes `k` more. -/
def add16 (n k : Nat) : Nat := min (n + k) Config.maxCount16

def countSkipped (s : State) (n : Nat) : State := modRun s n (fun r => { r with skipped := add16 r.skipped 1 })

/-- A SWEEP notice of a schedule as it stands (R194). -/
def sweepNotice (s : State) (n : Nat) (unfit : Bool) : State :=
  let r := (scheduleAt s n).run
  notify s (.sweep n r.state unfit r.cursor r.tested r.failed r.skipped r.stormSkipped r.deferred)

/-- A line is deferred, or counted skipped when the list is full (R190). -/
def deferLine (s : State) (n line : Nat) : State :=
  if (scheduleAt s n).run.deferredLines.length < Config.deferredCapacity then
    modRun s n (fun r => { r with deferredLines := r.deferredLines ++ [line], deferred := add16 r.deferred 1 })
  else countSkipped s n

/-- An ACTIVE schedule with nothing left to reach and nothing outstanding completes (R191). -/
def completeIfDone (s : State) (n : Nat) : State :=
  let x := scheduleAt s n
  if x.run.state = .active ∧ x.run.cursor = none ∧ x.run.deferredLines = [] ∧ x.run.outstanding = [] then
    let first := x.config.map (·.first)
    sweepNotice (modRun s n (fun r => { r with state := .complete, timer := none, cursor := first })) n false
  else s

/-! ### Reaching lines (R186, R187) -/

/-- The test of a reached line: what it comes to (R186). -/
inductive Reached where
  | skip
  | stormSkip
  | busy
  | submit
  deriving DecidableEq, Repr

def testReached (s : State) (line : Nat) : Reached :=
  match directoryAt s line with
  | none => .skip
  | some d =>
    if d.noRoutine then .skip
    else if holdOf s line then .skip
    else if (match d.group with | some g => (groupAt s g).storm | none => false) then .stormSkip
    else if (shelfAt s (lineShelf line)).freshness ≠ .fresh then .skip
    else if markOf s line ≠ .free ∨ (lineOf s line).hook ≠ .idle then .busy
    else .submit

/-- The next line of a run and whether it comes from the deferred list, with the run after it is reached. -/
def nextLine (cfg : ScheduleConfig) (r : SweepRun) : Option (Nat × Bool × SweepRun) :=
  match r.cursor with
  | some c => some (c, false, { r with cursor := if c < cfg.last then some (c + 1) else none })
  | none => match r.deferredLines with
    | line :: rest => some (line, true, { r with deferredLines := rest })
    | [] => none

/-- A busy line: deferred if reached from the range, skipped if reached from the list (R186). -/
def busyReached (s : State) (n line : Nat) (fromList : Bool) : State :=
  if fromList then countSkipped s n else deferLine s n line

/-- A reached line is tested and submitted; true when it joined the outstanding set (R186, R187). It joins behind the
lines already in the set; that the set has this order is the model's, and READ_SWEEP shows it (DESIGN CHOICE, log
entry 50). -/
def reachLine (s : State) (n line : Nat) (fromList : Bool) (program : Nat) : State × Bool :=
  match testReached s line with
  | .skip => (countSkipped s n, false)
  | .stormSkip => (modRun s n (fun r => { r with stormSkipped := add16 r.stormSkipped 1 }), false)
  | .busy => (busyReached s n line fromList, false)
  | .submit =>
    match submitRoutine s n line program with
    | (s, .accepted) => (modRun s n (fun r => { r with outstanding := r.outstanding ++ [(line, fromList)] }), true)
    | (s, .full) => (busyReached s n line fromList, false)
    | (s, _) => (countSkipped s n, false)

/-- The scheduler reaches lines while the outstanding set holds fewer than W: after a submission the rest of the
fill is handed on behind the examination the submission brings; with no line left the completion test is made
(R186, R191). Each turn reaches one line, and a run has at most 4,096 lines and as many deferrals. -/
def fillWindow (fuel : Nat) (s : State) (n : Nat) : State :=
  match fuel with
  | 0 => handOn s (.fill n)
  | fuel + 1 =>
    match (scheduleAt s n).config with
    | none => s
    | some cfg =>
      let r := (scheduleAt s n).run
      if r.state = .active ∧ r.outstanding.length < cfg.window then
        match nextLine cfg r with
        | none => completeIfDone s n
        | some (line, fromList, r') =>
          match reachLine (modRun s n (fun _ => r')) n line fromList cfg.program with
          | (s, true) => handOn s (.fill n)
          | (s, false) => fillWindow fuel s n
      else s

def fillFuel : Nat := 8300

/-! ### Reports back (R188, R189) -/

/-- A busy report: deferred while the schedule is ACTIVE and the attempt FIRST, and otherwise skipped (R189). -/
def busyReport (s : State) (n line : Nat) (retry : Bool) : State :=
  if (scheduleAt s n).run.state = .active ∧ retry = false then deferLine s n line else countSkipped s n

def countTested (s : State) (n : Nat) (failed : Bool) : State :=
  modRun s n (fun r => { r with
    tested := add16 r.tested 1
    failed := if failed then add16 r.failed 1 else r.failed })

/-- A report is counted (R189). -/
def countReport (s : State) (n line : Nat) (retry : Bool) : SweepReport → State
  | .satisfied failed => countTested s n failed
  | .handedBack => busyReport s n line retry
  | .skipped => countSkipped s n
  | .ended o failed =>
    match o with
    | .complete => countTested s n failed
    | .hazard => countTested s n failed
    | .abortedCall => busyReport s n line retry
    | .preempted => busyReport s n line retry
    | .accessFail => countSkipped s n
    | .headSilent => countSkipped s n
    | _ => s

/-- A report is taken: the line leaves the outstanding set, the report is counted, and the room is filled; a line
that is not outstanding is ignored (R188, R189, R191). -/
def takeReport (s : State) (n line : Nat) (what : SweepReport) : State :=
  match (scheduleAt s n).run.outstanding.find? (fun x => x.1 = line) with
  | none => s
  | some (_, retry) =>
    let s := modRun s n (fun r => { r with outstanding := r.outstanding.filter (fun x => x.1 ≠ line) })
    let s := countReport s n line retry what
    handOn (completeIfDone s n) (.fill n)

/-! ### Starting and ending (R185, R192, R193) -/

/-- The schedule's program still holds steps and carries ROUTINE_ALLOWED (R185). -/
def programFit (s : State) (cfg : ScheduleConfig) : Bool :=
  (programAt s cfg.program).steps ≠ [] ∧ (programAt s cfg.program).routineAllowed = true

/-- The run as a start sets it up. -/
def startedRun (cfg : ScheduleConfig) : SweepRun := { runZero with cursor := some cfg.first }

/-- A sweep is started or resumed, or refused PROGRAM_UNFIT (R185). -/
def beginSweep (s : State) (n : Nat) (cfg : ScheduleConfig) : State :=
  if programFit s cfg = false then sweepNotice s n true
  else
    let r := (scheduleAt s n).run
    if r.state = .active then s
    else
      let base := if r.state = .incomplete then { r with deferredLines := [] } else startedRun cfg
      let s := modRun s n (fun _ => { base with state := .active, timer := some (cfg.durationMinutes * 60000) })
      handOn (sweepNotice s n false) (.fill n)

/-- A schedule whose enable flag is set matches an entry into a minute (R184). -/
def scheduleMatches (cfg : ScheduleConfig) (c : Calendar) : Bool :=
  cfg.enable && (cfg.onMinute || cfg.onHour || cfg.onWeekday || cfg.onDay || cfg.onMonth) &&
  (! cfg.onMinute || cfg.minute = c.minute) && (! cfg.onHour || cfg.hour = c.hour) &&
  (! cfg.onWeekday || cfg.weekday = c.weekday) && (! cfg.onDay || cfg.day = c.day) &&
  (! cfg.onMonth || cfg.month = c.month)

/-- An entry into a minute is handed to the scheduler (R182, R184). Schedules that match the same minute are begun in
the order 0 to 7 (DESIGN CHOICE, log entry 46). -/
def enterMinute (s : State) : State :=
  (List.range 8).foldl (fun s n =>
    match (scheduleAt s n).config with
    | some cfg => if scheduleMatches cfg s.calendar then beginSweep s n cfg else s
    | none => s) s

/-- The entries of a schedule that wait in the request queue. -/
def sweepEntries (s : State) (n : Nat) : List Entry := s.arbiter.queue.filter (fun y => y.cls = .routine n)

/-- The waiting entries of a schedule are removed without hand-back, and their lines leave the outstanding set
(R82, R192). -/
def removeSweepEntries (s : State) (n : Nat) : State :=
  let mine := sweepEntries s n
  modRun (mine.foldl (fun s y => leaveQueue s y) s) n (fun r => { r with
    outstanding := r.outstanding.filter (fun x => mine.all (fun y => y.line ≠ x.1)) })

/-- The waiting entries of an ACTIVE schedule are removed and counted skipped, and the deferred lines are counted
skipped (R192). -/
def removeSweepWork (s : State) (n : Nat) : State :=
  modRun (removeSweepEntries s n) n (fun r => { r with
    skipped := add16 r.skipped (r.deferredLines.length + (sweepEntries s n).length), deferredLines := [] })

/-- The duration timer of an ACTIVE schedule runs out (R192). -/
def durationExpired (s : State) (n : Nat) : State :=
  let s := removeSweepWork s n
  let s := modRun s n (fun r => { r with state := .incomplete, timer := none })
  sweepNotice s n false

/-- An ACTIVE or INCOMPLETE schedule is stopped (R193), its waiting entries removed (R82). Those of an INCOMPLETE
schedule, which have rejoined the queue after a connect failure, are not counted: it keeps its statistics (R193). -/
def stopSweep (s : State) (n : Nat) (cfg : ScheduleConfig) : State :=
  let s := if (scheduleAt s n).run.state = .active then removeSweepWork s n else removeSweepEntries s n
  let s := modRun s n (fun r => { r with state := .stopped, timer := none, cursor := some cfg.first })
  sweepNotice s n false

/-! ### Settling the work of a step -/

/-- One piece of work handed on. -/
def takeTodo (s : State) : Todo → State
  | .examine => examineQueue s
  | .report n line what => takeReport s n line what
  | .fill n => fillWindow fillFuel s n

/-- The work handed on is taken, oldest first, until none is left. -/
def settle (fuel : Nat) (s : State) : State :=
  match fuel with
  | 0 => s
  | fuel + 1 =>
    match s.agenda with
    | [] => s
    | t :: rest => settle fuel (takeTodo { s with agenda := rest } t)

/-- More pieces of work than one step can hand on. -/
def settleFuel : Nat := 100000

/-- A step of the part: nothing while RESET is asserted (R20); otherwise `f`, and then the work it handed on. -/
def live (f : State → State) (s : State) : Host.Outcome State Fault Refusal :=
  if s.ports.resetAsserted then .next s else .next (settle settleFuel (f s))

end Sys2Proof.Machine
end

