-- ==== Sys2Proof/Machine/Calendar.lean ====
section
/-! DEFINITION. The calendar (section 9.1) and the schedule commands (R183, R193). -/

namespace Sys2Proof.Machine

/-! ### The calendar's advance (R178, R179) -/

/-- The date advances by one day (R179). -/
def nextDate (c : Calendar) : Calendar :=
  if c.day < monthLength c.month c.year then { c with day := c.day + 1 }
  else if c.month < 12 then { c with day := 1, month := c.month + 1 }
  else { c with day := 1, month := 1, year := if c.year = 2099 then 2000 else c.year + 1 }

/-- A day carry: the weekday counts on modulo 7, and the date advances. -/
def carryDay (c : Calendar) : Calendar :=
  let c := { c with weekday := if c.weekday = 6 then 0 else c.weekday + 1 }
  nextDate c

def carryHour (c : Calendar) : Calendar :=
  if c.hour = 23 then carryDay { c with hour := 0 } else { c with hour := c.hour + 1 }

def carryMinute (c : Calendar) : Calendar :=
  if c.minute = 59 then carryHour { c with minute := 0 } else { c with minute := c.minute + 1 }

/-- The calendar advances by one second, the prescaler wrapping to 0; a minute carry is an entry into a minute
(R178, R182). -/
def calendarSecond (s : State) : State :=
  let c := { s.calendar with prescaler := 0 }
  if c.running = false then s
  else if c.second = 59 then enterMinute { s with calendar := carryMinute { c with second := 0 } }
  else { s with calendar := { c with second := c.second + 1 } }

/-! ### SET_TIME and ADJUST_TIME (R180, R181) -/

/-- Every field in its range, the day within its month (R179, R180). -/
def validTime (second minute hour weekday day month year : Nat) : Bool :=
  second ≤ 59 ∧ minute ≤ 59 ∧ hour ≤ 23 ∧ weekday ≤ 6 ∧ 1 ≤ month ∧ month ≤ 12 ∧ 2000 ≤ year ∧ year ≤ 2099 ∧
    1 ≤ day ∧ day ≤ monthLength month year

def setTime (s : State) (second minute hour weekday day month year : Nat) : State × ResponseCode :=
  if validTime second minute hour weekday day month year then
    (enterMinute { s with calendar :=
      { running := true, prescaler := 0, second := second, minute := minute, hour := hour, weekday := weekday
        day := day, month := month, year := year } }, .done)
  else (s, .range)

def adjustTime (s : State) : State × ResponseCode :=
  if s.calendar.running = false then (s, .state)
  else
    let c := { s.calendar with prescaler := 0, second := 0 }
    if s.calendar.second < 30 then ({ s with calendar := c }, .done)
    else (enterMinute { s with calendar := carryMinute c }, .done)

/-! ### WRITE_SCHEDULE, SWEEP_START, SWEEP_STOP (R183, R193) -/

/-- The configuration a WRITE_SCHEDULE carries (R183). Its match enables are bits 0 to 4 of one octet, whose bits 5 to
7 are neither read nor refused (DESIGN CHOICE, log entry 5). -/
def scheduleConfig (a : ScheduleArgs) : ScheduleConfig :=
  { enable := a.enable.getLsbD 0
    minute := a.minute.toNat, hour := a.hour.toNat, weekday := a.weekday.toNat, day := a.day.toNat
    month := a.month.toNat
    onMinute := a.enables.getLsbD 0, onHour := a.enables.getLsbD 1, onWeekday := a.enables.getLsbD 2
    onDay := a.enables.getLsbD 3, onMonth := a.enables.getLsbD 4
    first := a.first.toNat, last := a.last.toNat, program := a.program.toNat, window := a.window.toNat
    durationMinutes := a.duration.toNat, report := a.report.getLsbD 0 }

/-- The ranges of R183, test 1. -/
def scheduleInRange (n : Nat) (c : ScheduleConfig) : Bool :=
  n ≤ 7 ∧ c.minute ≤ 59 ∧ c.hour ≤ 23 ∧ c.weekday ≤ 6 ∧ 1 ≤ c.day ∧ c.day ≤ 31 ∧ 1 ≤ c.month ∧ c.month ≤ 12 ∧
    c.first ≤ 4095 ∧ c.last ≤ 4095 ∧ c.first ≤ c.last ∧ 1 ≤ c.window ∧ c.window ≤ 4 ∧
    1 ≤ c.durationMinutes ∧ c.durationMinutes ≤ 600

def writeSchedule (s : State) (a : ScheduleArgs) : State × ResponseCode :=
  let n := a.number.toNat
  let c := scheduleConfig a
  if scheduleInRange n c = false then (s, .range)
  else if (programAt s c.program).steps = [] then (s, .notFound)
  else if (programAt s c.program).routineAllowed = false then (s, .range)
  else if (scheduleAt s n).run.state = .active then (s, .inUse)
  else (putSchedule s n { config := some c, run := startedRun c }, .done)

def sweepStart (s : State) (n : Nat) : State × ResponseCode :=
  if 7 < n then (s, .range)
  else match (scheduleAt s n).config with
    | none => (s, .notFound)
    | some cfg =>
      if (scheduleAt s n).run.state = .active then (s, .state)
      else if (programAt s cfg.program).steps = [] then (beginSweep s n cfg, .notFound)
      else if (programAt s cfg.program).routineAllowed = false then (beginSweep s n cfg, .state)
      else (beginSweep s n cfg, .done)

def sweepStop (s : State) (n : Nat) : State × ResponseCode :=
  if 7 < n then (s, .range)
  else match (scheduleAt s n).config with
    | none => (s, .notFound)
    | some cfg =>
      if (scheduleAt s n).run.state = .active ∨ (scheduleAt s n).run.state = .incomplete then
        (stopSweep s n cfg, .done)
      else (s, .state)

end Sys2Proof.Machine
end

