-- ==== Sys2Proof/Machine/Queries.lean ====
section
/-! DEFINITION. The commands that answer with data (section 10.3, R160, R161, R214): the response code, the data
octets 8 to 14 of the RESPONSE and the data octets 6 to 14 of each REPLY. -/

namespace Sys2Proof.Machine

/-- An answer: the response code, the RESPONSE's data, and the data of each REPLY (R198). -/
structure Answer where
  code : ResponseCode
  data : List Octet
  replies : List (List Octet)
  deriving DecidableEq, Repr

/-- An answer without data. -/
def plainAnswer (c : ResponseCode) : Answer := { code := c, data := [], replies := [] }

/-! ### READ_LINE, READ_TIME, READ_STATUS (R199, R200) -/

def directoryData : Option DirectoryEntry → List Octet
  | none => [0#8, 0#8, 0xFF#8, 0#8]
  | some d =>
    [octet (lineTypeCode (some d.lineType)), octet d.profile, octet (d.group.getD 0xFF),
      flagOctet [d.noRoutine, d.emergency, d.noDialTest]]

def readLine (s : State) (len : Half) : Answer :=
  let n := len.toNat
  let l := lineOf s n
  if 4095 < n then plainAnswer .range
  else
    { code := .done, data := directoryData (directoryAt s n)
      replies := [[hookCode l.hook, hookCode l.lastForwarded] ++ octets2 (lineAge s n) ++
        [boolOctet l.cutOff, if l.blocked then 1#8 else 2#8, Config.markCode (markOf s n),
          boolOctet (holdOf s n)]] }

def readTime (s : State) : Answer :=
  let c := s.calendar
  { code := .done, data := [Config.calendarStateCode c.running]
    replies :=
      if c.running then
        [[octet c.second, octet c.minute, octet c.hour, octet c.weekday, octet c.day, octet c.month]
          ++ octets2 c.year]
      else [] }

def portFlags (p : Port) : Octet := flagOctet [p.checkError, p.delineationLost, p.intakeOverrun]

def portReply (p : Port) : List Octet :=
  [Config.delineationCode p.delineation] ++ octets4 p.badChecks ++ octets4 p.dropped

def readStatusAnswer (s : State) : Answer :=
  { code := .done
    data := [portFlags s.ports.north, portFlags s.ports.south, serviceCode s.arbiter.service,
      if s.arbiter.service = .starting then serviceCode s.arbiter.returnTo else 0#8,
      octet (freeSlotCount s), octet s.arbiter.queue.length, octet (routineCount s.arbiter.queue)]
    replies := [portReply s.ports.north, portReply s.ports.south] }

/-- The flags of a port are cleared (R18). -/
def clearFlags (p : Port) : Port :=
  { p with checkError := false, delineationLost := false, intakeOverrun := false }

def readStatus (s : State) (src : Octet) : State × Answer :=
  (if src = maintenance then
      onPorts s (fun p => { p with north := clearFlags p.north, south := clearFlags p.south })
    else s,
   readStatusAnswer s)

/-! ### READ_BUS, READ_HEAD_COUNTS (R142, R201) -/

def holderNibble : Holder → Nat
  | .none => 15
  | .session id => id
  | .cleanUp => 8

/-- The REPLY of a bus (R201, R214). Where no riser is toward it the low half of the holder's octet is 15, the half of
the rule's 0xFF; shelf 15 reads the same there, and the riser state, 0 for none, tells them apart (DESIGN CHOICE, log
entry 52). -/
def busReply (s : State) (b : Nat) : List Octet :=
  let x := busAt s b
  let riser := riserToward s b
  let riserState := match riser.map (riserAt s) with
    | some (.operated _) => (Config.riserStateCode false).toNat
    | some (.unknown _) => (Config.riserStateCode true).toNat
    | _ => 0
  let order := match x.retry.map (·.order) with
    | some (.access _) => (orderCode .accessRelease).toNat
    | some (.riser _) => (orderCode .riserRelease).toNat
    | none => 0
  let len := match x.retry.map (·.order) with
    | some (.access n) => n
    | _ => 0xFFFF
  [busStateCode x.state, flagOctet [x.removePending, (checkerAt s b).degraded],
    halves (holderNibble x.holder) (riser.getD 15), halves riserState order]
    ++ octets2 len ++ [octet ((x.retry.map (·.resends)).getD 0)] ++ octets2 (x.quarantine.getD 0)

def readBus (s : State) : Answer :=
  { code := .done, data := [], replies := (List.range 4).map (busReply s) }

def headReply (s : State) (h : Nat) : List Octet :=
  let c := checkerAt s h
  let count := match (headAt s h).mode with
    | .hourly => c.latched
    | .continuous => c.running
  [Config.timebaseModeCode (headAt s h).mode, (headAt s h).target, boolOctet c.degraded] ++ octets4 count

def readHeadCounts (s : State) : Answer :=
  { code := .done, data := [], replies := (List.range 4).map (headReply s) }

/-! ### READ_QUEUE (R202) -/

/-- A wait time in whole seconds; how the rest is rounded is not stated. -/
def waitSeconds (ms : Nat) : Nat :=
  if ms % 1000 = 0 then ms / 1000 else if Config.waitRoundsUp ms then ms / 1000 + 1 else ms / 1000

def entryReplies (x : Entry) : List (List Octet) :=
  let first : Octet × Half := match x.cls with
    | .routine n => (octet n, 0#16)
    | .demand => match x.requesters with
      | r :: _ => (r.unit, r.tag)
      | [] => (0#8, 0#16)
  [octets2 x.line ++ [octet x.program, Config.classCode (isRoutine x), octet x.requesters.length, first.1]
      ++ octets2 first.2.toNat,
   octets2 (waitSeconds x.waitMs) ++
    [boolOctet x.seenBusy, octet x.retries, octet ((x.reservation.map (·.bus)).getD 0xFF),
      octet ((x.reservation.bind (·.riser)).getD 0xFF), boolOctet x.slot.isSome]]

def readQueue (s : State) (position : Octet) : Answer :=
  let p := position.toNat
  if 63 < p then plainAnswer .range
  else
    { code := .done, data := [octet s.arbiter.queue.length, octet (routineCount s.arbiter.queue)]
      replies := ((s.arbiter.queue.drop p).take 4).flatMap entryReplies }

/-! ### READ_SWEEP (R203) -/

/-- The configuration in the argument order of WRITE_SCHEDULE, without the schedule number. -/
def configOctets (c : ScheduleConfig) : List Octet :=
  [boolOctet c.enable, octet c.minute, octet c.hour, octet c.weekday, octet c.day, octet c.month,
    flagOctet [c.onMinute, c.onHour, c.onWeekday, c.onDay, c.onMonth]]
    ++ octets2 c.first ++ octets2 c.last ++ [octet c.program, octet c.window]
    ++ octets2 c.durationMinutes ++ [boolOctet c.report]

/-- The LENs of up to four lines; an absent LEN is 0xFFFF (R214). -/
def fourLens (ls : List Nat) : List Octet := (List.range 4).flatMap (fun i => octets2 (ls.getD i 0xFFFF))

/-- Lines four to a cell. -/
def byFours (ls : List Nat) : List (List Octet) :=
  (List.range ((ls.length + 3) / 4)).map (fun i => fourLens (ls.drop (4 * i)))

/-- READ_SWEEP (R194, R203, R214). The outstanding lines stand in the order in which they joined the set, and the
attempt marks with them (DESIGN CHOICE, log entry 50). -/
def readSweep (s : State) (n : Nat) : Answer :=
  if 7 < n then plainAnswer .range
  else match (scheduleAt s n).config with
    | none => plainAnswer .notFound
    | some c =>
      let r := (scheduleAt s n).run
      { code := .done, data := [octet (runStateCode r.state)] ++ octets2 (r.cursor.getD 0xFFFF)
        replies :=
          [(configOctets c).take 9, (configOctets c).drop 9,
            pack13 [r.tested, r.failed, r.skipped, r.stormSkipped, r.deferred] 9,
            fourLens (r.outstanding.map (·.1)) ++ [flagOctet (r.outstanding.map (·.2))]]
          ++ byFours r.deferredLines }

/-! ### TICKET_READ, TICKET_LIST (R160, R161, R177) -/

/-- The last measured value in four octets, in two's complement where it is negative. -/
def valueField (v : Option Int) : List Octet := octets4 (BitVec.ofInt 32 (v.getD 0)).toNat

def ticketReadAnswer (s : State) (t : Ticket) : Answer :=
  let extra := match t.subject with
    | .line len => (directoryData (directoryAt s len)).take 1 ++ ((directoryData (directoryAt s len)).drop 2).take 1
    | .cableGroup g =>
      [groupStateCode (groupAt s g).storm, octet (groupAt s g).count, octet (thresholdAt s g)]
    | _ => []
  { code := .done
    data := [subjectKindCode t.subject] ++ octets2 (subjectNumber t.subject) ++
      [octet (classOrder t.cls), ticketStateCode t.state, Config.originCode t.origin,
        flagOctet [t.value.isSome, t.dispatch.isSome, t.attached.isSome, t.acknowledged]]
    replies :=
      [stampOctets t.opened ++ stampOctets t.lastSeen,
        octets2 t.occurrences ++ octets2 t.recurrences ++ valueField t.value,
        octets2 (t.dispatch.getD 0#16).toNat ++ [octet (t.attached.getD 0xFF)] ++ extra] }

def ticketRead (s : State) (id : Octet) : Answer :=
  match ticketAt s id.toNat with
  | none => plainAnswer .notFound
  | some t => ticketReadAnswer s t

def ticketItem (t : Ticket) : List Octet :=
  [octet t.id, subjectKindCode t.subject] ++ octets2 (subjectNumber t.subject) ++
    [octet (classOrder t.cls), ticketStateCode t.state]

/-- Up to ten tickets of those that follow. -/
def ticketPage (ts : List Ticket) : Answer :=
  { code := .done, data := [octet (ts.take 10).length, boolOctet (10 < ts.length)]
    replies := (ts.take 10).map ticketItem }

def ticketList (s : State) : ListFrom → Answer
  | .start => ticketPage s.tickets.tickets
  | .after id =>
    if (ticketAt s id.toNat).isNone then plainAnswer .notFound
    else ticketPage ((s.tickets.tickets.dropWhile (fun t => t.id ≠ id.toNat)).drop 1)
  | .other => plainAnswer .range

end Sys2Proof.Machine
end

