-- ==== Sys2Proof/Machine/ServiceCommands.lean ====
section
/-! DEFINITION. The commands of the SERVICE, TEST and TICKET groups that change state (R64, R69, R82, R104, R107,
R108, R162, R163, R175), and SET_NOTICES (R207): each gives the state after it and the response code. -/

namespace Sys2Proof.Machine

/-! ### Service state (R64) -/

def setService (s : State) (v : Service) : State := onArbiter s (fun a => { a with service := v })

def enableService (s : State) : State × ResponseCode :=
  match s.arbiter.service with
  | .starting => (s, .state)
  | .unconfigured => (examineLater (setService s .inService), .done)
  | .inService => (s, .done)
  | .suspended => (examineLater (setService s .inService), .done)

def suspendService (s : State) : State × ResponseCode :=
  match s.arbiter.service with
  | .starting => (s, .state)
  | .unconfigured => (s, .state)
  | .inService => (setService s .suspended, .done)
  | .suspended => (s, .done)

/-! ### Buses and locked-out lines (R104, R107, R108) -/

def busRemove (s : State) (bus : Octet) : State × ResponseCode :=
  let b := bus.toNat
  if 3 < b then (s, .range)
  else match (busAt s b).state with
    | .free => (setBusState s b .outOfService, .done)
    | .outOfService => (s, .done)
    | _ => (modBus s b (fun x => { x with removePending := true }), .done)

/-- A STUCK bus is restored: its release retry goes with its order, and its riser and the bus become FREE
(R108). -/
def restoreStuck (s : State) (b : Nat) : State :=
  let s := giveUpOrders s (.retry b)
  let s := match riserToward s b with
    | some n => freeRiser s n
    | none => s
  let s := modBus s b (fun x => { x with retry := none, removePending := false })
  setBusState s b .free

def busRestore (s : State) (bus : Octet) : State × ResponseCode :=
  let b := bus.toNat
  if 3 < b then (s, .range)
  else match (busAt s b).state with
    | .outOfService => (setBusState s b .free, .done)
    | .stuck => (restoreStuck s b, .done)
    | .free => (s, .state)
    | _ =>
      if (busAt s b).removePending then (modBus s b (fun x => { x with removePending := false }), .done)
      else (s, .state)

/-- The release retries that hold an ACCESS RELEASE of the line are removed (R104). -/
def dropAccessRetries (s : State) (len : Nat) : State :=
  (List.range 4).foldl (fun s b =>
    if (busAt s b).retry.map (·.order) = some (.access len) then
      modBus (giveUpOrders s (.retry b)) b (fun x => { x with retry := none })
    else s) s

def forceRelease (s : State) (len : Half) : State × ResponseCode :=
  let n := len.toNat
  if 4095 < n then (s, .range)
  else if markOf s n ≠ .lockedOut then (s, .state)
  else
    let s := modLine s n (fun l => { l with cutOff := false })
    let s := writeHook s n .unknown
    let s := setMark s n .free true
    (dropAccessRetries s n, .done)

/-! ### Test requests (R69, R82, R111) -/

def testRequest (s : State) (src : Octet) (len : Half) (program : Octet) (tag waitLimit : Half) :
    State × ResponseCode :=
  let n := len.toNat
  let p := program.toNat
  if 4095 < n ∨ 31 < p then (s, .range)
  else if (programAt s p).steps = [] then (s, .notFound)
  else if s.arbiter.service = .starting ∨ s.arbiter.service = .unconfigured then (s, .state)
  else match directoryAt s n with
    | none => (s, .notFound)
    | some d =>
      if isDialProgram (programAt s p) ∧ d.noDialTest then (s, .state)
      else submitDemand s n p { unit := src, tag := tag } (clampWait waitLimit)

/-- A requester leaves a waiting entry; an entry left with none leaves the queue, its slot freed (R82). -/
def cancelEntry (s : State) (r : Requester) (x : Entry) : State :=
  let left := x.requesters.filter (· ≠ r)
  if left = [] then
    let s := leaveQueue s x
    match x.slot with
    | some n => releaseSlot s n
    | none => s
  else replaceEntry s { x with requesters := left }

/-- A requester leaves a running demand session; a session left with none is ended CANCELLED (R111). -/
def cancelSession (s : State) (r : Requester) (id : Nat) (x : Session) : State :=
  let left := x.requesters.filter (· ≠ r)
  let s := modSession s id (fun x => { x with requesters := left })
  if left = [] then endSession s id .cancelled else s

/-- CANCEL (R82, R111): the waiting entries that hold the requester in the order of the queue, and then the running
demand sessions that do in the order of session id (DESIGN CHOICE, log entry 44). -/
def cancelRequest (s : State) (src : Octet) (tag : Half) : State × ResponseCode :=
  let r : Requester := { unit := src, tag := tag }
  let entries := s.arbiter.queue.filter (fun x => isDemand x ∧ r ∈ x.requesters)
  let sessions := (liveSessions s).filter (fun x => x.2.cls = .demand ∧ r ∈ x.2.requesters)
  let s := entries.foldl (fun s x => cancelEntry s r x) s
  let s := sessions.foldl (fun s x => cancelSession s r x.1 x.2) s
  (s, if entries = [] ∧ sessions = [] then .notFound else .done)

/-! ### Tickets (R162, R163, R175 to R177) -/

def ticketDispatch (s : State) (id : Octet) (tag : Half) : State × ResponseCode :=
  match ticketAt s id.toNat with
  | none => (s, .notFound)
  | some t =>
    let new := { t with state := .dispatched, dispatch := some tag }
    match t.state with
    | .opened => (handChange (modTicket s t.id (fun _ => new)) new .dispatched .stays none, .done)
    | .dispatched => (modTicket s t.id (fun _ => new), .done)
    | _ => (s, .state)

/-- The group in STORM whose cable ticket this is. -/
def stormOf (s : State) (t : Ticket) : Option Nat :=
  match t.subject with
  | .cableGroup g => if isStanding t ∧ (groupAt s g).storm = true then some g else none
  | _ => none

def ticketClose (s : State) (src id : Octet) (force : Bool) : State × ResponseCode :=
  match ticketAt s id.toNat with
  | none => (s, .notFound)
  | some t =>
    if force then
      if src ≠ maintenance then (s, .refusedPrivilege)
      else match stormOf s t with
        | some g => (replaceCableTicket s t g, .done)
        | none => (closeTicket s t, .done)
    else if t.state = .cleared then (closeTicket s t, .done)
    else (s, .state)

def cableAck (s : State) (group : Octet) : State × ResponseCode :=
  let g := group.toNat
  if 63 < g then (s, .range)
  else if (groupAt s g).storm = false then (s, .state)
  else match (groupAt s g).ticket with
    | some id => (modTicket s id (fun t => { t with acknowledged := true }), .done)
    | none => (s, .done)

/-! ### Notice masks (R207) -/

/-- The kinds in listed order. -/
def noticeKinds : List NoticeKind := [.ticket, .cable, .sweep, .bus, .restart]

/-- The kinds a set octet names. -/
def kindsOf (o : Octet) : List NoticeKind := (noticeKinds.zipIdx.filter (fun x => o.getLsbD x.2)).map (·.1)

def setNotices (s : State) (src kinds : Octet) : State × ResponseCode :=
  match unitOf src with
  | none => (s, .range)
  | some u =>
    let x := unitAt s u
    let mask := kindsOf kinds
    (putUnit s u
      { mask := mask
        pending := x.pending.filter (fun n => noticeKind n ∈ mask)
        resync := if mask = [] then false else x.resync }, .done)

end Sys2Proof.Machine
end

