-- ==== Sys2Proof/Machine/Restart.lean ====
section
/-! DEFINITION. Warm restart (R209): each block's part of it, in the order the chapters give. -/

namespace Sys2Proof.Machine

/-! ### The ports, interpreter and result store (R21, R209) -/

/-- The ports empty their queues, backlogs and intake FIFO and release every reservation (R21). -/
def portsRestart (p : Ports) : Ports :=
  { p with
    urgent := [], urgentBacklog := [], normal := [], reserved := 0, southQueue := [], southBacklog := []
    intake := [] }

/-- The result slots kept: those RESERVED to sessions in the session table (R209). -/
def slotKept (s : State) (n : Nat) : Bool := (liveSessions s).any (fun x => x.2.slot = some n)

/-- A slot after warm restart (R209). -/
def restartSlot (s : State) (n : Nat) : Slot :=
  if slotAt s n = .reserved ∧ slotKept s n = true then .reserved else .free

/-- The interpreter and result store make their warm restart (R209). -/
def interpRestart (s : State) : State :=
  onInterp s (fun i => { i with
    pace := .running 1
    assemblies := []
    slots := (List.range Config.resultSlots).foldl (fun t n => tabPut .free t n (restartSlot s n)) i.slots
    fillingOrder := []
    units := (List.range 9).foldl
      (fun t u => tabMod unitZero t u (fun x => { x with pending := [], resync := false })) i.units })

/-! ### The tracker, arbiter, tables, measurement unit and scheduler (R43, R62, R87, R143, R195) -/

/-- The lines whose TEST BLOCK reports waited, in order of LEN (R43). -/
def waitingTestBlocks (p : Ports) : List Nat :=
  let lens := ((p.urgent ++ p.urgentBacklog).filter (fun c => c.kind = kindTestBlock)).map
    (fun c => (field2 c 0).toNat)
  (List.range 4096).filter (fun n => n ∈ lens)

/-- The tracker offers again the TEST BLOCK reports removed unsent, with each line's block value (R43). -/
def reofferTestBlocks (s : State) (lens : List Nat) : State :=
  lens.foldl (fun s n => offerTestBlock s n (lineOf s n).blocked) s

/-- An audit attempt whose order was removed before it joined the South queue has its timer started, so that it
runs out and is retried (R43). -/
def startLostAudits (s : State) : State :=
  (List.range 16).foldl (fun s n => modShelf s n (fun x => { x with
    audit := x.audit.map (fun a => { a with timer := some (a.timer.getD Config.auditMs) }) })) s

/-- The arbiter's warm restart: the queue is emptied with every reservation (R87). -/
def arbiterRestart (s : State) : State :=
  onArbiter s (fun a => { a with queue := [] })

/-- Every load buffer is emptied (R62). -/
def tablesRestart (s : State) : State := onTables s (fun t => { t with buffers := [] })

/-- A CONTINUOUS checker is zeroed, and a DEGRADED one cleared with a pass; an HOURLY one is kept (R143). -/
def checkerRestart (s : State) (h : Nat) : State :=
  let c := checkerAt s h
  if (headAt s h).mode = .hourly then s
  else
    let s := putChecker s h { c with running := 0, latched := 0, degraded := false }
    if c.degraded then equipmentPass s (.head h) .headDegraded else s

/-- A schedule's run after warm restart (R195). -/
def runRestart (r : SweepRun) : SweepRun :=
  let r := { r with outstanding := [], deferredLines := [] }
  if r.state = .active then { r with state := .incomplete, timer := none } else r

def schedulesRestart (s : State) : State :=
  (List.range 8).foldl (fun s n => modRun s n runRestart) s

/-! ### The session engine (R114, R117, R118) -/

/-- How far a session's RISER OPERATE had come: it never joined the South queue while it waits in the order wait
list or its timer has not started. -/
def riserOperateUnsent (e : Engine) (id : Nat) : Bool :=
  e.waiting.any (fun o => o.owner = .session id ∧ o.kind = .riserOperate) ||
    e.orders.any (fun o => o.order.owner = .session id ∧ o.order.kind = .riserOperate ∧ o.timer.isNone)

/-- A session's outcome after warm restart: the one it has, or RESTARTED (R117). -/
def nameRestarted (s : State) (id : Nat) : State :=
  modSession s id (fun x => { x with outcome := some (x.outcome.getD .restarted) })

/-- Warm restart of a metallic session in RESERVED (R117). -/
def restartReserved (s : State) (id b line : Nat) (unsent : Bool) : State :=
  let s := finishSession (nameRestarted s id) id .free true .failed
  if unsent then busReleased (freeRiser s (lineShelf line)) b 
  else startCleanUp s b (riserReleaseOrder (lineShelf line) b (.cleanUp b))

/-- Warm restart of one session; `engine` and `meas` are as they stood before their tables were emptied
(R117). -/
def restartSession (engine : Engine) (meas : Measurement) (s : State) (id : Nat) : State :=
  match sessionAt s id with
  | none => s
  | some x =>
    match x.bus with
    | none => finishSession (nameRestarted s id) id .free true .failed
    | some b =>
      let stop := fun (s : State) => match tabGet none meas.windows b with
        | some w => offerSouth s (headStopCell (own s) b w.tag)
        | none => s
      match x.state with
      | .reserved => restartReserved s id b x.line (riserOperateUnsent engine id)
      | .releasing =>
        let s := nameRestarted s id
        if x.accessReleased then requestOrder s (riserReleaseOrder (lineShelf x.line) b (.session id))
        else requestOrder s (accessReleaseOrder x.line (.session id))
      | _ => requestRelease (stop (nameRestarted s id)) id x

/-- The release order a riser clean-up has pending: the ACCESS RELEASE it began with, or its RISER RELEASE. -/
def cleanUpOrder (e : Engine) (b shelf : Nat) : Order :=
  ((e.orders.map (·.order) ++ e.waiting).find? (fun o => o.owner = .cleanUp b ∧ o.kind = .accessRelease)).getD
    (riserReleaseOrder shelf b (.cleanUp b))

/-- The pending orders of the riser clean-ups in progress, in bus order, in which warm restart takes them (R117; DESIGN
CHOICE, log entry 45). -/
def cleanUpsInProgress (s : State) : List Order :=
  (List.range 4).filterMap (fun b =>
    if (busAt s b).holder = .cleanUp then (riserToward s b).map (cleanUpOrder s.engine b) else none)

/-- A STUCK bus keeps its release retry, its timer restarted; a retry already at its tenth re-send
stays without further sending (R118). -/
def restartRetry (r : ReleaseRetry) : ReleaseRetry :=
  { r with timer := if 10 ≤ r.resends then none else some Config.retryMs }

/-- Warm restart of a bus: a STUCK one restarts its retry timer; quarantine ends (R118), with the BUS notice of the
bus's leaving QUARANTINE (R88). -/
def restartBus (s : State) (b : Nat) : State :=
  let s := modBus s b (fun x => { x with quarantine := none, retry := x.retry.map restartRetry })
  if (busAt s b).state = .quarantine then
    if (busAt s b).holder = .none then busToFree s b else setBusState s b .attached
  else s

/-- The start-up release begins (R114). -/
def beginStartUp (s : State) : State :=
  let s := onEngine s (fun e => { e with startUp := List.range 16 })
  (List.range 16).foldl (fun s n => requestOrder s (releaseAllOrder n (.startUp n))) s

/-- The session engine's warm restart: the sessions in order (R117), the riser clean-ups, the buses, and the start-up
release (R114, R118). R118 does not say in which order several buses leave QUARANTINE: they do so, with their BUS
notices, from A to D, as the Conventions order the buses, and after the orders of the sessions and clean-ups (DESIGN
CHOICE, log entry 45). -/
def engineRestart (s : State) : State :=
  let engine := s.engine
  let meas := s.meas
  let cleanUps := cleanUpsInProgress s
  let s := onEngine s (fun e => { e with orders := [], waiting := [], startUp := [] })
  let s := onMeas s (fun m => { m with windows := [], collectors := [] })
  let s := (List.range Config.sessionPlaces).foldl (restartSession engine meas) s
  let s := cleanUps.foldl requestOrder s
  let s := (List.range 4).foldl restartBus s
  beginStartUp s

/-! ### RESTART (R63, R209) -/

/-- The state to return to (R63). -/
def recordReturn (a : Arbiter) : Arbiter :=
  { a with service := .starting, returnTo := if a.service = .starting then a.returnTo else a.service }

/-- Warm restart: the ports first, the response, the interpreter, the RESTART notices, and then the other blocks
(R209). `answer` is the RESPONSE cell with DONE. No rule orders the other blocks: they restart as tracker, arbiter,
table store, timebase checkers A to D, scheduler and session engine, so that the TICKET notices of HEAD_DEGRADED
passes come before the BUS notices of ended quarantines (DESIGN CHOICE, log entry 45). -/
def warmRestart (s : State) (answer : Cell) : State :=
  let blocks := waitingTestBlocks s.ports
  let s := onPorts s portsRestart
  let s := joinNormal s [answer]
  let s := interpRestart s
  let s := onArbiter s recordReturn
  let s := notify s (.restart s.arbiter.returnTo)
  let s := startLostAudits (reofferTestBlocks s blocks)
  let s := tablesRestart (arbiterRestart s)
  let s := schedulesRestart ((List.range 4).foldl checkerRestart s)
  engineRestart s

end Sys2Proof.Machine
end

