-- ==== Sys2Proof/Machine/TableStore.lean ====
section
/-! DEFINITION. The table store's write commands (chapter 3): each gives the state after it and the response
code; a refused write changes nothing but a load buffer (R44). -/

namespace Sys2Proof.Machine

/-! ### The line directory (R45 to R47) -/

/-- A directory write for a line is accepted: an examination event where an entry waits for the line (R73). -/
def directoryWritten (s : State) (len : Nat) : State :=
  if s.arbiter.queue.any (fun y => y.line = len) then examineLater s else s

/-- The directory entry of a line is replaced; an entry waiting for the line brings an examination (R73), and a
change of cable group is handed to the ticket manager (R47). -/
def putDirectory (s : State) (len : Nat) (d : Option DirectoryEntry) : State :=
  let old := directoryAt s len
  let s := onTables s (fun t => { t with directory := tabPut none t.directory len d })
  directoryWritten (groupMoved s len (old.bind (·.group)) (d.bind (·.group))) len

/-- The entry a WRITE_LINE carries, if every field is in range (R45). Bits 3 to 7 of the flags octet
are not read (DESIGN CHOICE, log entry 5). -/
def lineEntry (s : State) (len : Half) (lineType profile group flags : Octet) : Option DirectoryEntry :=
  match lineTypeOf lineType with
  | none => none
  | some t =>
    if len.toNat ≤ 4095 ∧ profile.toNat ≤ 15 ∧ (profileAt s profile.toNat).loaded = true ∧
        (group.toNat ≤ 63 ∨ group = 0xFF#8) then
      some
        { lineType := t, profile := profile.toNat
          group := if group = 0xFF#8 then none else some group.toNat
          noRoutine := flags.getLsbD 0, emergency := flags.getLsbD 1, noDialTest := flags.getLsbD 2 }
    else none

def writeLine (s : State) (len : Half) (lineType profile group flags : Octet) : State × ResponseCode :=
  match lineEntry s len lineType profile group flags with
  | none => (s, .range)
  | some d => if underTest s len.toNat then (s, .inUse) else (putDirectory s len.toNat (some d), .done)

/-- CLEAR_LINE (R45, R46). On an unprovisioned line it changes nothing, but it is an accepted directory write, and
so an examination event of R73 where an entry waits for the line (DEDUCED, log entry 41). -/
def clearLine (s : State) (len : Half) : State × ResponseCode :=
  if 4095 < len.toNat then (s, .range)
  else if underTest s len.toNat then (s, .inUse)
  else if (directoryAt s len.toNat).isNone then (directoryWritten s len.toNat, .done)
  else (putDirectory s len.toNat none, .done)

/-! ### Threshold profiles (R48) -/

def profileOf (a : ProfileArgs) : Profile :=
  { loaded := true, ground := a.ground.toNat, short := a.short.toNat, insulation := a.insulation.toNat
    foreignDc := a.foreignDc.toNat, foreignAc := a.foreignAc.toNat, capTipRing := a.capTipRing.toNat
    capLegGround := a.capLegGround.toNat, minLength := a.minLength.toNat, speedMin := a.speedMin.toNat
    speedMax := a.speedMax.toNat, ratioMin := a.ratioMin.toNat, ratioMax := a.ratioMax.toNat }

/-- Every field in its range, and the three relations (section 3.3, R48). -/
def profileInRange (p : Profile) : Bool :=
  p.ground ≤ 100000000 ∧ p.short ≤ 99999999 ∧ 1 ≤ p.insulation ∧ p.insulation ≤ 100000000 ∧
    p.foreignDc ≤ 150000 ∧ p.foreignAc ≤ 150000 ∧ 1000 ≤ p.capTipRing ∧ p.capTipRing ≤ 200000 ∧
    1000 ≤ p.capLegGround ∧ p.capLegGround ≤ 200000 ∧ p.minLength ≤ 99999 ∧
    p.speedMin ≤ 1000 ∧ p.speedMax ≤ 1000 ∧ p.ratioMin ≤ 100 ∧ p.ratioMax ≤ 100 ∧
    p.short < p.insulation ∧ p.speedMin ≤ p.speedMax ∧ p.ratioMin ≤ p.ratioMax

def writeProfile (s : State) (a : ProfileArgs) : State × ResponseCode :=
  if a.number.toNat ≤ 15 ∧ profileInRange (profileOf a) = true then
    (onTables s (fun t => { t with profiles := tabPut profileZero t.profiles a.number.toNat (profileOf a) }), .done)
  else (s, .range)

/-! ### Test programs (R50 to R55) -/

def legOf (n : Nat) : Option Leg :=
  match n with
  | 1 => some .tipGround
  | 2 => some .ringGround
  | 3 => some .tipRing
  | _ => none

/-- A stimulus of permitted magnitude (section 3.4). -/
def stimulusOk (v : Int) : Bool := 10000 ≤ v.natAbs ∧ v.natAbs ≤ 150000

/-- A valid step (R50): fields a kind does not use are ignored, the digit limit carried with a
metallic step among them, which R50 does not name (DEDUCED, log entry 48). -/
def stepOf (r : RawStep) : Option ProgramStep :=
  let w := r.window.toNat
  let v := r.stimulus.toInt
  match r.kind with
  | 1 => (legOf r.leg).bind (fun l => if 8 ≤ w ∧ w ≤ 128 then some (.fv l w) else none)
  | 2 => (legOf r.leg).bind (fun l => if 8 ≤ w ∧ w ≤ 128 ∧ stimulusOk v then some (.res l v w) else none)
  | 3 => (legOf r.leg).bind (fun l => if 16 ≤ w ∧ w ≤ 128 ∧ stimulusOk v then some (.cap l v w) else none)
  | 4 => if 1 ≤ r.digits.toNat ∧ r.digits.toNat ≤ 3 then some (.dial r.digits.toNat) else none
  | _ => none

def isMetallic : ProgramStep → Bool
  | .dial _ => false
  | _ => true

/-- A program valid as a whole, its steps being valid (R51). -/
def programValid (p : Program) : Bool :=
  1 ≤ p.steps.length && p.steps.length ≤ 12 &&
    (p.steps.all isMetallic || (isDialProgram p && ! p.routineAllowed))

def bufferAt (s : State) (n : Nat) : Option LoadBuffer := tabGet none s.tables.buffers n
def putBuffer (s : State) (n : Nat) (b : Option LoadBuffer) : State :=
  onTables s (fun t => { t with buffers := tabPut none t.buffers n b })

/-- A program is in use (R55). -/
def programInUse (s : State) (n : Nat) : Bool :=
  s.arbiter.queue.any (fun y => y.program = n) || (liveSessions s).any (fun y => y.2.program = n) ||
    (List.range 8).any (fun k => (scheduleAt s k).run.state = .active &&
      (scheduleAt s k).config.any (fun c => c.program = n))

/-- A refused cell abandons a load of its own source (R52, R53). -/
def abandonLoad (s : State) (n : Nat) (src : Octet) : State :=
  match bufferAt s n with
  | some b => if b.owner = src then putBuffer s n none else s
  | none => s

/-- The buffer with a step stored at its index, opened for the source if it was EMPTY, its timer at 10 s. -/
def storeStep (b : Option LoadBuffer) (src : Octet) (i : Nat) (st : ProgramStep) : LoadBuffer :=
  match b with
  | some b => { b with steps := tabPut none b.steps i (some st), timer := Config.loadMs }
  | none => { owner := src, steps := [(i, some st)], timer := Config.loadMs }

/-- The buffer is LOADING for another source. -/
def loadingForOther (s : State) (n : Nat) (src : Octet) : Bool :=
  (bufferAt s n).any (fun b => b.owner ≠ src)

def writeProgramStep (s : State) (src program : Octet) (i : Nat) (raw : RawStep) : State × ResponseCode :=
  let n := program.toNat
  match stepOf raw with
  | some st =>
    if n ≤ 31 ∧ 1 ≤ i ∧ i ≤ 12 then
      if loadingForOther s n src then (s, .inUse)
      else (putBuffer s n (some (storeStep (bufferAt s n) src i st)), .done)
    else (abandonLoad s n src, .range)
  | none => (abandonLoad s n src, .range)

/-- The program a complete buffer assembles: exactly the indexes 1 to the step count (R53). -/
def assembled (b : LoadBuffer) (count : Nat) (routine : Bool) : Option Program :=
  if b.steps.map (·.1) = (List.range count).map (· + 1) then
    some { steps := b.steps.filterMap (·.2), routineAllowed := routine }
  else none

def writeProgramFinal (s : State) (src program : Octet) (i count : Nat) (routine : Bool) (raw : RawStep) :
    State × ResponseCode :=
  let n := program.toNat
  match stepOf raw with
  | some st =>
    if n ≤ 31 ∧ 1 ≤ count ∧ count ≤ 12 ∧ i = count then
      if loadingForOther s n src then (s, .inUse)
      else
        let b := storeStep (bufferAt s n) src i st
        match assembled b count routine with
        | none => (putBuffer s n none, .range)
        | some p =>
          if programValid p = false then (putBuffer s n none, .range)
          else if programInUse s n then (putBuffer s n (some b), .inUse)
          else (onTables (putBuffer s n none) (fun t =>
            { t with programs := tabPut programZero t.programs n p }), .done)
    else (abandonLoad s n src, .range)
  | none => (abandonLoad s n src, .range)

def writeProgramClear (s : State) (src program : Octet) : State × ResponseCode :=
  let n := program.toNat
  if 31 < n then (s, .range)
  else if loadingForOther s n src then (s, .inUse)
  else if programInUse s n then (s, .inUse)
  else (onTables (abandonLoad s n src) (fun t =>
    { t with programs := tabPut programZero t.programs n programZero }), .done)

/-! ### The head table (R56, R57) -/

def timebaseMode : ModeField → Option TimebaseMode
  | .hourly => some .hourly
  | .continuous => some .continuous
  | .other => none

/-- A change of mode zeroes the checker's counts and restarts its timebase timer, DEGRADED kept (R57). -/
def restartChecker (s : State) (h : Nat) : State :=
  putChecker s h { checkerAt s h with running := 0, latched := 0, exceeded := false, timer := Config.timebaseMs }

def writeHead (s : State) (head : Octet) (interval : Half) (target : Octet) (mode : ModeField) :
    State × ResponseCode :=
  let h := head.toNat
  match timebaseMode mode with
  | none => (s, .range)
  | some m =>
    if h ≤ 3 ∧ 100 ≤ interval.toNat ∧ interval.toNat ≤ 1000 then
      let changed : Bool := (headAt s h).mode ≠ m
      let s := onTables s (fun t => { t with
        heads := tabPut headZero t.heads h { interval := interval.toNat, target := target, mode := m } })
      (if changed then restartChecker s h else s, .done)
    else (s, .range)

/-! ### Hazard levels, privileges, group thresholds (R58, R59, R61) -/

def writeHazard (s : State) (danger clear : Triple) : State × ResponseCode :=
  let d := danger.toNat
  let c := clear.toNat
  if 2000 ≤ d ∧ d ≤ 200000 ∧ 1000 ≤ c ∧ c ≤ 199999 ∧ c < d then
    (onTables s (fun t => { t with danger := d, clear := c }), .done)
  else (s, .range)

/-- The six groups in listed order. -/
def commandGroups : List CommandGroup := [.query, .test, .ticket, .schedule, .table, .service]

/-- The groups a set octet names, one bit each from bit 0 (section 11.6). -/
def groupsOf (o : Octet) : List CommandGroup :=
  (commandGroups.zipIdx.filter (fun x => o.getLsbD x.2)).map (·.1)

def privilegeOf (s : State) (src : Octet) : Option (List CommandGroup) :=
  (s.tables.privileges.find? (fun x => x.1 = src)).map (·.2)

def writePrivilege (s : State) (unit groups : Octet) : State × ResponseCode :=
  let gs := groupsOf groups
  let held := (privilegeOf s unit).isSome
  let put := fun (l : List (Octet × List CommandGroup)) => onTables s (fun t => { t with privileges := l })
  if unit = maintenance then (s, .range)
  else if held then
    if gs = [] then (put (s.tables.privileges.filter (fun x => x.1 ≠ unit)), .done)
    else (put (s.tables.privileges.map (fun x => if x.1 = unit then (unit, gs) else x)), .done)
  else if gs = [] then (s, .notFound)
  else if s.tables.privileges.length < Config.privilegeCapacity then
    (put (s.tables.privileges ++ [(unit, gs)]), .done)
  else (s, .full)

def writeGroupThreshold (s : State) (group threshold : Octet) : State × ResponseCode :=
  let g := group.toNat
  let t := threshold.toNat
  if 63 < g then (s, .range)
  else if thresholdAt s g = t then (s, .done)
  else (thresholdChanged (onTables s (fun x => { x with thresholds := tabPut 0 x.thresholds g t })) g, .done)

end Sys2Proof.Machine
end

