-- ==== Sys2Proof/Machine/Commands.lean ====
section
/-! DEFINITION. The command interpreter (sections 10.1 and 10.2): codes, groups and answer places, the taking of a
command with its tests and answer, part assemblies (R213), the reading of arguments (section 11.6), and the pace
timer (R196). -/

namespace Sys2Proof.Machine

/-! ### The catalogue (section 10.2) -/

/-- The command code: the commands are numbered from 1 in the catalogue's order (R211). -/
def commandCode : Command → Octet
  | .unknown c => c
  | .wrongParts c => c
  | .enableService => 1#8
  | .suspendService => 2#8
  | .restart => 3#8
  | .busRemove _ => 4#8
  | .busRestore _ => 5#8
  | .forceRelease _ => 6#8
  | .writeLine .. => 7#8
  | .clearLine _ => 8#8
  | .writeProfile _ => 9#8
  | .writeProgramStep .. => 10#8
  | .writeProgramFinal .. => 10#8
  | .writeProgramClear _ => 10#8
  | .writeHead .. => 11#8
  | .writeHazard .. => 12#8
  | .writePrivilege .. => 13#8
  | .writeGroupThreshold .. => 14#8
  | .writeSchedule _ => 15#8
  | .sweepStart _ => 16#8
  | .sweepStop _ => 17#8
  | .setTime .. => 18#8
  | .adjustTime => 19#8
  | .testRequest .. => 20#8
  | .cancel _ => 21#8
  | .ticketRead _ => 22#8
  | .ticketList _ => 23#8
  | .ticketDispatch .. => 24#8
  | .ticketClose .. => 25#8
  | .cableAck _ => 26#8
  | .readLine _ => 27#8
  | .readTime => 28#8
  | .readStatus => 29#8
  | .readBus => 30#8
  | .readHeadCounts => 31#8
  | .readQueue _ => 32#8
  | .readSweep _ => 33#8
  | .setNotices _ => 34#8

/-- The group of a command code (section 10.2); none is an unknown code. -/
def groupOfCode (code : Octet) : Option CommandGroup :=
  let n := code.toNat
  if n = 0 then none
  else if n ≤ 6 then some .service
  else if n ≤ 14 then some .table
  else if n ≤ 19 then some .schedule
  else if n ≤ 21 then some .test
  else if n ≤ 26 then some .ticket
  else if n ≤ 34 then some .query
  else none

/-- The answer places a command code needs (R198). -/
def answerPlaces (code : Octet) : Nat :=
  match code.toNat with
  | 22 => 4
  | 23 => 11
  | 27 => 2
  | 28 => 2
  | 29 => 3
  | 30 => 5
  | 31 => 5
  | 32 => 9
  | 33 => 13
  | _ => 1

/-- A command's own number of parts (section 11.6). -/
def ownParts (code : Octet) : Nat :=
  match code.toNat with
  | 9 => 5
  | 15 => 3
  | _ => 1

/-- A source holds a group: 0x02 holds every group, another source those of its entry (R197). -/
def holdsGroup (s : State) (src : Octet) (g : CommandGroup) : Bool :=
  src = maintenance ∨ g ∈ (privilegeOf s src).getD []

/-! ### Answers (R198, section 11.6) -/

def responseCell (own src : Octet) (tag : Half) (code : Octet) (a : Answer) : Cell :=
  makeCell kindResponse own src
    (octets2 tag.toNat ++ [code, responseCode a.code, octet a.replies.length] ++ a.data)

def replyCell (own src : Octet) (tag : Half) (i : Nat) (data : List Octet) : Cell :=
  makeCell kindReply own src (octets2 tag.toNat ++ [octet i] ++ data)

/-- The RESPONSE cell and the REPLY cells behind it, in index order. -/
def answerCells (own src : Octet) (tag : Half) (code : Octet) (a : Answer) : List Cell :=
  responseCell own src tag code a :: a.replies.zipIdx.map (fun x => replyCell own src tag (x.2 + 1) x.1)

/-! ### Carrying a command out -/

/-- A command that answers with its code alone. -/
def answering (r : State × ResponseCode) : State × Answer := (r.1, plainAnswer r.2)

/-- The effect and the answer of an accepted command whose group its source holds. RESTART has its own way
(`takeRestart`). -/
def carryOut (s : State) (src : Octet) : Command → State × Answer
  | .unknown _ => (s, plainAnswer .range)
  | .wrongParts _ => (s, plainAnswer .range)
  | .enableService => answering (enableService s)
  | .suspendService => answering (suspendService s)
  | .restart => (s, plainAnswer .done)
  | .busRemove b => answering (busRemove s b)
  | .busRestore b => answering (busRestore s b)
  | .forceRelease len => answering (forceRelease s len)
  | .writeLine len t p g f => answering (writeLine s len t p g f)
  | .clearLine len => answering (clearLine s len)
  | .writeProfile a => answering (writeProfile s a)
  | .writeProgramStep p i st => answering (writeProgramStep s src p i st)
  | .writeProgramFinal p i n r st => answering (writeProgramFinal s src p i n r st)
  | .writeProgramClear p => answering (writeProgramClear s src p)
  | .writeHead h i t m => answering (writeHead s h i t m)
  | .writeHazard d c => answering (writeHazard s d c)
  | .writePrivilege u g => answering (writePrivilege s u g)
  | .writeGroupThreshold g t => answering (writeGroupThreshold s g t)
  | .writeSchedule a => answering (writeSchedule s a)
  | .sweepStart n => answering (sweepStart s n.toNat)
  | .sweepStop n => answering (sweepStop s n.toNat)
  | .setTime sec mi h wd d mo y =>
    answering (setTime s sec.toNat mi.toNat h.toNat wd.toNat d.toNat mo.toNat y.toNat)
  | .adjustTime => answering (adjustTime s)
  | .testRequest len p tag w => answering (testRequest s src len p tag w)
  | .cancel tag => answering (cancelRequest s src tag)
  | .ticketRead id => (s, ticketRead s id)
  | .ticketList place => (s, ticketList s place)
  | .ticketDispatch id tag => answering (ticketDispatch s id tag)
  | .ticketClose id force => answering (ticketClose s src id force)
  | .cableAck g => answering (cableAck s g)
  | .readLine len => (s, readLine s len)
  | .readTime => (s, readTime s)
  | .readStatus => readStatus s src
  | .readBus => (s, readBus s)
  | .readHeadCounts => (s, readHeadCounts s)
  | .readQueue p => (s, readQueue s p)
  | .readSweep n => (s, readSweep s n.toNat)
  | .setNotices k => answering (setNotices s src k)

/-- Whether a command is answered RANGE before its privilege is tested: an unknown code (R197), or a cell that
breaks an assembly (R213). -/
def isUnknown : Command → Bool
  | .unknown _ => true
  | _ => false

/-- The source holds the command's group, or the command needs none. -/
def permitted (s : State) (src : Octet) (c : Command) : Bool :=
  isUnknown c || (match groupOfCode (commandCode c) with
    | some g => holdsGroup s src g
    | none => true)

/-- The tests of R197 in order, and the command's own effect. -/
def judgeCommand (s : State) (src : Octet) (c : Command) : State × Answer :=
  if permitted s src c then carryOut s src c else (s, plainAnswer .refusedPrivilege)

/-- Places are reserved in the NORMAL queue, or given back (R196, R198). -/
def reservePlaces (s : State) (k : Nat) : State :=
  onPorts s (fun p => { p with reserved := p.reserved + k })
def releasePlaces (s : State) (k : Nat) : State :=
  onPorts s (fun p => { p with reserved := p.reserved - k })

/-- An accepted command: its places are reserved, it is carried out whole, and its answer joins against the
reservation, the places it does not use released (R196 to R198). The answer joins the NORMAL queue whatever the
command's source, a shelf's or a head's address included: R13 and R198 are followed where R15 would insert it
south by its destination (DESIGN CHOICE, log entry 39). -/
def acceptCommand (s : State) (src : Octet) (tag : Half) (c : Command) : State :=
  let k := answerPlaces (commandCode c)
  let r := judgeCommand (reservePlaces s k) src c
  joinNormal (releasePlaces r.1 k) (answerCells (own s) src tag (commandCode c) r.2)

/-- RESTART whose group is held (R209). -/
def takeRestart (s : State) (src : Octet) (tag : Half) : State :=
  warmRestart s (responseCell (own s) src tag 3#8 (plainAnswer .done))

/-- A command is taken: dropped and counted when the NORMAL queue's room is short of the places it needs, and
otherwise accepted (R196). -/
def takeCommand (s : State) (src : Octet) (tag : Half) (c : Command) : State :=
  if normalRoom s < answerPlaces (commandCode c) then countDropped s .north
  else if c = .restart ∧ holdsGroup s src .service = true then takeRestart s src tag
  else acceptCommand s src tag c

/-! ### Reading arguments (section 11.6) -/

def arg1 (a : List Octet) (i : Nat) : Octet := a.getD i 0#8
def arg2 (a : List Octet) (i : Nat) : Half := arg1 a i ++ arg1 a (i + 1)
def arg3 (a : List Octet) (i : Nat) : Triple := arg1 a i ++ arg1 a (i + 1) ++ arg1 a (i + 2)
def arg4 (a : List Octet) (i : Nat) : Quad := arg2 a i ++ arg2 a (i + 2)

def profileArgs (a : List Octet) : ProfileArgs :=
  { number := arg1 a 0, ground := arg4 a 1, short := arg4 a 5, insulation := arg4 a 9, foreignDc := arg3 a 13
    foreignAc := arg3 a 16, capTipRing := arg3 a 19, capLegGround := arg3 a 22, minLength := arg3 a 25
    speedMin := arg2 a 28, speedMax := arg2 a 30, ratioMin := arg1 a 32, ratioMax := arg1 a 33 }

def scheduleArgs (a : List Octet) : ScheduleArgs :=
  { number := arg1 a 0, enable := arg1 a 1, minute := arg1 a 2, hour := arg1 a 3, weekday := arg1 a 4
    day := arg1 a 5, month := arg1 a 6, enables := arg1 a 7, first := arg2 a 8, last := arg2 a 10
    program := arg1 a 12, window := arg1 a 13, duration := arg2 a 14, report := arg1 a 16 }

/-- WRITE_PROGRAM packs its step into its eight octets (section 11.6); index 0 and count 0 is a clearing cell,
and any other count of 0 a step cell (section 3.4). Bit 1 of the third octet, and ROUTINE_ALLOWED on a step or clearing
cell, are neither read nor refused (DESIGN CHOICE, log entry 51). -/
def programCommand (a : List Octet) : Command :=
  let index := (arg1 a 1).toNat / 16
  let count := (arg1 a 1).toNat % 16
  let shape := (arg1 a 2).toNat
  let step : RawStep :=
    { kind := shape / 16, leg := shape / 4 % 4, stimulus := arg3 a 3, window := arg1 a 6, digits := arg1 a 7 }
  if index = 0 ∧ count = 0 then .writeProgramClear (arg1 a 0)
  else if count = 0 then .writeProgramStep (arg1 a 0) index step
  else .writeProgramFinal (arg1 a 0) index count (shape % 2 = 1) step

/-- A whole command read from its code and argument octets, the fields in the order of section 11.6. Argument octets past
the command's own fields, the padding of a last part among them, are neither read nor refused, whatever they hold: the
spec does not say what becomes of one that is not 0 (DESIGN CHOICE, log entry 55). -/
def readCommand (code : Octet) (a : List Octet) : Command :=
  match code.toNat with
  | 1 => .enableService
  | 2 => .suspendService
  | 3 => .restart
  | 4 => .busRemove (arg1 a 0)
  | 5 => .busRestore (arg1 a 0)
  | 6 => .forceRelease (arg2 a 0)
  | 7 => .writeLine (arg2 a 0) (arg1 a 2) (arg1 a 3) (arg1 a 4) (arg1 a 5)
  | 8 => .clearLine (arg2 a 0)
  | 9 => .writeProfile (profileArgs a)
  | 10 => programCommand a
  | 11 => .writeHead (arg1 a 0) (arg2 a 1) (arg1 a 3) (modeOf (arg1 a 4))
  | 12 => .writeHazard (arg3 a 0) (arg3 a 3)
  | 13 => .writePrivilege (arg1 a 0) (arg1 a 1)
  | 14 => .writeGroupThreshold (arg1 a 0) (arg1 a 1)
  | 15 => .writeSchedule (scheduleArgs a)
  | 16 => .sweepStart (arg1 a 0)
  | 17 => .sweepStop (arg1 a 0)
  | 18 => .setTime (arg1 a 0) (arg1 a 1) (arg1 a 2) (arg1 a 3) (arg1 a 4) (arg1 a 5) (arg2 a 6)
  | 19 => .adjustTime
  | 20 => .testRequest (arg2 a 0) (arg1 a 2) (arg2 a 3) (arg2 a 5)
  | 21 => .cancel (arg2 a 0)
  | 22 => .ticketRead (arg1 a 0)
  | 23 => .ticketList (if arg1 a 0 = 0xFF#8 then .start else if arg1 a 0 = 0#8 then .after (arg1 a 1) else .other)
  | 24 => .ticketDispatch (arg1 a 0) (arg2 a 1)
  | 25 => .ticketClose (arg1 a 0) (arg1 a 1 = 1#8)
  | 26 => .cableAck (arg1 a 0)
  | 27 => .readLine (arg2 a 0)
  | 28 => .readTime
  | 29 => .readStatus
  | 30 => .readBus
  | 31 => .readHeadCounts
  | 32 => .readQueue (arg1 a 0)
  | 33 => .readSweep (arg1 a 0)
  | 34 => .setNotices (arg1 a 0)
  | _ => .unknown code

/-- A whole command of `parts` parts: an own number of parts that differs is answered RANGE (R213). The argument octets
of all parts are handed on, the padding of the last one too (DESIGN CHOICE, log entry 55). -/
def wholeCommand (code : Octet) (parts : Nat) (a : List Octet) : Command :=
  if (groupOfCode code).isNone then .unknown code
  else if parts ≠ ownParts code then .wrongParts code
  else readCommand code a

/-! ### Part assemblies and the pace timer (R196, R213) -/

def assemblyOf (s : State) (src : Octet) : Option Assembly := s.interp.assemblies.find? (fun x => x.source = src)

def dropAssembly (s : State) (src : Octet) : State :=
  onInterp s (fun i => { i with assemblies := i.assemblies.filter (fun x => x.source ≠ src) })

def putAssembly (s : State) (x : Assembly) : State :=
  onInterp s (fun i => { i with assemblies := i.assemblies.filter (fun y => y.source ≠ x.source) ++ [x] })

/-- The assembly continues with part `n` of `count` of this tag and code. -/
def continues (x : Assembly) (tag : Half) (code : Octet) (n count : Nat) : Bool :=
  x.tag = tag ∧ x.code = code ∧ x.count = count ∧ n = x.parts.length + 1 ∧ n ≤ count

/-- The interpreter takes a COMMAND cell (R213). -/
def takeCommandCell (s : State) (c : Cell) : State :=
  let src := c.src
  let tag := field2 c 0
  let code := payloadAt c 2
  let n := (payloadAt c 3).toNat / 16
  let count := (payloadAt c 3).toNat % 16
  let args := c.payload.drop 4
  if n = 1 ∧ count = 1 then takeCommand s src tag (wholeCommand code 1 args)
  else if n = 1 ∧ 2 ≤ count then
    putAssembly s { source := src, tag := tag, code := code, count := count, parts := [args] }
  else match assemblyOf s src with
    | some x =>
      if continues x tag code n count then
        if n < count then putAssembly s { x with parts := x.parts ++ [args] }
        else takeCommand (dropAssembly s src) src tag (wholeCommand code count (x.parts.flatten ++ args))
      else takeCommand (dropAssembly s src) src tag (.unknown code)
    | none => takeCommand s src tag (.unknown code)

def putPace (s : State) (p : Pace) : State := onInterp s (fun i => { i with pace := p })

/-- The pace timer runs out: the oldest entry is taken and the timer restarts, or the interpreter waits for the
first entry that joins (R196). -/
def paceExpired (s : State) : State :=
  match s.ports.intake with
  | [] => putPace s .waiting
  | c :: rest => takeCommandCell (putPace (onPorts s (fun p => { p with intake := rest })) (.running 1)) c

/-- A COMMAND cell from Port N reaches the intake FIFO: it joins while fewer than 16 entries are held, and is
dropped with INTAKE_OVERRUN otherwise (R17). A stopped pace timer starts, and a waiting interpreter takes the
entry at once (R196). -/
def takeIn (s : State) (c : Cell) : State :=
  if s.ports.intake.length < Config.intakeCapacity then
    let s := onPorts s (fun p => { p with intake := p.intake ++ [c] })
    match s.interp.pace with
    | .stopped => putPace s (.running 1)
    | .running _ => s
    | .waiting => paceExpired s
  else countDropped (modPort s .north (fun x => { x with intakeOverrun := true })) .north

end Sys2Proof.Machine
end

