-- ==== Sys2Proof/Machine/CommandRows.lean ====
section
/-! DEFINITION. The command rows: a whole command with its source and tag, as the interpreter takes it
(R196, R197). Each row is the taking of its own command; the commands' effects stand in the files of the blocks
that carry them out. -/

namespace Sys2Proof.Machine

/-- UNKNOWN_COMMAND (R197). -/
def execUnknownCommand (src : Octet) (tag : Half) (code : Octet) (s : State) : Host.Outcome State Fault Refusal :=
  live (fun s => takeCommand s src tag (.unknown code)) s

/-- ENABLE_SERVICE (R64). -/
def execEnableService (src : Octet) (tag : Half) (s : State) : Host.Outcome State Fault Refusal :=
  live (fun s => takeCommand s src tag .enableService) s

/-- SUSPEND_SERVICE (R64). -/
def execSuspendService (src : Octet) (tag : Half) (s : State) : Host.Outcome State Fault Refusal :=
  live (fun s => takeCommand s src tag .suspendService) s

/-- RESTART (R209). -/
def execRestart (src : Octet) (tag : Half) (s : State) : Host.Outcome State Fault Refusal :=
  live (fun s => takeCommand s src tag .restart) s

/-- BUS_REMOVE (R107). -/
def execBusRemove (src : Octet) (tag : Half) (bus : Octet) (s : State) : Host.Outcome State Fault Refusal :=
  live (fun s => takeCommand s src tag (.busRemove bus)) s

/-- BUS_RESTORE (R108). -/
def execBusRestore (src : Octet) (tag : Half) (bus : Octet) (s : State) : Host.Outcome State Fault Refusal :=
  live (fun s => takeCommand s src tag (.busRestore bus)) s

/-- FORCE_RELEASE (R104). -/
def execForceRelease (src : Octet) (tag : Half) (len : Half) (s : State) : Host.Outcome State Fault Refusal :=
  live (fun s => takeCommand s src tag (.forceRelease len)) s

/-- WRITE_LINE (R45). -/
def execWriteLine (src : Octet) (tag : Half) (len : Half) (lineType profile group flags : Octet) (s : State) :
    Host.Outcome State Fault Refusal :=
  live (fun s => takeCommand s src tag (.writeLine len lineType profile group flags)) s

/-- CLEAR_LINE (R45). -/
def execClearLine (src : Octet) (tag : Half) (len : Half) (s : State) : Host.Outcome State Fault Refusal :=
  live (fun s => takeCommand s src tag (.clearLine len)) s

/-- WRITE_PROFILE (R48). -/
def execWriteProfile (src : Octet) (tag : Half) (a : ProfileArgs) (s : State) : Host.Outcome State Fault Refusal :=
  live (fun s => takeCommand s src tag (.writeProfile a)) s

/-- WRITE_PROGRAM_STEP (R52). -/
def execWriteProgramStep (src : Octet) (tag : Half) (program : Octet) (index : Nat) (step : RawStep) (s : State) :
    Host.Outcome State Fault Refusal :=
  live (fun s => takeCommand s src tag (.writeProgramStep program index step)) s

/-- WRITE_PROGRAM_FINAL (R53). -/
def execWriteProgramFinal (src : Octet) (tag : Half) (program : Octet) (index count : Nat) (routine : Bool)
    (step : RawStep) (s : State) : Host.Outcome State Fault Refusal :=
  live (fun s => takeCommand s src tag (.writeProgramFinal program index count routine step)) s

/-- WRITE_PROGRAM_CLEAR (R54). -/
def execWriteProgramClear (src : Octet) (tag : Half) (program : Octet) (s : State) :
    Host.Outcome State Fault Refusal :=
  live (fun s => takeCommand s src tag (.writeProgramClear program)) s

/-- WRITE_HEAD (R56). -/
def execWriteHead (src : Octet) (tag : Half) (head : Octet) (interval : Half) (target : Octet) (mode : ModeField)
    (s : State) : Host.Outcome State Fault Refusal :=
  live (fun s => takeCommand s src tag (.writeHead head interval target mode)) s

/-- WRITE_HAZARD (R58). -/
def execWriteHazard (src : Octet) (tag : Half) (danger clear : Triple) (s : State) :
    Host.Outcome State Fault Refusal :=
  live (fun s => takeCommand s src tag (.writeHazard danger clear)) s

/-- WRITE_PRIVILEGE (R59). -/
def execWritePrivilege (src : Octet) (tag : Half) (unit groups : Octet) (s : State) :
    Host.Outcome State Fault Refusal :=
  live (fun s => takeCommand s src tag (.writePrivilege unit groups)) s

/-- WRITE_GROUP_THRESHOLD (R61). -/
def execWriteGroupThreshold (src : Octet) (tag : Half) (group threshold : Octet) (s : State) :
    Host.Outcome State Fault Refusal :=
  live (fun s => takeCommand s src tag (.writeGroupThreshold group threshold)) s

/-- WRITE_SCHEDULE (R183). -/
def execWriteSchedule (src : Octet) (tag : Half) (a : ScheduleArgs) (s : State) : Host.Outcome State Fault Refusal :=
  live (fun s => takeCommand s src tag (.writeSchedule a)) s

/-- SWEEP_START (R193). -/
def execSweepStart (src : Octet) (tag : Half) (schedule : Octet) (s : State) : Host.Outcome State Fault Refusal :=
  live (fun s => takeCommand s src tag (.sweepStart schedule)) s

/-- SWEEP_STOP (R193). -/
def execSweepStop (src : Octet) (tag : Half) (schedule : Octet) (s : State) : Host.Outcome State Fault Refusal :=
  live (fun s => takeCommand s src tag (.sweepStop schedule)) s

/-- SET_TIME (R180). -/
def execSetTime (src : Octet) (tag : Half) (second minute hour weekday day month : Octet) (year : Half) (s : State) :
    Host.Outcome State Fault Refusal :=
  live (fun s => takeCommand s src tag (.setTime second minute hour weekday day month year)) s

/-- ADJUST_TIME (R181). -/
def execAdjustTime (src : Octet) (tag : Half) (s : State) : Host.Outcome State Fault Refusal :=
  live (fun s => takeCommand s src tag .adjustTime) s

/-- TEST_REQUEST (R69). -/
def execTestRequest (src : Octet) (tag : Half) (len : Half) (program : Octet) (requesterTag waitLimit : Half)
    (s : State) : Host.Outcome State Fault Refusal :=
  live (fun s => takeCommand s src tag (.testRequest len program requesterTag waitLimit)) s

/-- CANCEL (R82). -/
def execCancel (src : Octet) (tag : Half) (requesterTag : Half) (s : State) : Host.Outcome State Fault Refusal :=
  live (fun s => takeCommand s src tag (.cancel requesterTag)) s

/-- TICKET_READ (R160). -/
def execTicketRead (src : Octet) (tag : Half) (id : Octet) (s : State) : Host.Outcome State Fault Refusal :=
  live (fun s => takeCommand s src tag (.ticketRead id)) s

/-- TICKET_LIST (R161). -/
def execTicketList (src : Octet) (tag : Half) (place : ListFrom) (s : State) : Host.Outcome State Fault Refusal :=
  live (fun s => takeCommand s src tag (.ticketList place)) s

/-- TICKET_DISPATCH (R162). -/
def execTicketDispatch (src : Octet) (tag : Half) (id : Octet) (dispatchTag : Half) (s : State) :
    Host.Outcome State Fault Refusal :=
  live (fun s => takeCommand s src tag (.ticketDispatch id dispatchTag)) s

/-- TICKET_CLOSE (R163). -/
def execTicketClose (src : Octet) (tag : Half) (id : Octet) (force : Bool) (s : State) :
    Host.Outcome State Fault Refusal :=
  live (fun s => takeCommand s src tag (.ticketClose id force)) s

/-- CABLE_ACK (R175). -/
def execCableAck (src : Octet) (tag : Half) (group : Octet) (s : State) : Host.Outcome State Fault Refusal :=
  live (fun s => takeCommand s src tag (.cableAck group)) s

/-- READ_LINE (R199). -/
def execReadLine (src : Octet) (tag : Half) (len : Half) (s : State) : Host.Outcome State Fault Refusal :=
  live (fun s => takeCommand s src tag (.readLine len)) s

/-- READ_TIME (R199). -/
def execReadTime (src : Octet) (tag : Half) (s : State) : Host.Outcome State Fault Refusal :=
  live (fun s => takeCommand s src tag .readTime) s

/-- READ_STATUS (R200). -/
def execReadStatus (src : Octet) (tag : Half) (s : State) : Host.Outcome State Fault Refusal :=
  live (fun s => takeCommand s src tag .readStatus) s

/-- READ_BUS (R201). -/
def execReadBus (src : Octet) (tag : Half) (s : State) : Host.Outcome State Fault Refusal :=
  live (fun s => takeCommand s src tag .readBus) s

/-- READ_HEAD_COUNTS (R142). -/
def execReadHeadCounts (src : Octet) (tag : Half) (s : State) : Host.Outcome State Fault Refusal :=
  live (fun s => takeCommand s src tag .readHeadCounts) s

/-- READ_QUEUE (R202). -/
def execReadQueue (src : Octet) (tag : Half) (position : Octet) (s : State) : Host.Outcome State Fault Refusal :=
  live (fun s => takeCommand s src tag (.readQueue position)) s

/-- READ_SWEEP (R203). -/
def execReadSweep (src : Octet) (tag : Half) (schedule : Octet) (s : State) : Host.Outcome State Fault Refusal :=
  live (fun s => takeCommand s src tag (.readSweep schedule)) s

/-- SET_NOTICES (R207). -/
def execSetNotices (src : Octet) (tag : Half) (kinds : Octet) (s : State) : Host.Outcome State Fault Refusal :=
  live (fun s => takeCommand s src tag (.setNotices kinds)) s

end Sys2Proof.Machine
end

