-- ==== Sys2Proof/Machine/Dispositions.lean ====
section
/-! DEFINITION. What becomes of a cell a receiver delivers in SYNC: its disposition (section 1.5), and for each
disposition the effect on the tables and on the opposite transmitter (R7 to R10, R12, R22, R23, R25, R29, R33 to
R39, R91, R121). -/

namespace Sys2Proof.Machine

/-! ### The disposition table (section 1.5) -/

/-- The dispositions of the table of section 1.5, the consumed and the read kinds told apart. -/
inductive Disposition where
  | bad
  | idle
  | command
  | sample
  | orderAck
  | auditReport
  | discarded
  | lineReport
  | lineOrder
  | scanSummary
  | transit
  deriving DecidableEq, Repr

/-- A good cell addressed to the controller, by its kind and port (R7). -/
def ownDisposition (p : Side) (kind : Octet) : Disposition :=
  match p with
  | .north => if kind = kindCommand then .command else .discarded
  | .south =>
    if kind = kindSample then .sample
    else if kind = kindOrderAck then .orderAck
    else if kind = kindAuditReport then .auditReport
    else .discarded

/-- A good cell addressed to another unit, by its kind and port (R9). -/
def otherDisposition (p : Side) (kind : Octet) : Disposition :=
  match p with
  | .north => if kind = kindLineOrder then .lineOrder else .transit
  | .south =>
    if kind = kindLineReport then .lineReport
    else if kind = kindScanSummary then .scanSummary
    else .transit

/-- The one disposition of a delivered cell. -/
def dispositionOf (own : Octet) (p : Side) (c : Cell) : Disposition :=
  if goodCheck c = false then .bad
  else if c.kind = kindIdle then .idle
  else if c.dst = own then ownDisposition p c.kind
  else otherDisposition p c.kind

/-- The cell goes on, unchanged, in the slot its delivery gives the opposite transmitter (R12). -/
def passOn (s : State) (p : Side) (c : Cell) : State := transmit s (opposite p) (.cell c)

/-- The cell goes no further: its slot is an insertion opportunity (R12). -/
def leaveSlot (s : State) (p : Side) : State := giveSlot s (opposite p)

/-! ### Delineation in SYNC (R4, R8) -/

/-- A bad cell, or a cell time without signal, adds one to the run; at 5 the receiver leaves SYNC (R4). -/
def lengthenRun (s : State) (p : Side) : State :=
  modPort s p (fun x =>
    if 5 ≤ x.badRun + 1 then
      { x with badRun := x.badRun + 1, delineation := .hunt, delineationLost := true, huntOctets := [] }
    else { x with badRun := x.badRun + 1 })

/-- A bad cell is counted, dropped or forwarded, and then its run is examined (R8). -/
def badDelivered (s : State) (p : Side) (c : Cell) : State :=
  let s := modPort s p (fun x => { x with checkError := true, badChecks := count32 x.badChecks })
  let s := if c.dst = own s then leaveSlot s p else passOn s p c
  lengthenRun s p

/-- A command from Port S is dropped and counted; another cell that no block takes is discarded (R7). -/
def discardDelivered (s : State) (p : Side) (c : Cell) : State :=
  let s := leaveSlot s p
  if c.kind = kindCommand ∧ p = .south then countDropped s .south else s

/-! ### LINE REPORTs (R22, R33 to R35) -/

/-- A LINE REPORT the tracker reads: its line and report code (R22, R212). -/
def readReport (c : Cell) : Option (Nat × Report) :=
  let len := (field2 c 0).toNat
  match reportOf (payloadAt c 2) with
  | some r => if shelfOf c.src = some (lineShelf len) then some (len, r) else none
  | none => none

/-- A read report is passed: the entry changes and the last forwarded value follows (R22). -/
def passReport (s : State) (c : Cell) (len : Nat) (r : Report) : State :=
  passOn (forwardReport (applyReport s len r) len r) .south c

/-- An off-hook report in RESERVED: the session is abandoned and the report goes to the URGENT queue behind
UNBLOCKED (R34). -/
def abandonOnReport (s : State) (c : Cell) (len id : Nat) (r : Report) : State :=
  let s := dropReserved (applyReport s len r) id false .abandoned
  leaveSlot (offerUrgent s c) .south

/-- The report takes the line off-hook. -/
def isOffHookReport (r : Report) : Bool := r = .offHook ∨ r = .ringTrip

/-- A read report is disposed of by the line's cut-off and session. -/
def reportDisposed (s : State) (c : Cell) (len : Nat) (r : Report) : State :=
  if (lineOf s len).cutOff then leaveSlot s .south
  else match sessionOnLine s len with
    | none => passReport s c len r
    | some (id, x) =>
      match x.state with
      | .reserved => if isOffHookReport r then abandonOnReport s c len id r else passReport s c len r
      | .awaitOffHook => leaveSlot (dialReport (applyReport s len r) id x r (field2 c 3).toNat) .south
      | .collecting => leaveSlot (dialReport (applyReport s len r) id x r (field2 c 3).toNat) .south
      | _ => passReport s c len r

/-- A LINE REPORT is delivered by Port S; one the tracker does not read is passed untouched (R22). -/
def reportDelivered (s : State) (c : Cell) : State :=
  match readReport c with
  | some (len, r) => reportDisposed s c len r
  | none => passOn s .south c

/-! ### LINE ORDERs (R23, R36, R37, R39) -/

/-- A LINE ORDER the tracker reads and knows: its line and order code (R23, R212). -/
def readLineOrder (c : Cell) : Option (Nat × LineOrderCode) :=
  let len := (field2 c 0).toNat
  match lineOrderOf (payloadAt c 2) with
  | some o => if shelfOf c.dst = some (lineShelf len) then some (len, o) else none
  | none => none

/-- A held ring order of the line's session is discarded (R37). -/
def dropHeldOrder (s : State) (len : Nat) : State :=
  match sessionOnLine s len with
  | some (id, _) => modSession s id (fun x => { x with held := none })
  | none => s

/-- A STOP_RING is passed; it ends RINGING, unless the line is under test and cut off (R23, R37). -/
def stopRing (s : State) (c : Cell) (len : Nat) : State :=
  let s := dropHeldOrder (passOn s .north c) len
  if (underTest s len && (lineOf s len).cutOff) = false ∧ (lineOf s len).hook = .ringing then writeHook s len .idle
  else s

/-- An APPLY_RING is passed and the line is RINGING (R23, R36). -/
def passRing (s : State) (c : Cell) (len : Nat) : State := writeHook (passOn s .north c) len .ringing

/-- An APPLY_RING is discarded and BLOCKED is offered again (R39). -/
def refuseRing (s : State) (len : Nat) : State := leaveSlot (offerTestBlock s len true) .north

/-- An APPLY_RING is held against the session, which is released ABORTED_CALL; a second one is discarded
(R37). -/
def holdRing (s : State) (c : Cell) (id : Nat) (x : Session) : State :=
  if x.held.isSome then leaveSlot s .north
  else leaveSlot (endSession (modSession s id (fun y => { y with held := some c })) id .abortedCall) .north

/-- An APPLY_RING for a line whose session yields to a call is passed while the cut-off is clear, ending a session
in RESERVED (R36). -/
def ringThrough (s : State) (c : Cell) (len id : Nat) (x : Session) : State :=
  let s := passRing s c len
  if x.state = .reserved then endSession s id .abortedCall else s

/-- The line carries the directory flag EMERGENCY. -/
def isEmergency (s : State) (len : Nat) : Bool :=
  match directoryAt s len with
  | some d => d.emergency
  | none => false

/-- A read APPLY_RING is disposed of by the table of R36. Where the table has no entry, for a line that is cut off while
its session has ended or a DIAL session is on it, the order is discarded, as the law of R37 asks (DESIGN CHOICE, log
entry 16). -/
def applyRing (s : State) (c : Cell) (len : Nat) : State :=
  if underTest s len = false then (if (lineOf s len).cutOff then leaveSlot s .north else passRing s c len)
  else match sessionOnLine s len with
    | none => refuseRing s len
    | some (id, x) =>
      if x.cls = .demand ∧ isEmergency s len = false then refuseRing s len
      else if x.bus.isNone then
        if (lineOf s len).cutOff then refuseRing s len else endSession (passRing s c len) id .abortedCall
      else if (lineOf s len).cutOff then holdRing s c id x
      else ringThrough s c len id x

/-- A LINE ORDER is delivered by Port N; one the tracker does not read, or of another code, is passed (R23). -/
def lineOrderDelivered (s : State) (c : Cell) : State :=
  match readLineOrder c with
  | some (len, .applyRing) => applyRing s c len
  | some (len, .stopRing) => stopRing s c len
  | none => passOn s .north c

/-! ### Scan summaries, audit reports, acknowledgements, samples (R25, R29, R91, R121) -/

/-- A SCAN SUMMARY is delivered by Port S: read if its source is a shelf, and passed (R25). -/
def summaryDelivered (s : State) (c : Cell) : State :=
  match shelfOf c.src with
  | some n => passOn (readSummary s n (field2 c 0).toNat) .south c
  | none => passOn s .south c

/-- An AUDIT REPORT is consumed by the tracker (R29). -/
def auditDelivered (s : State) (c : Cell) : State := takeAuditReport (leaveSlot s .south) c

/-- The hook state an ACCESS RELEASE's acknowledgement may carry (R91). -/
def ackHook (c : Cell) : Option Hook :=
  match hookOf (payloadAt c 1).toNat with
  | some .ringing => none
  | h => h

/-- The outstanding order an ORDER ACK answers: its tag, from the order's shelf, and for an ACCESS RELEASE a hook
code of IDLE, OFF_HOOK or PARKED (R91). -/
def ackedOrder (s : State) (c : Cell) : Option OutstandingOrder :=
  s.engine.orders.find? (fun o =>
    o.tag = (payloadAt c 0).toNat ∧ c.src = shelfAddress o.order.shelf ∧
      (o.order.kind = .accessRelease → (ackHook c).isSome))

/-- An ORDER ACK is consumed by the session engine (R91). -/
def ackDelivered (s : State) (c : Cell) : State :=
  let s := leaveSlot s .south
  match ackedOrder s c with
  | some o => orderAcked (removeOrder s o.tag) o.order (ackHook c)
  | none => s

/-- A SAMPLE is consumed by the measurement unit, and a window it ends is reported to the session engine
(R121, R125). -/
def sampleDelivered (s : State) (c : Cell) : State :=
  match takeSample (leaveSlot s .south) c with
  | (s, some (b, e)) => windowEnded s b e
  | (s, none) => s

/-- A COMMAND from Port N is consumed into the command intake FIFO (R17). -/
def commandDelivered (s : State) (c : Cell) : State := takeIn (leaveSlot s .north) c

/-! ### Delivery -/

/-- The effect of a good cell by its disposition. -/
def dispose (s : State) (p : Side) (c : Cell) : Disposition → State
  | .bad => badDelivered s p c
  | .idle => leaveSlot s p
  | .command => commandDelivered s c
  | .sample => sampleDelivered s c
  | .orderAck => ackDelivered s c
  | .auditReport => auditDelivered s c
  | .discarded => discardDelivered s p c
  | .lineReport => reportDelivered s c
  | .lineOrder => lineOrderDelivered s c
  | .scanSummary => summaryDelivered s c
  | .transit => passOn s p c

/-- A cell arrives at a port. In SYNC it is delivered and has its one disposition, a good one setting the bad run
to 0 (R4); in HUNT and PRESYNC nothing arrives (R5). -/
def deliverCell (s : State) (p : Side) (c : Cell) : State :=
  if (portAt s p).delineation = .sync then
    let s := if goodCheck c then modPort s p (fun x => { x with badRun := 0 }) else s
    dispose s p c (dispositionOf (own s) p c)
  else s

/-- A step of the link: while RESET is asserted the octets are repeated onto the opposite pair (R20); otherwise
the step is the part's. -/
def onLink (p : Side) (octets : List Octet) (f : State → State) (s : State) : Host.Outcome State Fault Refusal :=
  if s.ports.resetAsserted then .next (transmit s (opposite p) (.repeated octets)) else live f s

end Sys2Proof.Machine
end

