-- ==== Sys2Proof/Machine/PortRows.lean ====
section
/-! DEFINITION. The rows of the link ports: RESET, delineation, the delivered cells, the transmit slots and the
insertion queues (chapter 1), and the pace timer. -/

namespace Sys2Proof.Machine

/-! ### Reset (R20) -/

/-- What a transmit pair carries when RESET is asserted: a cell is cut short. -/
def cutCell : Transmit → Transmit
  | .cell c => .cut c
  | x => x

/-- What a transmit pair carries when RESET is released: a repeated cell is cut short. -/
def cutRepeated : Transmit → Transmit
  | .repeated os => .cutRepeat os
  | x => x

/-- RESET_ASSERT: the bypass begins, cutting short any cell being transmitted (R20). -/
def execResetAssert (s : State) : Host.Outcome State Fault Refusal :=
  .next (if s.ports.resetAsserted then s else onPorts s (fun p => { p with
    resetAsserted := true, northTx := cutCell p.northTx, southTx := cutCell p.southTx }))

/-- POWER_ON_RESET: the straps are sampled and every block takes its power-on state (R6, R20). -/
def execPowerOnReset (straps : BitVec 2) (s : State) : Host.Outcome State Fault Refusal :=
  .next (onPorts { State.powerOn straps with pending := s.pending } (fun p => { p with
    northTx := cutRepeated s.ports.northTx, southTx := cutRepeated s.ports.southTx }))

/-! ### Delineation (R2 to R4) -/

/-- The receiver takes one more octet in HUNT: the earliest position not passed over is tested when its sixteen
octets are there (R2). -/
def huntOctet (x : Port) (o : Octet) : Port :=
  let os := x.huntOctets ++ [o]
  if os.length < 16 then { x with huntOctets := os }
  else match cellOfOctets os with
    | some c =>
      if goodCheck c then { x with delineation := .presync, confirmed := 0, huntOctets := [] }
      else { x with huntOctets := os.drop 1 }
    | none => { x with huntOctets := os.drop 1 }

/-- HUNT_SEARCH (R2). -/
def execHuntSearch (p : Side) (o : Octet) (s : State) : Host.Outcome State Fault Refusal :=
  onLink p [o] (fun s =>
    if (portAt s p).delineation = .hunt then modPort s p (fun x => huntOctet x o) else s) s

/-- The receiver goes back to HUNT, with the octets the search has yet to test (R3). -/
def backToHunt (os : List Octet) (x : Port) : Port := { x with delineation := .hunt, huntOctets := os }

/-- A cell time in PRESYNC: a good cell counts toward SYNC; a bad one or no signal goes back to HUNT (R3). -/
def presyncCell (x : Port) : Option Cell → Port
  | some c =>
    if goodCheck c then
      if x.confirmed + 1 = 4 then { x with delineation := .sync, confirmed := 4, badRun := 0 }
      else { x with confirmed := x.confirmed + 1 }
    else backToHunt ((cellOctets c).drop 1) x
  | none => backToHunt [] x

/-- PRESYNC_CELL (R3). -/
def execPresyncCell (p : Side) (c : Option Cell) (s : State) : Host.Outcome State Fault Refusal :=
  onLink p ((c.map cellOctets).getD []) (fun s =>
    if (portAt s p).delineation = .presync then modPort s p (fun x => presyncCell x c) else s) s

/-- A cell time without signal: in SYNC a slot and one more in the run, in PRESYNC a return to HUNT (R3, R4). -/
def noSignal (s : State) (p : Side) : State :=
  match (portAt s p).delineation with
  | .sync => lengthenRun (leaveSlot s p) p
  | .presync => modPort s p (backToHunt [])
  | .hunt => s

/-- NO_SIGNAL_CELL_TIME (R4). -/
def execNoSignalCellTime (p : Side) (s : State) : Host.Outcome State Fault Refusal :=
  live (fun s => noSignal s p) s

/-! ### Delivered cells -/

/-- BAD_CELL (R8). -/
def execBadCell (p : Side) (c : Cell) (s : State) : Host.Outcome State Fault Refusal :=
  onLink p (cellOctets c) (fun s => deliverCell s p c) s

/-- IDLE_CELL (R12). -/
def execIdleCell (p : Side) (c : Cell) (s : State) : Host.Outcome State Fault Refusal :=
  onLink p (cellOctets c) (fun s => deliverCell s p c) s

/-- TRANSIT_CELL (R12). -/
def execTransitCell (p : Side) (c : Cell) (s : State) : Host.Outcome State Fault Refusal :=
  onLink p (cellOctets c) (fun s => deliverCell s p c) s

/-- DISCARD_CELL (R7). -/
def execDiscardCell (p : Side) (c : Cell) (s : State) : Host.Outcome State Fault Refusal :=
  onLink p (cellOctets c) (fun s => deliverCell s p c) s

/-- LINE_REPORT, on Port S (R22). -/
def execLineReport (c : Cell) (s : State) : Host.Outcome State Fault Refusal :=
  onLink .south (cellOctets c) (fun s => deliverCell s .south c) s

/-- LINE_ORDER, on Port N (R23). -/
def execLineOrder (c : Cell) (s : State) : Host.Outcome State Fault Refusal :=
  onLink .north (cellOctets c) (fun s => deliverCell s .north c) s

/-- SCAN_SUMMARY, on Port S (R25). -/
def execScanSummary (c : Cell) (s : State) : Host.Outcome State Fault Refusal :=
  onLink .south (cellOctets c) (fun s => deliverCell s .south c) s

/-- AUDIT_REPORT, on Port S (R29). -/
def execAuditReport (c : Cell) (s : State) : Host.Outcome State Fault Refusal :=
  onLink .south (cellOctets c) (fun s => deliverCell s .south c) s

/-- ORDER_ACK, on Port S (R91). -/
def execOrderAck (c : Cell) (s : State) : Host.Outcome State Fault Refusal :=
  onLink .south (cellOctets c) (fun s => deliverCell s .south c) s

/-- SAMPLE, on Port S (R121). -/
def execSample (c : Cell) (s : State) : Host.Outcome State Fault Refusal :=
  onLink .south (cellOctets c) (fun s => deliverCell s .south c) s

/-- COMMAND_INTAKE, on Port N (R17). -/
def execCommandIntake (c : Cell) (s : State) : Host.Outcome State Fault Refusal :=
  onLink .north (cellOctets c) (fun s => deliverCell s .north c) s

/-! ### Transmit slots and insertion (R11 to R15) -/

/-- FREE_RUNNING_SLOT: while the opposite receiver is out of SYNC a transmitter times its own slots (R11). -/
def execFreeRunningSlot (p : Side) (s : State) : Host.Outcome State Fault Refusal :=
  live (fun s => if (portAt s (opposite p)).delineation = .sync then s else giveSlot s p) s

/-- What an URGENT cell brings about as it leaves Port N: BLOCKED begins a DIAL session on its line (R109), and a
LINE REPORT becomes the last forwarded (R22, R34, R41). -/
def urgentLeft (s : State) (c : Cell) : State :=
  let len := (field2 c 0).toNat
  if c.kind = kindTestBlock then
    if payloadAt c 2 = 1#8 then blockedReportLeft s len else s
  else match reportOf (payloadAt c 2) with
    | some r => forwardReport s len r
    | none => s

/-- The North transmitter uses an insertion opportunity (R13). -/
def insertNorth (s : State) : State :=
  if s.ports.northSlots = 0 then s
  else
    let s := onPorts s (fun p => { p with northSlots := p.northSlots - 1 })
    match s.ports.urgent, s.ports.normal with
    | c :: rest, _ =>
      urgentLeft (transmit (onPorts s (fun p => { p with urgent := rest })) .north (.cell c)) c
    | [], c :: rest => transmit (onPorts s (fun p => { p with normal := rest })) .north (.cell c)
    | [], [] => transmit s .north (.cell idleCell)

/-- NORTH_INSERTION (R13). -/
def execNorthInsertion (s : State) : Host.Outcome State Fault Refusal := live insertNorth s

/-- The South transmitter uses an insertion opportunity (R14). -/
def insertSouth (s : State) : State :=
  if s.ports.southSlots = 0 then s
  else
    let s := onPorts s (fun p => { p with southSlots := p.southSlots - 1 })
    match s.ports.southQueue with
    | c :: rest => transmit (onPorts s (fun p => { p with southQueue := rest })) .south (.cell c)
    | [] => transmit s .south (.cell idleCell)

/-- SOUTH_INSERTION (R14). -/
def execSouthInsertion (s : State) : Host.Outcome State Fault Refusal := live insertSouth s

/-- The oldest cell of the URGENT offer backlog joins (R15). -/
def joinUrgentBacklog (s : State) : State :=
  match s.ports.urgentBacklog with
  | c :: rest =>
    if s.ports.urgent.length < Config.urgentCapacity then
      onPorts s (fun p => { p with urgent := p.urgent ++ [c], urgentBacklog := rest })
    else s
  | [] => s

/-- The oldest cell of the South offer backlog joins (R15). -/
def joinSouthBacklog (s : State) : State :=
  match s.ports.southBacklog with
  | c :: rest =>
    if s.ports.southQueue.length < Config.southCapacity then
      joinSouth (onPorts s (fun p => { p with southBacklog := rest })) c
    else s
  | [] => s

/-- OFFER_BACKLOG_JOIN (R15). -/
def execOfferBacklogJoin (q : OfferQueue) (s : State) : Host.Outcome State Fault Refusal :=
  live (fun s => match q with
    | .urgent => joinUrgentBacklog s
    | .south => joinSouthBacklog s) s

/-- PACE_TIMER_EXPIRY (R196). -/
def execPaceTimerExpiry (s : State) : Host.Outcome State Fault Refusal :=
  live (fun s => match s.interp.pace with
    | .running _ => paceExpired s
    | _ => s) s

end Sys2Proof.Machine
end

