-- ==== Sys2Proof/Machine/TimerRows.lean ====
section
/-! DEFINITION. The rows of the part's own timers, and of the cells and orders it draws on when room comes. An
expiry acts on a timer that is running, whatever it has left, and is nothing to a stopped one. -/

namespace Sys2Proof.Machine

/-! ### Supervision (chapter 2) -/

/-- HEARTBEAT_TIMER_EXPIRY (R25). -/
def execHeartbeatTimerExpiry (shelf : Fin 16) (s : State) : Host.Outcome State Fault Refusal :=
  live (fun s => if (shelfAt s shelf).heartbeat.isSome then heartbeatExpired s shelf else s) s

/-- The audit attempt of a shelf has a running timer. -/
def auditRunning (x : Shelf) : Bool :=
  match x.audit with
  | some a => a.timer.isSome
  | none => false

/-- AUDIT_TIMER_EXPIRY (R31). -/
def execAuditTimerExpiry (shelf : Fin 16) (s : State) : Host.Outcome State Fault Refusal :=
  live (fun s => if auditRunning (shelfAt s shelf) then auditExpired s shelf else s) s

/-- LINE_AGE_SECOND: every age counts up (section 2.1). -/
def execLineAgeSecond (s : State) : Host.Outcome State Fault Refusal :=
  live (fun s => { onTracker s (fun t => { t with ageClock := t.ageClock + 1 }) with ageMs := 0 }) s

/-! ### Requests and orders (chapters 4 and 5) -/

/-- The demand entry of a line and program. -/
def demandFor (s : State) (len program : Nat) : Option Entry :=
  s.arbiter.queue.find? (fun x => isDemand x ∧ x.line = len ∧ x.program = program)

/-- WAIT_TIMER_EXPIRY (R81). -/
def execWaitTimerExpiry (len : Fin 4096) (program : Fin 32) (s : State) : Host.Outcome State Fault Refusal :=
  live (fun s => match demandFor s len program with
    | some x => waitExpired s x
    | none => s) s

/-- The oldest waiting order takes a free entry; an ACCESS OPERATE meets the hook test first (R90, R93). -/
def takeWaiting (s : State) : State :=
  match s.engine.waiting with
  | [] => s
  | o :: rest =>
    if Config.orderCapacity ≤ s.engine.orders.length then s
    else
      let s := onEngine s (fun e => { e with waiting := rest })
      match o.kind, o.owner with
      | .accessOperate, .session id => tryAccess s id
      | _, _ => placeOrder s o

/-- ORDER_WAIT_LIST_ENTRY (R90). -/
def execOrderWaitListEntry (s : State) : Host.Outcome State Fault Refusal := live takeWaiting s

/-- An order entry's timer runs out: the entry goes, the tag is given back, and the owner's rule applies (R91). -/
def orderExpired (s : State) (tag : Nat) : State :=
  match s.engine.orders.find? (fun o => o.tag = tag) with
  | some o => if o.timer.isSome then orderTimedOut (removeOrder s tag) o.order else s
  | none => s

/-- ORDER_TIMEOUT (R91). -/
def execOrderTimeout (tag : Octet) (s : State) : Host.Outcome State Fault Refusal :=
  live (fun s => orderExpired s tag.toNat) s

/-- RELEASE_RETRY_TIMER_EXPIRY (R103). -/
def execReleaseRetryTimerExpiry (bus : Fin 4) (s : State) : Host.Outcome State Fault Refusal :=
  live (fun s => match (busAt s bus).retry with
    | some r => if r.timer.isSome then retryExpired s bus r else s
    | none => s) s

/-- QUARANTINE_TIMER_EXPIRY (R106). -/
def execQuarantineTimerExpiry (bus : Fin 4) (s : State) : Host.Outcome State Fault Refusal :=
  live (fun s => if (busAt s bus).quarantine.isSome then quarantineExpired s bus else s) s

/-- DIAL_SESSION_TIMER_EXPIRY (R110). -/
def execDialSessionTimerExpiry (session : Fin 8) (s : State) : Host.Outcome State Fault Refusal :=
  live (fun s => match sessionAt s session with
    | some x => if x.dialTimer.isSome then finishDial s session x dialOutcome else s
    | none => s) s

/-! ### Measurement (chapter 6) -/

/-- A silence timer runs out: the window ends with NO_DATA and its sums are dropped (R126). -/
def silenceExpired (s : State) (b : Nat) : State :=
  match windowAt s b with
  | some w => if w.silence.isSome then windowEnded (putWindow s b none) b .noData else s
  | none => s

/-- SILENCE_TIMER_EXPIRY (R126). -/
def execSilenceTimerExpiry (bus : Fin 4) (s : State) : Host.Outcome State Fault Refusal :=
  live (fun s => silenceExpired s bus) s

/-- DIGIT_TIMER_EXPIRY (R135). -/
def execDigitTimerExpiry (session : Fin 8) (s : State) : Host.Outcome State Fault Refusal :=
  live (fun s => match sessionAt s session with
    | some x =>
      if (collectorAt s session).timer.isSome then
        collectorChanged s session x (digitTimerExpired (collectorAt s session))
      else s
    | none => s) s

/-- TIMEBASE_TIMER_EXPIRY (R140, R141). -/
def execTimebaseTimerExpiry (head : Fin 4) (s : State) : Host.Outcome State Fault Refusal :=
  live (fun s => timebaseExpired s head) s

/-! ### Loads, calendar and sweeps (chapters 3 and 9) -/

/-- LOAD_TIMER_EXPIRY: the buffer becomes EMPTY and its steps are dropped (R54). -/
def execLoadTimerExpiry (program : Fin 32) (s : State) : Host.Outcome State Fault Refusal :=
  live (fun s => putBuffer s program none) s

/-- CALENDAR_SECOND (R178, R179, R182). -/
def execCalendarSecond (s : State) : Host.Outcome State Fault Refusal := live calendarSecond s

/-- DURATION_TIMER_EXPIRY (R192). -/
def execDurationTimerExpiry (schedule : Fin 8) (s : State) : Host.Outcome State Fault Refusal :=
  live (fun s =>
    if (scheduleAt s schedule).run.state = .active ∧ (scheduleAt s schedule).run.timer.isSome then
      durationExpired s schedule
    else s) s

/-! ### Results and notices (chapter 10) -/

/-- RESULT_DELIVERY (R206). -/
def execResultDelivery (s : State) : Host.Outcome State Fault Refusal := live deliverResult s

/-- NOTICE_DELIVERY (R208). -/
def execNoticeDelivery (unit : Fin 9) (s : State) : Host.Outcome State Fault Refusal :=
  live (fun s => deliverNotice s unit) s

end Sys2Proof.Machine
end

