-- ==== Sys2Proof/Machine/Dispatch.lean ====
section
/-! DEFINITION. The meaning of every row of spec/opcode_table.json. -/

namespace Sys2Proof.Machine

/-- The outcome of one step of the part on everything but the queue of waiting commands. -/
def exec (i : Instr) (s : State) : Host.Outcome State Fault Refusal :=
  match i with
  | .resetAssert => Sys2Proof.Machine.execResetAssert s
  | .powerOnReset straps => Sys2Proof.Machine.execPowerOnReset straps s
  | .huntSearch port octet => Sys2Proof.Machine.execHuntSearch port octet s
  | .presyncCell port cell => Sys2Proof.Machine.execPresyncCell port cell s
  | .noSignalCellTime port => Sys2Proof.Machine.execNoSignalCellTime port s
  | .badCell port cell => Sys2Proof.Machine.execBadCell port cell s
  | .idleCell port cell => Sys2Proof.Machine.execIdleCell port cell s
  | .transitCell port cell => Sys2Proof.Machine.execTransitCell port cell s
  | .discardCell port cell => Sys2Proof.Machine.execDiscardCell port cell s
  | .lineReport cell => Sys2Proof.Machine.execLineReport cell s
  | .lineOrder cell => Sys2Proof.Machine.execLineOrder cell s
  | .scanSummary cell => Sys2Proof.Machine.execScanSummary cell s
  | .auditReport cell => Sys2Proof.Machine.execAuditReport cell s
  | .orderAck cell => Sys2Proof.Machine.execOrderAck cell s
  | .sample cell => Sys2Proof.Machine.execSample cell s
  | .commandIntake cell => Sys2Proof.Machine.execCommandIntake cell s
  | .freeRunningSlot port => Sys2Proof.Machine.execFreeRunningSlot port s
  | .northInsertion => Sys2Proof.Machine.execNorthInsertion s
  | .southInsertion => Sys2Proof.Machine.execSouthInsertion s
  | .offerBacklogJoin queue => Sys2Proof.Machine.execOfferBacklogJoin queue s
  | .paceTimerExpiry => Sys2Proof.Machine.execPaceTimerExpiry s
  | .unknownCommand src tag code => Sys2Proof.Machine.execUnknownCommand src tag code s
  | .enableService src tag => Sys2Proof.Machine.execEnableService src tag s
  | .suspendService src tag => Sys2Proof.Machine.execSuspendService src tag s
  | .restart src tag => Sys2Proof.Machine.execRestart src tag s
  | .busRemove src tag bus => Sys2Proof.Machine.execBusRemove src tag bus s
  | .busRestore src tag bus => Sys2Proof.Machine.execBusRestore src tag bus s
  | .forceRelease src tag len => Sys2Proof.Machine.execForceRelease src tag len s
  | .writeLine src tag len lineType profile group flags => Sys2Proof.Machine.execWriteLine src tag len lineType profile group flags s
  | .clearLine src tag len => Sys2Proof.Machine.execClearLine src tag len s
  | .writeProfile src tag a => Sys2Proof.Machine.execWriteProfile src tag a s
  | .writeProgramStep src tag program index step => Sys2Proof.Machine.execWriteProgramStep src tag program index step s
  | .writeProgramFinal src tag program index count routine step => Sys2Proof.Machine.execWriteProgramFinal src tag program index count routine step s
  | .writeProgramClear src tag program => Sys2Proof.Machine.execWriteProgramClear src tag program s
  | .writeHead src tag head interval target mode => Sys2Proof.Machine.execWriteHead src tag head interval target mode s
  | .writeHazard src tag danger clear => Sys2Proof.Machine.execWriteHazard src tag danger clear s
  | .writePrivilege src tag unit groups => Sys2Proof.Machine.execWritePrivilege src tag unit groups s
  | .writeGroupThreshold src tag group threshold => Sys2Proof.Machine.execWriteGroupThreshold src tag group threshold s
  | .writeSchedule src tag a => Sys2Proof.Machine.execWriteSchedule src tag a s
  | .sweepStart src tag schedule => Sys2Proof.Machine.execSweepStart src tag schedule s
  | .sweepStop src tag schedule => Sys2Proof.Machine.execSweepStop src tag schedule s
  | .setTime src tag second minute hour weekday day month year => Sys2Proof.Machine.execSetTime src tag second minute hour weekday day month year s
  | .adjustTime src tag => Sys2Proof.Machine.execAdjustTime src tag s
  | .testRequest src tag len program requesterTag waitLimit => Sys2Proof.Machine.execTestRequest src tag len program requesterTag waitLimit s
  | .cancel src tag requesterTag => Sys2Proof.Machine.execCancel src tag requesterTag s
  | .ticketRead src tag id => Sys2Proof.Machine.execTicketRead src tag id s
  | .ticketList src tag place => Sys2Proof.Machine.execTicketList src tag place s
  | .ticketDispatch src tag id dispatchTag => Sys2Proof.Machine.execTicketDispatch src tag id dispatchTag s
  | .ticketClose src tag id force => Sys2Proof.Machine.execTicketClose src tag id force s
  | .cableAck src tag group => Sys2Proof.Machine.execCableAck src tag group s
  | .readLine src tag len => Sys2Proof.Machine.execReadLine src tag len s
  | .readTime src tag => Sys2Proof.Machine.execReadTime src tag s
  | .readStatus src tag => Sys2Proof.Machine.execReadStatus src tag s
  | .readBus src tag => Sys2Proof.Machine.execReadBus src tag s
  | .readHeadCounts src tag => Sys2Proof.Machine.execReadHeadCounts src tag s
  | .readQueue src tag position => Sys2Proof.Machine.execReadQueue src tag position s
  | .readSweep src tag schedule => Sys2Proof.Machine.execReadSweep src tag schedule s
  | .setNotices src tag kinds => Sys2Proof.Machine.execSetNotices src tag kinds s
  | .heartbeatTimerExpiry shelf => Sys2Proof.Machine.execHeartbeatTimerExpiry shelf s
  | .auditTimerExpiry shelf => Sys2Proof.Machine.execAuditTimerExpiry shelf s
  | .waitTimerExpiry len program => Sys2Proof.Machine.execWaitTimerExpiry len program s
  | .orderWaitListEntry => Sys2Proof.Machine.execOrderWaitListEntry s
  | .orderTimeout tag => Sys2Proof.Machine.execOrderTimeout tag s
  | .releaseRetryTimerExpiry bus => Sys2Proof.Machine.execReleaseRetryTimerExpiry bus s
  | .quarantineTimerExpiry bus => Sys2Proof.Machine.execQuarantineTimerExpiry bus s
  | .dialSessionTimerExpiry session => Sys2Proof.Machine.execDialSessionTimerExpiry session s
  | .silenceTimerExpiry bus => Sys2Proof.Machine.execSilenceTimerExpiry bus s
  | .digitTimerExpiry session => Sys2Proof.Machine.execDigitTimerExpiry session s
  | .timebaseTimerExpiry head => Sys2Proof.Machine.execTimebaseTimerExpiry head s
  | .loadTimerExpiry program => Sys2Proof.Machine.execLoadTimerExpiry program s
  | .calendarSecond => Sys2Proof.Machine.execCalendarSecond s
  | .durationTimerExpiry schedule => Sys2Proof.Machine.execDurationTimerExpiry schedule s
  | .resultDelivery => Sys2Proof.Machine.execResultDelivery s
  | .noticeDelivery unit => Sys2Proof.Machine.execNoticeDelivery unit s
  | .lineAgeSecond => Sys2Proof.Machine.execLineAgeSecond s

end Sys2Proof.Machine
end

