-- ==== Sys2Proof/Machine/Tick.lean ====
section
/-! DEFINITION. What happens without a command: the rows the part takes of itself when they are due, and one
millisecond of its 1 kHz time base. -/

namespace Sys2Proof.Machine

/-! ### Rows that are due -/

/-- Backlogs with room in their queue, which come before the next cell leaves (R15), transmit slots not yet used,
and orders and cells that have room (R12 to R14, R90, R206, R208). -/
def dueTransfers (s : State) : List Instr :=
  (if s.ports.urgentBacklog ≠ [] ∧ s.ports.urgent.length < Config.urgentCapacity then
    [.offerBacklogJoin .urgent] else []) ++
  (if s.ports.southBacklog ≠ [] ∧ s.ports.southQueue.length < Config.southCapacity then
    [.offerBacklogJoin .south] else []) ++
  (if s.ports.northSlots = 0 then [] else [.northInsertion]) ++
  (if s.ports.southSlots = 0 then [] else [.southInsertion]) ++
  (if s.engine.waiting ≠ [] ∧ s.engine.orders.length < Config.orderCapacity then [.orderWaitListEntry] else []) ++
  (if s.interp.fillingOrder ≠ [] ∧ 0 < normalRoom s then [.resultDelivery] else []) ++
  (if 0 < normalRoom s then
    (List.finRange 9).filterMap (fun (u : Fin 9) =>
      if (unitAt s u).resync ∨ (unitAt s u).pending ≠ [] then some (.noticeDelivery u) else none)
  else [])

/-- The shelf's audit timer has run down. -/
def auditDue (x : Shelf) : Bool :=
  match x.audit with
  | some a => a.timer = some 0
  | none => false

/-- The session's DIAL timer has run down. -/
def dialDue (x : Option Session) : Bool :=
  match x with
  | some y => y.dialTimer = some 0
  | none => false

/-- Timers of the shelves, buses and sessions that have run down (R25, R31, R91, R103, R106, R110, R126, R135). -/
def dueTimers (s : State) : List Instr :=
  (List.finRange 16).filterMap (fun (n : Fin 16) =>
    if (shelfAt s n).heartbeat = some 0 then some (.heartbeatTimerExpiry n) else none) ++
  (List.finRange 16).filterMap (fun (n : Fin 16) =>
     if auditDue (shelfAt s n) then some (.auditTimerExpiry n) else none) ++
  s.engine.orders.filterMap (fun o => if o.timer = some 0 then some (.orderTimeout (octet o.tag)) else none) ++
  (List.finRange 4).filterMap (fun (b : Fin 4) =>
    if ((busAt s b).retry.bind (·.timer)) = some 0 then some (.releaseRetryTimerExpiry b) else none) ++
  (List.finRange 4).filterMap (fun (b : Fin 4) =>
    if (busAt s b).quarantine = some 0 then some (.quarantineTimerExpiry b) else none) ++
  (List.finRange 8).filterMap (fun (i : Fin 8) =>
     if dialDue (sessionAt s i) then some (.dialSessionTimerExpiry i) else none) ++
  (List.finRange 4).filterMap (fun (b : Fin 4) =>
    if ((windowAt s b).bind (·.silence)) = some 0 then some (.silenceTimerExpiry b) else none) ++
  (List.finRange 8).filterMap (fun (i : Fin 8) =>
    if (collectorAt s i).timer = some 0 then some (.digitTimerExpiry i) else none)

/-- A waiting demand entry whose wait timer has run down (R81). -/
def waitRow (x : Entry) : Option Instr :=
  if h : x.line < 4096 ∧ x.program < 32 then
    if isDemand x ∧ x.waitMs = 0 then some (.waitTimerExpiry ⟨x.line, h.1⟩ ⟨x.program, h.2⟩) else none
  else none

/-- The load buffer's timer has run down. -/
def loadDue (b : Option LoadBuffer) : Bool :=
  match b with
  | some x => x.timer = 0
  | none => false

/-- The other timers that have run down (R54, R81, R140, R178, R192, R196, section 2.1). -/
def dueRest (s : State) : List Instr :=
  s.arbiter.queue.filterMap waitRow ++
  (List.finRange 4).filterMap (fun (h : Fin 4) =>
     if (checkerAt s h).timer = 0 then some (.timebaseTimerExpiry h) else none) ++
  (List.finRange 32).filterMap (fun (n : Fin 32) =>
     if loadDue (bufferAt s n) then some (.loadTimerExpiry n) else none) ++
  (List.finRange 8).filterMap (fun (n : Fin 8) =>
    if (scheduleAt s n).run.timer = some 0 then some (.durationTimerExpiry n) else none) ++
  (if s.interp.pace = .running 0 then [.paceTimerExpiry] else []) ++
  (if s.calendar.running ∧ 1000 ≤ s.calendar.prescaler then [.calendarSecond] else []) ++
  (if 1000 ≤ s.ageMs then [.lineAgeSecond] else [])

/-- The row the part takes next of itself. -/
def dueRow (s : State) : Option Instr := (dueTransfers s ++ dueTimers s ++ dueRest s).head?

/-! ### One millisecond -/

/-- A running timer has one ms less. -/
def down (t : Option Nat) : Option Nat := t.map (· - 1)

/-- Every entry of a table changed by `f`, in the table's canonical form. -/
def tabAll {α : Type} [DecidableEq α] (d : α) (n : Nat) (t : Tab α) (f : α → α) : Tab α :=
  (List.range n).foldl (fun t k => tabMod d t k f) t

/-- The timers of the shelves. -/
def tickShelf (x : Shelf) : Shelf :=
  { x with heartbeat := down x.heartbeat, audit := x.audit.map (fun a => { a with timer := down a.timer }) }

/-- The timers of a bus. -/
def tickBus (x : Bus) : Bus :=
  { x with quarantine := down x.quarantine, retry := x.retry.map (fun r => { r with timer := down r.timer }) }

def tickEngine (e : Engine) : Engine :=
  { e with
    buses := tabAll busZero 4 e.buses tickBus
    sessions := tabAll none 8 e.sessions (fun x => x.map (fun y => { y with dialTimer := down y.dialTimer }))
    orders := e.orders.map (fun o => { o with timer := down o.timer }) }

def tickMeas (m : Measurement) : Measurement :=
  { windows := tabAll none 4 m.windows (fun w => w.map (fun x => { x with silence := down x.silence }))
    collectors := tabAll collectorZero 8 m.collectors (fun c => { c with timer := down c.timer })
    checkers := tabAll checkerZero 4 m.checkers (fun c => { c with timer := c.timer - 1 }) }

def tickPace : Pace → Pace
  | .running n => .running (n - 1)
  | x => x

/-- One millisecond of the 1 kHz time base, in which nothing is due. -/
def tick (s : State) : State :=
  { s with
    tracker := { s.tracker with shelves := tabAll shelfZero 16 s.tracker.shelves tickShelf }
    tables := { s.tables with
      buffers := tabAll none 32 s.tables.buffers (fun b => b.map (fun x => { x with timer := x.timer - 1 })) }
    arbiter := { s.arbiter with
      queue := s.arbiter.queue.map (fun x => if isDemand x then { x with waitMs := x.waitMs - 1 } else x) }
    engine := tickEngine s.engine
    meas := tickMeas s.meas
    calendar := if s.calendar.running then { s.calendar with prescaler := s.calendar.prescaler + 1 } else s.calendar
    schedules := tabAll scheduleZero 8 s.schedules (fun x => { x with run := { x.run with timer := down x.run.timer } })
    interp := { s.interp with pace := tickPace s.interp.pace }
    clock := s.clock + 1
    ageMs := s.ageMs + 1 }

/-- What the part does with no command waiting: nothing under RESET; else the row that is due, or a
millisecond. -/
def idle (s : State) : Host.Outcome State Fault Refusal :=
  if s.ports.resetAsserted then .next s
  else match dueRow s with
    | some i => exec i s
    | none => .next (tick s)

end Sys2Proof.Machine
end

