-- ==== Sys2Proof/Safety.lean ====
section
/-! DEFINITION. What the claims are stated in: the laws a state of the part keeps, the conditions under which a
step does its own work, and the shapes of answers. -/

namespace Sys2Proof.Machine

/-! ### Laws of a state -/

/-- Every calendar field in its range, the day within its month (R179, R180). -/
abbrev CalendarValid (c : Calendar) : Prop :=
  c.second ≤ 59 ∧ c.minute ≤ 59 ∧ c.hour ≤ 23 ∧ c.weekday ≤ 6 ∧ 1 ≤ c.month ∧ c.month ≤ 12 ∧
    2000 ≤ c.year ∧ c.year ≤ 2099 ∧ 1 ≤ c.day ∧ c.day ≤ monthLength c.month c.year

/-- The counts of a port are within a 32-bit count, and HUNT holds fewer than sixteen octets (R2, R19). -/
abbrev PortWithin (p : Port) : Prop :=
  p.badChecks ≤ 4294967295 ∧ p.dropped ≤ 4294967295 ∧ p.huntOctets.length ≤ 15

/-- The URGENT queue, the South queue and the intake FIFO within their capacities, the ports' counts within
theirs (R15, R17, R19). -/
abbrev PortsBounded (p : Ports) : Prop :=
  p.urgent.length ≤ 16 ∧ p.southQueue.length ≤ 32 ∧ p.intake.length ≤ 16 ∧ PortWithin p.north ∧ PortWithin p.south

/-- The cells of the NORMAL queue and the places reserved in it within its 48, and every deferred list, which an answer
may have to list, within its 32 lines (R13, R190, R198). -/
abbrev NormalBounded (s : State) : Prop :=
  s.ports.normal.length + s.ports.reserved ≤ 48 ∧ ∀ n, (scheduleAt s n).run.deferredLines.length ≤ 32

/-- The lines of a shelf whose hook state is of a sort, counted in the line table. -/
def hookCount (t : Tracker) (n : Nat) (sort : Hook → Bool) : Nat :=
  t.lines.countP (fun x => lineShelf x.1 = n ∧ sort x.2.hook)

/-- RINGING, and off-hook or parked, as R24 counts them. -/
def isRinging (h : Hook) : Bool := h = .ringing
def isOff (h : Hook) : Bool := h = .offHook ∨ h = .parked

/-- Neither derived count of any shelf disagrees with the line table, which lists no line twice (R24). -/
def HookCountsAgree (t : Tracker) : Prop :=
  tabRising t.lines ∧ ∀ n : Nat,
    (tabGet shelfZero t.shelves n).ringing = hookCount t n isRinging ∧
    (tabGet shelfZero t.shelves n).offHook = hookCount t n isOff

/-- The hazard levels in their ranges, CLEAR below DANGER (R58). -/
abbrev HazardLevelsValid (t : Tables) : Prop :=
  2000 ≤ t.danger ∧ t.danger ≤ 200000 ∧ 1000 ≤ t.clear ∧ t.clear ≤ 199999 ∧ t.clear < t.danger

/-- At most 64 entries wait, of them at most 48 routine (R68). -/
abbrev QueueBounded (q : List Entry) : Prop := q.length ≤ 64 ∧ routineCount q ≤ 48

/-- Every line's block value is BLOCKED exactly while its mark is not FREE (R40). -/
abbrev BlocksMatch (s : State) : Prop := ∀ len : Nat, (lineOf s len).blocked = decide (markOf s len ≠ .free)

/-- The subject is a cable group (section 7.2). -/
def isCableSubject : Subject → Bool
  | .cableGroup _ => true
  | _ => false

/-- No two tickets hold one slot, and no two have the same subject and class (R151); the slots are 0 to 255, and a
ticket of a cable group is a CABLE_STORM one (section 7.2). -/
def TicketsDistinct (ts : List Ticket) : Prop :=
  ts.Pairwise (fun t u => t.id ≠ u.id ∧ (t.subject = u.subject → t.cls ≠ u.cls)) ∧
    ∀ t ∈ ts, t.id < 256 ∧ (isCableSubject t.subject = true → t.cls = .cableStorm)

/-- A group in STORM names its cable ticket, which is OPEN or DISPATCHED; a CALM one names none (R169, R173). -/
def StormTicketStands (s : State) : Prop :=
  ∀ g : Nat, (groupAt s g).storm = (groupAt s g).ticket.isSome ∧
    ∀ id, (groupAt s g).ticket = some id → ∃ t ∈ s.tickets.tickets,
      t.id = id ∧ t.subject = .cableGroup g ∧ (t.state = .opened ∨ t.state = .dispatched)

/-- The ticket table without doubles, every group's cable ticket standing while it is in STORM, and every group's
count the number of its members in the table (R151, R167, R169). -/
def TicketsAgree (s : State) : Prop :=
  TicketsDistinct s.tickets.tickets ∧ StormTicketStands s ∧
    ∀ g : Nat, (groupAt s g).count = s.tickets.tickets.countP (isMember s g)

/-- The slot holds a record with a recipient still to be served. -/
def isFilled : Slot → Bool
  | .filled _ rs _ => rs ≠ []
  | _ => false

/-- The waiting entries and the sessions that hold a result slot. -/
def slotHolders (s : State) (n : Nat) : Nat :=
  s.arbiter.queue.countP (fun x => x.slot = some n) +
    s.engine.sessions.countP (fun x => x.2.bind (·.slot) = some n)

/-- The result slots but for those in `loose`, which are RESERVED and held by nothing: every RESERVED slot is held by
one waiting entry or session, and no other slot by any; the filling order lists the FILLED slots, each once; no slot
above 31 is in use; every demand session holds a slot, and no routine entry or session does (R204). With it, that no
two waiting entries are of one line, program and class (R70, R72, R83), and that the session table has eight places
(R80). -/
def SlotsAgreeBut (loose : List Nat) (s : State) : Prop :=
  (tabRising s.engine.sessions ∧ ∀ id, (sessionAt s id).isSome = true → id < 8) ∧
  (∀ n : Nat, loose.count n + slotHolders s n = if slotAt s n = .reserved then 1 else 0) ∧
  (∀ n : Nat, s.interp.fillingOrder.count n = if isFilled (slotAt s n) = true then 1 else 0) ∧
  (∀ n : Nat, 32 ≤ n → slotAt s n = .free) ∧
  (s.arbiter.queue.Pairwise (fun x y => sameRequest x y = false) ∧
    ∀ x ∈ s.arbiter.queue, x.slot.isSome = true → x.cls = .demand) ∧
  (∀ id x, sessionAt s id = some x → x.slot.isSome = decide (x.cls = .demand))

/-- Every result slot is held as R204 says. -/
abbrev SlotsAgree (s : State) : Prop := SlotsAgreeBut [] s

/-! ### Conditions of a step -/

/-- RESET is not asserted, and the step before has left no work. -/
abbrev Awake (s : State) : Prop := s.ports.resetAsserted = false ∧ s.agenda = []

/-- The receiver of a port delivers cells. -/
abbrev InSync (s : State) (p : Side) : Prop := (portAt s p).delineation = .sync

/-- No unit has asked for any notice. -/
abbrev NoNotices (s : State) : Prop := s.interp.units = []

/-- No request waits. -/
abbrev NoRequests (s : State) : Prop := s.arbiter.queue = []

/-- A command of `k` answer places is accepted and its group is held (R196, R197). -/
abbrev Accepts (s : State) (src : Octet) (k : Nat) (g : CommandGroup) : Prop :=
  Awake s ∧ k ≤ normalRoom s ∧ holdsGroup s src g = true

/-- A cell that arrives on a port in SYNC with a good check, for a destination that is not the controller. -/
abbrev TransitArrives (s : State) (p : Side) (c : Cell) : Prop :=
  Awake s ∧ InSync s p ∧ goodCheck c = true ∧ c.dst ≠ own s

/-- A cell that arrives on a port in SYNC with a good check, addressed to the controller. -/
abbrev OwnArrives (s : State) (p : Side) (c : Cell) : Prop :=
  Awake s ∧ InSync s p ∧ goodCheck c = true ∧ c.dst = own s

/-! ### Shapes of next states -/

/-- The part with a RESPONSE of one code, without data or REPLY cells, at the tail of the NORMAL queue
(R198). -/
def answered (s : State) (src : Octet) (tag : Half) (code : Octet) (r : ResponseCode) : State :=
  joinNormal s [makeCell 0x52#8 (own s) src (octets2 tag.toNat ++ [code, responseCode r, 0#8])]

/-- A port has delivered a good cell: the run of bad cells is 0 (R4). -/
def runCleared (s : State) (p : Side) : State := modPort s p (fun x => { x with badRun := 0 })

/-- The catalogue's row of a command (sections 10.2 and 11.6, R198): its code,
its group, and the answer places it needs, with the source and tag it came with. A row that is no command has none, and
nor has UNKNOWN_COMMAND, which needs no group. -/
structure CommandRow where
  src : Octet
  tag : Half
  code : Octet
  group : CommandGroup
  places : Nat
  deriving DecidableEq, Repr

def commandRow : Instr → Option CommandRow
  | .enableService s t => some ⟨s, t, 1#8, .service, 1⟩
  | .suspendService s t => some ⟨s, t, 2#8, .service, 1⟩
  | .restart s t => some ⟨s, t, 3#8, .service, 1⟩
  | .busRemove s t _ => some ⟨s, t, 4#8, .service, 1⟩
  | .busRestore s t _ => some ⟨s, t, 5#8, .service, 1⟩
  | .forceRelease s t _ => some ⟨s, t, 6#8, .service, 1⟩
  | .writeLine s t _ _ _ _ _ => some ⟨s, t, 7#8, .table, 1⟩
  | .clearLine s t _ => some ⟨s, t, 8#8, .table, 1⟩
  | .writeProfile s t _ => some ⟨s, t, 9#8, .table, 1⟩
  | .writeProgramStep s t _ _ _ => some ⟨s, t, 10#8, .table, 1⟩
  | .writeProgramFinal s t _ _ _ _ _ => some ⟨s, t, 10#8, .table, 1⟩
  | .writeProgramClear s t _ => some ⟨s, t, 10#8, .table, 1⟩
  | .writeHead s t _ _ _ _ => some ⟨s, t, 11#8, .table, 1⟩
  | .writeHazard s t _ _ => some ⟨s, t, 12#8, .table, 1⟩
  | .writePrivilege s t _ _ => some ⟨s, t, 13#8, .table, 1⟩
  | .writeGroupThreshold s t _ _ => some ⟨s, t, 14#8, .table, 1⟩
  | .writeSchedule s t _ => some ⟨s, t, 15#8, .schedule, 1⟩
  | .sweepStart s t _ => some ⟨s, t, 16#8, .schedule, 1⟩
  | .sweepStop s t _ => some ⟨s, t, 17#8, .schedule, 1⟩
  | .setTime s t _ _ _ _ _ _ _ => some ⟨s, t, 18#8, .schedule, 1⟩
  | .adjustTime s t => some ⟨s, t, 19#8, .schedule, 1⟩
  | .testRequest s t _ _ _ _ => some ⟨s, t, 20#8, .test, 1⟩
  | .cancel s t _ => some ⟨s, t, 21#8, .test, 1⟩
  | .ticketRead s t _ => some ⟨s, t, 22#8, .ticket, 4⟩
  | .ticketList s t _ => some ⟨s, t, 23#8, .ticket, 11⟩
  | .ticketDispatch s t _ _ => some ⟨s, t, 24#8, .ticket, 1⟩
  | .ticketClose s t _ _ => some ⟨s, t, 25#8, .ticket, 1⟩
  | .cableAck s t _ => some ⟨s, t, 26#8, .ticket, 1⟩
  | .readLine s t _ => some ⟨s, t, 27#8, .query, 2⟩
  | .readTime s t => some ⟨s, t, 28#8, .query, 2⟩
  | .readStatus s t => some ⟨s, t, 29#8, .query, 3⟩
  | .readBus s t => some ⟨s, t, 30#8, .query, 5⟩
  | .readHeadCounts s t => some ⟨s, t, 31#8, .query, 5⟩
  | .readQueue s t _ => some ⟨s, t, 32#8, .query, 9⟩
  | .readSweep s t _ => some ⟨s, t, 33#8, .query, 13⟩
  | .setNotices s t _ => some ⟨s, t, 34#8, .query, 1⟩
  | _ => none

end Sys2Proof.Machine
end

