-- ==== Sys2Proof/Certificates/Slice0/Obligations.lean ====
section
/-! DEFINITION. The statements about the line test controller for the provers. `exec` is what a command or event
does, `step` what one step of the part does; the laws and conditions they are stated in are those of Safety.lean.
`Awake s`: RESET is not asserted and no work is left over. `NoRequests s`: the request queue is empty, so that an
examination event (R73) changes nothing. `NoNotices s`: no unit has asked for notices. -/

open Sys2Proof Sys2Proof.Machine

/-! ### The part as a whole -/

/-- A step takes the command at the front of the queue and is its effect, the rest of the queue kept. -/
def Obligations.StepTakesFrontCommand : Prop :=
  ∀ (s : State) (i : Instr) (rest : List Instr), s.pending = i :: rest →
    step s = exec i { s with pending := rest }

/-- With no command waiting: nothing while RESET is asserted; else the first row that is due; else one
millisecond, in which every timer that runs counts down by one and the prescaler of a running calendar counts up by
one, and nothing else changes. The model's own choice (notes/assumptions/1.md, 2.md, 36.md): the table has no row for
the time base. -/
def Obligations.StepWithoutCommand : Prop :=
  ∀ s : State, s.pending = [] →
    (s.ports.resetAsserted = true → step s = .next s) ∧
    (s.ports.resetAsserted = false → ∀ i, dueRow s = some i → step s = exec i s) ∧
    (s.ports.resetAsserted = false → dueRow s = none →
      let less := fun (x : Option Nat) => x.map (· - 1)
      ∃ t, step s = .next t ∧
        (∀ n, n < 16 → shelfAt t n = { shelfAt s n with
          heartbeat := less (shelfAt s n).heartbeat
          audit := (shelfAt s n).audit.map (fun a => { a with timer := less a.timer }) }) ∧
        (∀ b, b < 4 → busAt t b = { busAt s b with
            quarantine := less (busAt s b).quarantine
            retry := (busAt s b).retry.map (fun r => { r with timer := less r.timer }) } ∧
          windowAt t b = (windowAt s b).map (fun w => { w with silence := less w.silence }) ∧
          checkerAt t b = { checkerAt s b with timer := (checkerAt s b).timer - 1 }) ∧
        (∀ i, i < 8 →
          sessionAt t i = (sessionAt s i).map (fun x => { x with dialTimer := less x.dialTimer }) ∧
          collectorAt t i = { collectorAt s i with timer := less (collectorAt s i).timer } ∧
          scheduleAt t i = { scheduleAt s i with run := { (scheduleAt s i).run with
            timer := less (scheduleAt s i).run.timer } }) ∧
        (∀ n, n < 32 → bufferAt t n = (bufferAt s n).map (fun x => { x with timer := x.timer - 1 })) ∧
        t = { s with
          tracker := { s.tracker with shelves := t.tracker.shelves }
          tables := { s.tables with buffers := t.tables.buffers }
          arbiter := { s.arbiter with queue := s.arbiter.queue.map (fun x =>
            if x.cls = .demand then { x with waitMs := x.waitMs - 1 } else x) }
          engine := { s.engine with
            buses := t.engine.buses, sessions := t.engine.sessions
            orders := s.engine.orders.map (fun o => { o with timer := less o.timer }) }
          meas := t.meas
          calendar := { s.calendar with
            prescaler := if s.calendar.running then s.calendar.prescaler + 1 else s.calendar.prescaler }
          schedules := t.schedules
          interp := { s.interp with
            pace := match s.interp.pace with
              | .running n => .running (n - 1)
              | x => x }
          clock := s.clock + 1
          ageMs := s.ageMs + 1 })

/-- Every law of a state holds of the state after reset, those of block values, tickets, cable groups and result slots
among them (R40, R151, R167, R204). That state is the model's reading of the release of RESET
(notes/assumptions/3.md), and the date and time it holds while the calendar is NOT_SET are the model's choice
(notes/assumptions/4.md): R179 states the ranges for a time that has been set. -/
def Obligations.ResetMeetsLaws : Prop :=
  CalendarValid State.reset.calendar ∧ PortsBounded State.reset.ports ∧ NormalBounded State.reset ∧
    HookCountsAgree State.reset.tracker ∧
  HazardLevelsValid State.reset.tables ∧ QueueBounded State.reset.arbiter.queue ∧ BlocksMatch State.reset ∧
  TicketsAgree State.reset ∧ SlotsAgree State.reset ∧ Awake State.reset

/-- A step that starts from a valid date and time ends with one (R179). The release of RESET is among the steps, and
the date and time it leaves, the calendar being NOT_SET, are the model's choice (notes/assumptions/4.md). -/
def Obligations.StepKeepsCalendarValid : Prop :=
  ∀ s t : State, CalendarValid s.calendar → step s = .next t → CalendarValid t.calendar

/-- While every waiting command is well-formed, which a step keeps, a step keeps the URGENT queue, the South queue and
the intake FIFO within their capacities, each port's counts within 32 bits (R15, R17, R19), and the octets that each
receiver in HUNT holds, those since the last position passed over, below sixteen (R2). It keeps the cells of the NORMAL
queue with the places reserved in it within 48 (R13, R198), every schedule's deferred list being kept within its 32
lines with them, since READ_SWEEP's answer lists them (R190). -/
def Obligations.StepKeepsPortsBounded : Prop :=
  ∀ s t : State, step s = .next t →
    ((∀ i ∈ s.pending, wellFormed i = true) →
      (∀ i ∈ t.pending, wellFormed i = true) ∧ (PortsBounded s.ports → PortsBounded t.ports)) ∧
    (NormalBounded s → NormalBounded t)

/-- A step keeps both derived counts of every shelf equal to what its lines' hook states give (R24), and every line's
block value BLOCKED exactly while its mark is not FREE (R40). -/
def Obligations.StepKeepsHookCounts : Prop :=
  ∀ s t : State, step s = .next t →
    (HookCountsAgree s.tracker → HookCountsAgree t.tracker) ∧ (BlocksMatch s → BlocksMatch t)

/-- A step keeps the hazard levels in their ranges with CLEAR below DANGER (R58). It keeps the ticket table without two
tickets of one slot, or of one subject and class (R151), every group in STORM with its own cable ticket OPEN or
DISPATCHED and every CALM group with none (R169, R173), and every group's count the number of its members in the table
(R167). -/
def Obligations.StepKeepsHazardLevels : Prop :=
  ∀ s t : State, step s = .next t →
    (HazardLevelsValid s.tables → HazardLevelsValid t.tables) ∧ (TicketsAgree s → TicketsAgree t)

/-- A step keeps the request queue at no more than 64 entries, no more than 48 of them routine (R68). It keeps the
result slots in order: each RESERVED one held by one waiting demand entry or demand session, and no other slot by any;
every demand session holding one and nothing routine any; the FILLED ones each once in the filling order; none above 31
in use (R204). With them go that no two waiting entries are of one line, program and class, and the eight places of the
session table (R70, R72, R80, R83). -/
def Obligations.StepKeepsQueueBounded : Prop :=
  ∀ s t : State, step s = .next t →
    (QueueBounded s.arbiter.queue → QueueBounded t.arbiter.queue) ∧ (SlotsAgree s → SlotsAgree t)

/-- Only the release of RESET changes the controller's address (R6). -/
def Obligations.AddressKeptButAtReset : Prop :=
  ∀ s t : State, step s = .next t → (∀ straps rest, s.pending ≠ .powerOnReset straps :: rest) →
    own t = own s

/-! ### Reset and the bypass (R20) -/

/-- While RESET is asserted every command or event but the release of RESET leaves everything as it is but what
the two transmit pairs carry (R20). -/
def Obligations.BypassChangesOnlyTransmitPairs : Prop :=
  ∀ (i : Instr) (s : State), s.ports.resetAsserted = true → (∀ straps, i ≠ .powerOnReset straps) →
    ∃ north south : Transmit,
      exec i s = .next { s with ports := { s.ports with northTx := north, southTx := south } }

/-- While RESET is asserted a good cell, a bad cell or an octet received on Port S is repeated, octet for octet, on
Port N, and one received on Port N on Port S, whatever it is; nothing else changes (R20). What shows on a pair is the
model's form of it (notes/assumptions/33.md). -/
def Obligations.BypassRepeatsOctets : Prop :=
  ∀ (s : State) (c : Cell) (o : Octet), s.ports.resetAsserted = true →
    (∀ i ∈ [Instr.badCell .south c, .idleCell .south c, .transitCell .south c, .discardCell .south c, .lineReport c,
        .scanSummary c, .auditReport c, .orderAck c, .sample c, .presyncCell .south (some c)],
      exec i s = .next { s with ports := { s.ports with northTx := .repeated (cellOctets c) } }) ∧
    (∀ i ∈ [Instr.badCell .north c, .idleCell .north c, .transitCell .north c, .discardCell .north c, .lineOrder c,
        .commandIntake c, .presyncCell .north (some c)],
      exec i s = .next { s with ports := { s.ports with southTx := .repeated (cellOctets c) } }) ∧
    exec (.huntSearch .south o) s = .next { s with ports := { s.ports with northTx := .repeated [o] } } ∧
    exec (.huntSearch .north o) s = .next { s with ports := { s.ports with southTx := .repeated [o] } }

/-- The assertion of RESET begins the bypass and cuts short a cell being transmitted on either side; nothing else
changes (R20). That each pair's last cell is the one in progress is the model's choice (notes/assumptions/33.md). -/
def Obligations.ResetAssertBeginsBypass : Prop :=
  ∀ (s : State) (n m : Cell), s.ports.resetAsserted = false → s.ports.northTx = .cell n → s.ports.southTx = .cell m →
    exec .resetAssert s =
      .next { s with ports := { s.ports with resetAsserted := true, northTx := .cut n, southTx := .cut m } }

/-- The release of RESET samples the straps and puts every block in its power-on state: the values the tables of
sections 1.9, 2.1, 2.2, 3.9, 4.10, 5.1, 5.11, 6.8, 7.7, 8.1, 9.7 and 10.6 give, every schedule with the run of R195. The
start-up release has begun: its sixteen RELEASE ALL orders stand in the South queue, in shelf order, and in the
outstanding order table with the tags 0 to 15, their 40 ms running, so that the tag issue's candidate 0x00 of R116 has
become 16 and each shelf's latest RELEASE ALL time is now (R90, R114, R115; notes/assumptions/3.md). The fields of the
calendar that is NOT_SET, and the model's own counters, hold the values of notes/assumptions/4.md. What the transmit
pairs show, that the commands that wait stay waiting, and that the row acts also when RESET was not asserted, is the
model's choice (notes/assumptions/33.md). -/
def Obligations.PowerOnResetValues : Prop :=
  ∀ (straps : BitVec 2) (s : State), ∃ t, exec (.powerOnReset straps) s = .next t ∧
    t.pending = s.pending ∧ t.agenda = [] ∧ t.clock = 0 ∧ t.ageMs = 0 ∧
    t.ports.straps = straps ∧ own t = 0x40#8 + straps.setWidth 8 ∧ t.ports.resetAsserted = false ∧
    (let shown := fun (x : Transmit) => match x with | .repeated os => Transmit.cutRepeat os | y => y
     t.ports.northTx = shown s.ports.northTx ∧ t.ports.southTx = shown s.ports.southTx ∧
       t.ports.northSlots = 0 ∧ t.ports.southSlots = 0) ∧
    (∀ p, portAt t p = { delineation := .hunt, confirmed := 0, badRun := 0, huntOctets := [], checkError := false
                         delineationLost := false, intakeOverrun := false, badChecks := 0, dropped := 0 }) ∧
    t.ports.urgent = [] ∧ t.ports.urgentBacklog = [] ∧ t.ports.normal = [] ∧ t.ports.reserved = 0 ∧
    t.ports.southBacklog = [] ∧ t.ports.intake = [] ∧
    t.ports.southQueue = (List.range 16).map (fun n =>
      makeCell 0x21#8 (own t) (BitVec.ofNat 8 (0x10 + n)) [BitVec.ofNat 8 n, 5#8]) ∧
    (∀ n, lineOf t n = { hook := .unknown, lastForwarded := .unknown, writtenAt := 0, cutOff := false
                         blocked := false } ∧
      lineAge t n = 0 ∧ directoryAt t n = none ∧ markOf t n = .free ∧ holdOf t n = false) ∧
    (∀ n, shelfAt t n = { freshness := .stale, ringing := 0, offHook := 0, mismatch := false, heartbeat := none
                          audit := none, auditRetries := 0, released := false } ∧ riserAt t n = .free) ∧
    (∀ n, headAt t n = { interval := 250, target := 0xFF#8, mode := .hourly } ∧
      programAt t n = { steps := [], routineAllowed := false } ∧ bufferAt t n = none ∧ thresholdAt t n = 0) ∧
    t.tables.danger = 60000 ∧ t.tables.clear = 30000 ∧ t.tables.privileges = [] ∧
    profileAt t 0 = { loaded := true, ground := 150000, short := 20000, insulation := 2000000, foreignDc := 5000
                      foreignAc := 10000, capTipRing := 52000, capLegGround := 70000, minLength := 30, speedMin := 80
                      speedMax := 120, ratioMin := 58, ratioMax := 70 } ∧
    (∀ n, n ≠ 0 → profileAt t n = { loaded := false, ground := 0, short := 0, insulation := 0, foreignDc := 0
                                    foreignAc := 0, capTipRing := 0, capLegGround := 0, minLength := 0, speedMin := 0
                                    speedMax := 0, ratioMin := 0, ratioMax := 0 }) ∧
    t.arbiter.service = .starting ∧ t.arbiter.returnTo = .unconfigured ∧ t.arbiter.queue = [] ∧
    t.arbiter.admissions = 0 ∧ t.tracker.ageClock = 0 ∧
    (∀ b, busAt t b = { state := .free, removePending := false, holder := .none, quarantine := none, retry := none
                        nextTag := 0 } ∧ sessionAt t b = none ∧ windowAt t b = none) ∧
    t.engine.waiting = [] ∧ t.engine.orders = (List.range 16).map (fun n => {
      tag := n, order := { kind := .releaseAll, shelf := n, bus := 0, line := 0, owner := .startUp n }
      timer := some 40 }) ∧
    t.engine.candidate = 16 ∧ t.engine.startUp = List.range 16 ∧
    (∀ n, tabGet none t.engine.releaseAllAt n = if n ≤ 15 then some t.clock else none) ∧
    (∀ h, checkerAt t h = { running := 0, latched := 0, timer := 3600000, exceeded := false, degraded := false } ∧
      collectorAt t h = { phase := .closed, limit := 1, loopOpen := false, pending := none, closedSince := none
                          breaks := 0, firstStart := 0, latestStart := 0, latestLength := 0, earlierSum := 0
                          digits := [], timer := none }) ∧
    t.tickets.tickets = [] ∧ (∀ g, groupAt t g = { storm := false, count := 0, ticket := none }) ∧
    t.calendar = { running := false, prescaler := 0, second := 0, minute := 0, hour := 0, weekday := 0, day := 1
                   month := 1, year := 2000 } ∧
    (∀ n, scheduleAt t n = { config := none, run := {
        state := .idle, cursor := none, outstanding := [], deferredLines := [], timer := none
        tested := 0, failed := 0, skipped := 0, stormSkipped := 0, deferred := 0 } } ∧ slotAt t n = .free ∧
      unitAt t n = { mask := [], pending := [], resync := false }) ∧
    t.interp.pace = .stopped ∧ t.interp.assemblies = [] ∧ t.interp.fillingOrder = []

/-! ### Receivers (R2 to R5, R8) -/

/-- In HUNT an octet is kept while fewer than fifteen are held before it; the sixteenth makes a cell that a good
check takes for the boundary, entering PRESYNC with no cell confirmed, and that a bad check passes over by one
octet. Nothing else changes: nothing is counted, flagged, forwarded, consumed or read. Without signal the receiver
stays in HUNT (R2). -/
def Obligations.HuntTakesOctet : Prop :=
  ∀ (s : State) (p : Side) (o : Octet), Awake s → (portAt s p).delineation = .hunt →
    ((portAt s p).huntOctets.length < 15 →
      exec (.huntSearch p o) s =
        .next (modPort s p (fun x => { x with huntOctets := x.huntOctets ++ [o] }))) ∧
    (∀ c : Cell, c.payload.length = 12 → (portAt s p).huntOctets ++ [o] = cellOctets c →
      exec (.huntSearch p o) s = .next (modPort s p (fun x =>
        if crc ((cellOctets c).take 15) = c.check then
          { x with delineation := .presync, confirmed := 0, huntOctets := [] }
        else { x with huntOctets := (cellOctets c).drop 1 }))) ∧
    (∃ os : List Octet, exec (.noSignalCellTime p) s = .next (modPort s p (fun x => { x with huntOctets := os })))

/-- In PRESYNC a good cell adds one to the confirmed count, the fourth entering SYNC with the bad run at 0; a bad cell
or no signal goes back to HUNT, the search resuming behind the failed cell's first octet. No cell is delivered,
counted or flagged (R3). Which octets go back to the search, none after no signal, is the model's choice
(notes/assumptions/32.md). -/
def Obligations.PresyncConfirmsCells : Prop :=
  ∀ (s : State) (p : Side) (c : Cell), Awake s → (portAt s p).delineation = .presync → (portAt s p).confirmed ≤ 3 →
    (goodCheck c = true → (portAt s p).confirmed < 3 →
      exec (.presyncCell p (some c)) s = .next (modPort s p (fun x => { x with confirmed := x.confirmed + 1 }))) ∧
    (goodCheck c = true → (portAt s p).confirmed = 3 →
      exec (.presyncCell p (some c)) s =
        .next (modPort s p (fun x => { x with delineation := .sync, confirmed := 4, badRun := 0 }))) ∧
    (goodCheck c = false →
      exec (.presyncCell p (some c)) s =
        .next (modPort s p (fun x => { x with delineation := .hunt, huntOctets := (cellOctets c).drop 1 }))) ∧
    exec (.presyncCell p none) s =
      .next (modPort s p (fun x => { x with delineation := .hunt, huntOctets := [] }))

/-- A cell time without signal in SYNC gives the opposite transmitter an insertion opportunity and adds one to the run
of bad cells; at 5 the receiver is in HUNT with DELINEATION_LOST set. Neither CHECK_ERROR nor the bad-check count
moves (R4, R12). The slot count and the emptied search are the model's (notes/assumptions/2.md, 32.md). -/
def Obligations.NoSignalLengthensRun : Prop :=
  ∀ (s : State) (p : Side), Awake s → InSync s p →
    exec (.noSignalCellTime p) s = .next (modPort (giveSlot s (opposite p)) p (fun x =>
      if x.badRun < 4 then { x with badRun := x.badRun + 1 }
      else { x with badRun := x.badRun + 1, delineation := .hunt, delineationLost := true, huntOctets := [] }))

/-- In HUNT and PRESYNC nothing arrives: a cell of any kind is neither forwarded, consumed nor read (R5). -/
def Obligations.NothingArrivesOutOfSync : Prop :=
  ∀ (s : State) (c : Cell), Awake s →
    (¬ InSync s .south → ∀ i ∈ [Instr.badCell .south c, .idleCell .south c, .transitCell .south c,
        .discardCell .south c, .lineReport c, .scanSummary c, .auditReport c, .orderAck c, .sample c],
      exec i s = .next s) ∧
    (¬ InSync s .north → ∀ i ∈ [Instr.badCell .north c, .idleCell .north c, .transitCell .north c,
        .discardCell .north c, .lineOrder c, .commandIntake c],
      exec i s = .next s)

/-- A bad cell in SYNC sets CHECK_ERROR and adds one to the bad-check count, which stops at 4,294,967,295; addressed
to the controller it is dropped and its slot is an insertion opportunity, otherwise it is forwarded unchanged,
whatever its kind; then it adds one to the run, the fifth in a row leaving SYNC (R4, R8, R19). The slot count and the
emptied search are the model's (notes/assumptions/2.md, 32.md). -/
def Obligations.BadCellForwardedAndCounted : Prop :=
  ∀ (s : State) (p : Side) (c : Cell), Awake s → InSync s p → goodCheck c = false →
    exec (.badCell p c) s = .next (modPort
      (if c.dst = own s then giveSlot s (opposite p) else transmit s (opposite p) (.cell c)) p (fun x =>
        if x.badRun < 4 then
          { x with checkError := true, badChecks := min (x.badChecks + 1) 4294967295, badRun := x.badRun + 1 }
        else
          { x with
            checkError := true, badChecks := min (x.badChecks + 1) 4294967295, badRun := x.badRun + 1
            delineation := .hunt, delineationLost := true, huntOctets := [] }))

/-! ### Dispositions that no block reads (R7, R12) -/

/-- A good IDLE cell is an insertion opportunity; a good transit cell of a kind that is not read is sent by the
opposite transmitter unchanged; each sets the bad run to 0 and changes nothing else (R4, R12). The slot count is the
model's (notes/assumptions/2.md). -/
def Obligations.IdleAndTransitCells : Prop :=
  ∀ (s : State) (p : Side) (c : Cell), Awake s → InSync s p → goodCheck c = true →
    (c.kind = 0x00#8 → exec (.idleCell p c) s = .next (giveSlot (runCleared s p) (opposite p))) ∧
    (c.kind ≠ 0x00#8 → c.dst ≠ own s →
      (p = .north ∧ c.kind ≠ 0x12#8) ∨ (p = .south ∧ c.kind ≠ 0x11#8 ∧ c.kind ≠ 0x13#8) →
      exec (.transitCell p c) s = .next (transmit (runCleared s p) (opposite p) (.cell c)))

/-- A good cell addressed to the controller that no block takes is discarded, its slot an insertion opportunity; a
COMMAND from Port S is dropped so and counted in Port S's dropped-command count (R7). The slot count is the model's
(notes/assumptions/2.md). -/
def Obligations.DiscardedCells : Prop :=
  ∀ (s : State) (p : Side) (c : Cell), OwnArrives s p c → c.kind ≠ 0x00#8 →
    (p = .north → c.kind ≠ 0x51#8 → exec (.discardCell p c) s = .next (giveSlot (runCleared s p) .south)) ∧
    (p = .south → c.kind ∉ [0x51#8, 0x32#8, 0x22#8, 0x24#8] →
      exec (.discardCell p c) s = .next (giveSlot (runCleared s p) .north)) ∧
    (p = .south → c.kind = 0x51#8 →
      exec (.discardCell p c) s = .next (modPort (giveSlot (runCleared s p) .north) .south (fun x =>
        { x with dropped := min (x.dropped + 1) 4294967295 })))

/-- A COMMAND from Port N joins the intake FIFO's tail while fewer than 16 are held, starting a stopped pace timer at
1 ms; with 16 held it is dropped, INTAKE_OVERRUN set and the dropped-command count raised. While the interpreter waits
with the FIFO empty, the COMMAND is taken as it joins: its effect is that of the pace timer running out over it, the
timer restarted at 1 ms (R7, R17, R196). The slot count is the model's (notes/assumptions/2.md). -/
def Obligations.CommandIntake : Prop :=
  ∀ (s : State) (c : Cell), OwnArrives s .north c → c.kind = 0x51#8 →
    (s.ports.intake.length < 16 → s.interp.pace ≠ .waiting →
      exec (.commandIntake c) s = .next (onInterp
        (onPorts (giveSlot (runCleared s .north) .south) (fun p => { p with intake := p.intake ++ [c] }))
        (fun i => { i with pace := if i.pace = .stopped then .running 1 else i.pace }))) ∧
    (s.ports.intake = [] → s.interp.pace = .waiting → ∀ ms,
      exec (.commandIntake c) s = exec .paceTimerExpiry (onInterp
        (onPorts (giveSlot (runCleared s .north) .south) (fun p => { p with intake := [c] }))
        (fun i => { i with pace := .running ms }))) ∧
    (16 ≤ s.ports.intake.length →
      exec (.commandIntake c) s = .next (modPort (giveSlot (runCleared s .north) .south) .north (fun x =>
        { x with intakeOverrun := true, dropped := min (x.dropped + 1) 4294967295 })))

/-! ### Transmitters and insertion queues (R11, R13 to R15) -/

/-- An insertion opportunity on Port N sends the oldest NORMAL cell when no URGENT cell waits, raising the room by
one, and an IDLE cell when neither waits; on Port S the oldest South cell, or an IDLE cell. Nothing else changes (R13,
R14). A transmitter's free-running slot is an insertion opportunity while its opposite receiver is out of SYNC (R11,
R12). The slot counts are the model's (notes/assumptions/2.md). -/
def Obligations.InsertionSendsOldest : Prop :=
  ∀ (s : State) (c : Cell) (rest : List Cell), Awake s →
    (∀ p : Side, (¬ InSync s (opposite p) → exec (.freeRunningSlot p) s = .next (giveSlot s p)) ∧
      (InSync s (opposite p) → exec (.freeRunningSlot p) s = .next s)) ∧
    (0 < s.ports.northSlots → s.ports.urgent = [] → s.ports.normal = c :: rest →
      exec .northInsertion s = .next { s with ports := { s.ports with
        northSlots := s.ports.northSlots - 1, normal := rest, northTx := .cell c } }) ∧
    (0 < s.ports.northSlots → s.ports.urgent = [] → s.ports.normal = [] →
      exec .northInsertion s = .next { s with ports := { s.ports with
        northSlots := s.ports.northSlots - 1, northTx := .cell idleCell } }) ∧
    (0 < s.ports.southSlots → s.ports.southQueue = c :: rest →
      exec .southInsertion s = .next { s with ports := { s.ports with
        southSlots := s.ports.southSlots - 1, southQueue := rest, southTx := .cell c } }) ∧
    (0 < s.ports.southSlots → s.ports.southQueue = [] →
      exec .southInsertion s = .next { s with ports := { s.ports with
        southSlots := s.ports.southSlots - 1, southTx := .cell idleCell } })

/-- An URGENT cell is sent before any NORMAL cell: an UNBLOCKED report changes nothing else, and a LINE REPORT sets
its line's last forwarded value to its hook meaning, as R22 gives it, when it leaves (R13, R22, R41). With a BLOCKED
report that leaves for the line of a DIAL session in RESERVED the mark becomes IN_SESSION and the session's collector
is opened with the step's digit limit, no digit and no break: WAITING and AWAIT_OFF_HOOK where the line is IDLE, else
ACTIVE, CLOSED with no closed-since, and COLLECTING (R109, R133). Any other BLOCKED report changes nothing else. The
slot count is the model's (notes/assumptions/2.md). -/
def Obligations.UrgentSentFirst : Prop :=
  ∀ (s : State) (c : Cell) (rest : List Cell), Awake s → 0 < s.ports.northSlots → s.ports.urgent = c :: rest →
    let sent : State := { s with ports := { s.ports with
      northSlots := s.ports.northSlots - 1, urgent := rest, northTx := .cell c } }
    (c.kind = 0x41#8 → payloadAt c 2 = 2#8 → exec .northInsertion s = .next sent) ∧
    (c.kind = 0x41#8 → payloadAt c 2 = 1#8 →
      let len := (field2 c 0).toNat
      ((∀ id x, sessionOnLine s len = some (id, x) → x.bus.isSome = true ∨ x.state ≠ .reserved) →
        exec .northInsertion s = .next sent) ∧
      (∀ id x n, sessionOnLine s len = some (id, x) → x.bus = none → x.state = .reserved → markOf s len ≠ .free →
        (programAt s x.program).steps = [.dial n] →
        let waits : Prop := (lineOf s len).hook = .idle
        ∃ t, exec .northInsertion s = .next t ∧
          (waits → sessionAt t id = some { x with state := .awaitOffHook }) ∧
          (¬ waits → sessionAt t id = some { x with state := .collecting }) ∧
          (∀ k, k ≠ id → sessionAt t k = sessionAt s k ∧ collectorAt t k = collectorAt s k) ∧
          (collectorAt t id).phase = (if (lineOf s len).hook = .idle then .waiting else .active) ∧
          collectorAt t id = {
            phase := (collectorAt t id).phase, limit := n, loopOpen := false, pending := none, closedSince := none
            breaks := 0, firstStart := 0, latestStart := 0, latestLength := 0, earlierSum := 0, digits := []
            timer := none } ∧
          markOf t len = .inSession ∧ lineOf t len = { lineOf s len with blocked := true } ∧
          (∀ k, k ≠ len → markOf t k = markOf s k ∧ lineOf t k = lineOf s k) ∧
          t = { sent with
            tracker := { s.tracker with lines := t.tracker.lines }
            arbiter := { s.arbiter with marks := t.arbiter.marks }
            engine := { s.engine with sessions := t.engine.sessions }
            meas := { s.meas with collectors := t.meas.collectors } })) ∧
    (∀ (code : Octet) (h : Hook), (code, h) ∈ [(1#8, Hook.offHook), (2#8, .idle), (5#8, .parked), (6#8, .offHook)] →
      c.kind = 0x11#8 → payloadAt c 2 = code →
      exec .northInsertion s =
        .next (modLine sent (field2 c 0).toNat (fun l => { l with lastForwarded := h })))

/-- The oldest cell of an offer backlog joins its queue's tail when the queue holds fewer cells than its capacity, 16
for URGENT and 32 for South, and stays where it is otherwise (R15). With the joining of an order of the part's own its
timer starts: 40 ms for a relay order, which for a RELEASE ALL is also the time R115 keeps; 1,000 ms for an audit
attempt; the silence limit for a HEAD START's window (R14, R28, R90, R126). The ACCESS OPERATE of a session cuts its
line off as it joins, whatever the line's hook state is by now: the line's mark is IN_SESSION and the session CONNECTING
(R93, section 2.3). Of the orders given up before then an ACCESS OPERATE whose line's ACCESS RELEASE is to come cuts the
line off as well (R37), and any other joins without effect. Nothing else changes. That joining is a step of its own, and
that the hook state is not read again in it, are deduced; what a given-up order does, and the silence limit in whole ms,
are the model's choice (notes/assumptions/14.md, 16.md, 36.md). -/
def Obligations.BacklogJoins : Prop :=
  ∀ (s : State) (c : Cell) (rest : List Cell), Awake s →
    (s.ports.urgentBacklog = c :: rest → s.ports.urgent.length < 16 →
      exec (.offerBacklogJoin .urgent) s = .next { s with ports := { s.ports with
        urgent := s.ports.urgent ++ [c], urgentBacklog := rest } }) ∧
    (16 ≤ s.ports.urgent.length → exec (.offerBacklogJoin .urgent) s = .next s) ∧
    (s.ports.southBacklog = c :: rest → s.ports.southQueue.length < 32 → c.kind = 0x12#8 →
      exec (.offerBacklogJoin .south) s = .next { s with ports := { s.ports with
        southQueue := s.ports.southQueue ++ [c], southBacklog := rest } }) ∧
    (32 ≤ s.ports.southQueue.length → exec (.offerBacklogJoin .south) s = .next s) ∧
    (s.ports.southBacklog = c :: rest → s.ports.southQueue.length < 32 →
      let joined : State := { s with ports := { s.ports with
        southQueue := s.ports.southQueue ++ [c], southBacklog := rest } }
      (∀ before o after, s.engine.orders = before ++ o :: after → o.tag < 256 → o.timer = none →
        (∀ x ∈ before ++ after, x.tag ≠ o.tag ∧ x.tag < 256) →
        c = relayOrderCell (own s) o.tag o.order →
        let timed : State := { joined with engine := { s.engine with
          orders := before ++ { o with timer := some 40 } :: after } }
        (o.order.kind ∈ [.riserOperate, .accessRelease, .riserRelease] →
          exec (.offerBacklogJoin .south) s = .next timed) ∧
        (o.order.kind = .releaseAll → ∃ t, exec (.offerBacklogJoin .south) s = .next t ∧
          tabGet none t.engine.releaseAllAt o.order.shelf = some s.clock ∧
          t = { timed with engine := { timed.engine with releaseAllAt := t.engine.releaseAllAt } }) ∧
        (∀ id x, o.order.kind = .accessOperate → o.order.owner = .session id → sessionAt s id = some x →
          x.line = o.order.line →
          ∃ t, exec (.offerBacklogJoin .south) s = .next t ∧ sessionAt t id = some { x with state := .connecting } ∧
            lineOf t x.line = { lineOf s x.line with cutOff := true, blocked := true } ∧
            markOf t x.line = .inSession ∧
            (∀ k, k ≠ x.line → lineOf t k = lineOf s k ∧ markOf t k = markOf s k) ∧
            (∀ k, k ≠ id → sessionAt t k = sessionAt s k) ∧
            t = { timed with
              tracker := { s.tracker with lines := t.tracker.lines }
              arbiter := { s.arbiter with marks := t.arbiter.marks }
              engine := { timed.engine with sessions := t.engine.sessions } })) ∧
      (∀ tag o, tag < 256 → o.line ≤ 4095 → c = relayOrderCell (own s) tag o → (∀ x ∈ s.engine.orders, x.tag ≠ tag) →
        let toCome := (∃ y ∈ s.engine.orders, y.order.kind = .accessRelease ∧ y.order.line = o.line) ∨
          ∃ y ∈ s.engine.waiting, y.kind = .accessRelease ∧ y.line = o.line
        (o.kind = .accessOperate → toCome → exec (.offerBacklogJoin .south) s =
          .next (modLine joined o.line (fun l => { l with cutOff := true }))) ∧
        (o.kind ≠ .accessOperate ∨ ¬ toCome → exec (.offerBacklogJoin .south) s = .next joined)) ∧
      (∀ n a, n ≤ 15 → (shelfAt s n).audit = some a → a.timer = none → a.tag < 256 →
        c = auditOrderCell (own s) n a.tag →
        exec (.offerBacklogJoin .south) s =
          .next (modShelf joined n (fun x => { x with audit := some { a with timer := some 1000 } }))) ∧
      (∀ b w leg v, b ≤ 3 → windowAt s b = some w → w.tag < 256 →
        c = headStartCell (own s) b w.tag leg v w.sized w.interval →
        exec (.offerBacklogJoin .south) s =
          .next (putWindow joined b (some { w with silence := some ((8 * w.interval + 5000 + 999) / 1000) }))))

/-! ### Supervision of lines and shelves (chapter 2) -/

/-- A LINE REPORT from a line's own shelf, for a line that is not cut off and in no session, is passed unchanged. The
hook state and the last forwarded value become the report's hook meaning, LOOP_OPEN and LOOP_CLOSE leaving both as they
are; the age is 0. No other line's entry changes. Of the rest of the part, a report with a hook meaning makes the
shelf's derived counts those of the line table and has the ringing maximum of each open step window of a line of the
shelf follow the ringing count upward, and no other shelf and no other window changes (R22, R24, R120). That payload
octets a LINE REPORT's layout leaves unused are not read is the model's choice (notes/assumptions/55.md). -/
def Obligations.LineReportApplied : Prop :=
  ∀ (s : State) (c : Cell) (n len : Nat) (code : Octet) (meaning : Option Hook),
    TransitArrives s .south c → NoRequests s → c.kind = 0x11#8 → c.src = BitVec.ofNat 8 (0x10 + n) → n ≤ 15 →
    (field2 c 0).toNat = len → len / 256 = n → payloadAt c 2 = code →
    (code, meaning) ∈ [(1#8, some Hook.offHook), (2#8, some .idle), (3#8, none), (4#8, none), (5#8, some .parked),
      (6#8, some .offHook)] →
    (lineOf s len).cutOff = false → sessionOnLine s len = none →
    ∃ t, exec (.lineReport c) s = .next t ∧
      lineOf t len = { lineOf s len with
        hook := meaning.getD (lineOf s len).hook, lastForwarded := meaning.getD (lineOf s len).lastForwarded
        writtenAt := s.tracker.ageClock } ∧
      (∀ k, k ≠ len → lineOf t k = lineOf s k) ∧
      (∀ k, shelfAt t k = if meaning ≠ none ∧ k = n then { shelfAt s n with
          ringing := hookCount t.tracker n isRinging, offHook := hookCount t.tracker n isOff }
        else shelfAt s k) ∧
      (∀ b, windowAt t b = (windowAt s b).map (fun w =>
        if meaning ≠ none ∧ b < 4 ∧ w.line / 256 = n ∧ w.kind ≠ .settling then
          { w with ringingMax := max w.ringingMax (hookCount t.tracker n isRinging) }
        else w)) ∧
      t = { s with
        ports := { (runCleared s .south).ports with northTx := .cell c }
        tracker := { s.tracker with lines := t.tracker.lines, shelves := t.tracker.shelves }
        meas := { s.meas with windows := t.meas.windows } }

/-- A LINE REPORT for a line that is cut off is suppressed, whatever its code: its slot is an insertion opportunity and
no entry changes (R33). One that is not from the line's own shelf is passed untouched and changes no entry (R22). While
a DIAL session of the line is in AWAIT_OFF_HOOK or COLLECTING, a report is suppressed and goes to the session's
collector: hook state, age and counts are changed as R22 and R24 give, the last forwarded value is kept (R35). In
AWAIT_OFF_HOOK an OFF_HOOK or RING_TRIP makes the session COLLECTING and the collector ACTIVE, CLOSED since the report's
timestamp; other reports change neither (R109, R133). In COLLECTING a LOOP_OPEN or LOOP_CLOSE that changes the effective
loop becomes pending, drops a pending one under 10 ms old with itself, or confirms an older one; OFF_HOOK, RING_TRIP and
PARK change nothing; an ON_HOOK with no digit dialled ends the session NO_DIGITS (R110, R134, R135, R137). An OFF_HOOK
or RING_TRIP for a demand session in RESERVED, no examination being made, abandons it: the mark is FREE, UNBLOCKED and
behind it the report join the URGENT queue, the request waits again with its wait time, marked seen busy, and of a
metallic session the order is given up, riser and bus being FREE where it still waited unsent and left to the riser
clean-up otherwise (R10, R34, R83, R99), which begins with an ACCESS RELEASE where the ACCESS OPERATE waits in the South
backlog (the model's choice, notes/assumptions/16.md). That an order still waiting unsent leaves riser and bus FREE at
once is deduced (notes/assumptions/17.md), and the slot count is the model's (2.md). That payload octets a LINE REPORT's
layout leaves unused are not read is the model's choice too (55.md). -/
def Obligations.LineReportSuppressedOrUnread : Prop :=
  ∀ (s : State) (c : Cell) (len : Nat), TransitArrives s .south c → c.kind = 0x11#8 → (field2 c 0).toNat = len →
    (shelfOf c.src = some (len / 256) → 1 ≤ (payloadAt c 2).toNat → (payloadAt c 2).toNat ≤ 6 →
      (lineOf s len).cutOff = true →
      exec (.lineReport c) s = .next (giveSlot (runCleared s .south) .north)) ∧
    (shelfOf c.src ≠ some (len / 256) →
      exec (.lineReport c) s = .next (transmit (runCleared s .south) .north (.cell c))) ∧
    (∀ (n id : Nat) (x : Session) (code : Octet) (meaning : Option Hook), NoRequests s → n ≤ 15 → len / 256 = n →
      c.src = BitVec.ofNat 8 (0x10 + n) → payloadAt c 2 = code →
      (code, meaning) ∈ [(1#8, some Hook.offHook), (2#8, some .idle), (3#8, none), (4#8, none), (5#8, some .parked),
        (6#8, some .offHook)] →
      (lineOf s len).cutOff = false → sessionOnLine s len = some (id, x) →
      let applied := fun (l : Line) (t : State) => exec (.lineReport c) s = .next t ∧
        lineOf t len = { l with hook := meaning.getD l.hook, writtenAt := s.tracker.ageClock } ∧
        (∀ k, k ≠ len → lineOf t k = lineOf s k) ∧
        (∀ k, shelfAt t k = if meaning ≠ none ∧ k = n then { shelfAt s n with
            ringing := hookCount t.tracker n isRinging, offHook := hookCount t.tracker n isOff }
          else shelfAt s k) ∧
        (∀ b, windowAt t b = (windowAt s b).map (fun w =>
          if meaning ≠ none ∧ b < 4 ∧ w.line / 256 = n ∧ w.kind ≠ .settling then
            { w with ringingMax := max w.ringingMax (hookCount t.tracker n isRinging) }
          else w)) ∧
        (∀ k, k ≠ id → sessionAt t k = sessionAt s k)
      let ports := (giveSlot (runCleared s .south) .north).ports
      let z := collectorAt s id
      let stamp := (field2 c 3).toNat
      let consumed := fun (y : Session) (a : Collector) => ∃ t, applied (lineOf s len) t ∧
        sessionAt t id = some y ∧ collectorAt t id = a ∧ (∀ k, k ≠ id → collectorAt t k = collectorAt s k) ∧
        t = { s with
          ports := ports
          tracker := { s.tracker with lines := t.tracker.lines, shelves := t.tracker.shelves }
          engine := { s.engine with sessions := t.engine.sessions }
          meas := { s.meas with windows := t.meas.windows, collectors := t.meas.collectors } }
      (x.state = .awaitOffHook → z.phase = .waiting → z.digits.length < z.limit →
        (code ∈ [1#8, 6#8] → consumed { x with state := .collecting }
          { z with phase := .active, loopOpen := false, closedSince := some stamp }) ∧
        (code ∉ [1#8, 6#8] → consumed x z)) ∧
      (x.state = .collecting → z.phase = .active → z.digits.length < z.limit →
        (code ∈ [1#8, 5#8, 6#8] → consumed x z) ∧
        (∀ opens : Bool, code = (if opens then 3#8 else 4#8) →
          (z.pending = none → z.loopOpen = opens → consumed x z) ∧
          (z.pending = none → z.loopOpen ≠ opens → consumed x
            { z with pending := some (opens, stamp), timer := if opens then none else some 251 }) ∧
          (∀ o since, z.pending = some (o, since) →
            (o = opens → consumed x z) ∧
            (o ≠ opens → (stamp + 65536 - since) % 65536 < 10 →
              consumed x { z with pending := none, timer := if z.loopOpen then none else some 251 }) ∧
            (o = true → opens = false → 10 ≤ (stamp + 65536 - since) % 65536 →
              (∀ k, z.closedSince = some k → 1 ≤ z.breaks → (since + 65536 - k) % 65536 < 251) → consumed x { z with
                loopOpen := true, latestStart := since, breaks := z.breaks + 1
                firstStart := if z.breaks = 0 then since else z.firstStart
                earlierSum := if z.breaks = 0 then z.earlierSum else z.earlierSum + z.latestLength
                pending := some (false, stamp), timer := some 251 }) ∧
            (o = false → opens = true → 10 ≤ (stamp + 65536 - since) % 65536 → consumed x { z with
              loopOpen := false, latestLength := (since + 65536 - z.latestStart) % 65536, closedSince := some since
              pending := some (true, stamp), timer := none }))) ∧
        (∀ slot, code = 2#8 → z.digits = [] → z.breaks = 0 → (∀ k, z.pending ≠ some (false, k)) → x.bus = none →
          x.cls = .demand → x.verdict = .notJudged → x.slot = some slot → x.requesters ≠ [] → x.outcome = none →
          markOf s len ≠ .free →
          ∃ t r, exec (.lineReport c) s = .next t ∧ sessionAt t id = none ∧ markOf t len = .free ∧
            (lineOf t len).hook = .idle ∧ (lineOf t len).blocked = false ∧ (collectorAt t id).phase = .closed ∧
            slotAt t slot = .filled r (x.requesters.map (fun y => { unit := y.unit, tag := y.tag })) 0 ∧
            r.outcome = .noDigits ∧ r.line = len ∧ r.session = some id)) ∧
      (x.state = .reserved → code ∈ [1#8, 6#8] → x.cls = .demand → x.outcome = none → markOf s len ≠ .free →
        s.arbiter.service ≠ .inService → s.ports.urgent = [] → s.ports.urgentBacklog = [] →
        let abandoned := fun (p : Ports) (e : Engine) (t : State) => applied { lineOf s len with blocked := false } t ∧
          sessionAt t id = none ∧ markOf t len = .free ∧ (∀ k, k ≠ len → markOf t k = markOf s k) ∧
          t = { s with
            ports := { p with
              urgent := [makeCell 0x41#8 (own s) 0x01#8 (octets2 len ++ [2#8]), c] }
            tracker := { s.tracker with lines := t.tracker.lines, shelves := t.tracker.shelves }
            arbiter := { s.arbiter with
              marks := t.arbiter.marks
              queue := [{ line := len, program := x.program, cls := .demand, requesters := x.requesters
                          returned := true, waitMs := x.waitMs, seenBusy := true, retries := x.retries
                          reservation := none, slot := x.slot }] }
            engine := e
            meas := { s.meas with windows := t.meas.windows } }
        (x.bus = none → ∃ t, abandoned ports { s.engine with sessions := t.engine.sessions } t) ∧
        (∀ b before o after, x.bus = some b → s.engine.waiting = before ++ o :: after → o.kind = .riserOperate →
          o.owner = .session id → (∀ y ∈ before ++ after, y.owner ≠ .session id) →
          (∀ y ∈ s.engine.orders, y.order.owner ≠ .session id) → (busAt s b).state = .attached →
          (busAt s b).quarantine = none → (busAt s b).removePending = false →
          ∃ t, busAt t b = { busAt s b with state := .free, holder := .none } ∧
            (∀ k, k ≠ b → busAt t k = busAt s k) ∧ riserAt t n = .free ∧ (∀ k, k ≠ n → riserAt t k = riserAt s k) ∧
            abandoned ports { s.engine with
              buses := t.engine.buses, risers := t.engine.risers, sessions := t.engine.sessions
              waiting := before ++ after } t) ∧
        (∀ b before o after, x.bus = some b → s.engine.waiting = [] → s.engine.orders = before ++ o :: after →
          o.order.owner = .session id → (∀ y ∈ before ++ after, y.order.owner ≠ .session id) →
          (before ++ after).length < 16 →
          let otag := nextOrderTag { s with engine := { s.engine with orders := before ++ after } }
          let cleans := fun (p : Ports) (order : Order) (timer : Option Nat) =>
            ∃ t, busAt t b = { busAt s b with holder := .cleanUp } ∧ (∀ k, k ≠ b → busAt t k = busAt s k) ∧
              abandoned p { s.engine with
                buses := t.engine.buses, sessions := t.engine.sessions, candidate := (otag + 1) % 256
                orders := before ++ after ++ [{ tag := otag, order := order, timer := timer }] } t
          (o.order.kind ≠ .accessOperate → s.ports.southBacklog = [] → s.ports.southQueue.length < 32 →
            cleans { ports with southQueue := s.ports.southQueue ++ [makeCell 0x21#8 (own s) c.src
                ([BitVec.ofNat 8 otag, 4#8, BitVec.ofNat 8 b] ++ octets2 0)] }
              { kind := .riserRelease, shelf := n, bus := b, line := 0, owner := .cleanUp b } (some 40)) ∧
          (let cell := makeCell 0x21#8 (own s) c.src ([BitVec.ofNat 8 otag, 3#8, 0#8] ++ octets2 len)
           o.order.kind = .accessOperate → s.ports.southBacklog ≠ [] → cell ∉ s.ports.southBacklog →
            cleans { ports with southBacklog := s.ports.southBacklog ++ [cell] }
              { kind := .accessRelease, shelf := n, bus := 0, line := len, owner := .cleanUp b } none))))

/-- An APPLY_RING for a line that is not under test is passed and the line is RINGING, unless the line is cut off (R37; the
model's choice, notes/assumptions/16.md); a STOP_RING makes a RINGING line IDLE, cut off or not, and leaves any other
hook state, with its age, as it is. No other line's entry changes. A hook state written makes
the derived counts of the line's shelf those of the line table and has the ringing maxima of the open step windows of
its lines follow the ringing count upward (R23, R24, R120). -/
def Obligations.RingOrdersOutsideTest : Prop :=
  ∀ (s : State) (c : Cell) (len : Nat), TransitArrives s .north c → NoRequests s → c.kind = 0x12#8 →
    (field2 c 0).toNat = len → shelfOf c.dst = some (len / 256) → markOf s len = .free →
    sessionOnLine s len = none →
    let writes := fun (h : Hook) => ∃ t, exec (.lineOrder c) s = .next t ∧
      lineOf t len = { lineOf s len with hook := h, writtenAt := s.tracker.ageClock } ∧
      (∀ k, k ≠ len → lineOf t k = lineOf s k) ∧
      (∀ k, shelfAt t k = if k = len / 256 then { shelfAt s k with
          ringing := hookCount t.tracker k isRinging, offHook := hookCount t.tracker k isOff }
        else shelfAt s k) ∧
      (∀ b, windowAt t b = (windowAt s b).map (fun w =>
        if b < 4 ∧ w.line / 256 = len / 256 ∧ w.kind ≠ .settling then
          { w with ringingMax := max w.ringingMax (hookCount t.tracker (len / 256) isRinging) }
        else w)) ∧
      t = { s with
        ports := { (runCleared s .north).ports with southTx := .cell c }
        tracker := { s.tracker with lines := t.tracker.lines, shelves := t.tracker.shelves }
        meas := { s.meas with windows := t.meas.windows } }
    (payloadAt c 2 = 1#8 → (lineOf s len).cutOff = false → writes .ringing) ∧
    (payloadAt c 2 = 2#8 → (lineOf s len).hook = .ringing → writes .idle) ∧
    (payloadAt c 2 = 2#8 → (lineOf s len).hook ≠ .ringing →
      exec (.lineOrder c) s = .next (transmit (runCleared s .north) .south (.cell c)))

/-- An APPLY_RING that arrives while its line is cut off (R36, R37, R39). For a routine metallic session, and any
metallic session on an EMERGENCY line, it is held, and a session without an outcome that is CONNECTING, SETTLING or
MEASURING is released ABORTED_CALL; a session that is releasing, or has its outcome, goes on as it was; one that finds
an order held is discarded. For a demand metallic session on a line without EMERGENCY, and for a LOCKED_OUT line with
no session, it is discarded and BLOCKED offered again. For a FREE line that is cut off, while a clean-up releases the
access relay of a session that has ended, it is discarded, and for a DIAL session on such a line BLOCKED is offered again
as well (model's choice, notes/assumptions/16.md). In none of these does the order reach Port S: what Port S carries
stays as it is, and no LINE ORDER joins the South queue or its backlog. The slot count is the model's
(notes/assumptions/2.md). -/
def Obligations.ApplyRingNeverPassesCutOff : Prop :=
  ∀ (s : State) (c : Cell) (len id : Nat) (x : Session), TransitArrives s .north c → c.kind = 0x12#8 →
    (field2 c 0).toNat = len → shelfOf c.dst = some (len / 256) → payloadAt c 2 = 1#8 →
    let held : Prop := x.cls ≠ .demand ∨ ∃ d, directoryAt s len = some d ∧ d.emergency = true
    let consumed := giveSlot (runCleared s .north) .south
    let refused := giveSlot (offerTestBlock (runCleared s .north) len true) .south
    (markOf s len = .inSession → (lineOf s len).cutOff = true → sessionOnLine s len = some (id, x) →
      x.bus.isSome = true →
      (held → x.held.isSome = true → exec (.lineOrder c) s = .next consumed) ∧
      (held → x.held = none → x.outcome.isSome = true ∨ x.state = .releasing →
        exec (.lineOrder c) s = .next (modSession consumed id (fun y => { y with held := some c }))) ∧
      (held → x.held = none → x.outcome = none → x.state ∈ [.connecting, .settling, .measuring] →
        ∃ t, exec (.lineOrder c) s = .next t ∧
          sessionAt t id = some { x with
            held := some c, outcome := some .abortedCall, state := .releasing, accessReleased := false } ∧
          (∀ j, j ≠ id → sessionAt t j = sessionAt s j) ∧ t.ports.southTx = s.ports.southTx ∧
          (∀ y ∈ t.ports.southQueue ++ t.ports.southBacklog, y.kind = 0x12#8 →
            y ∈ s.ports.southQueue ++ s.ports.southBacklog) ∧
          t.tracker = s.tracker ∧ t.arbiter = s.arbiter ∧ t.tickets = s.tickets ∧ t.interp = s.interp) ∧
      (¬ held → exec (.lineOrder c) s = .next refused)) ∧
    (markOf s len = .lockedOut → sessionOnLine s len = none → exec (.lineOrder c) s = .next refused) ∧
    ((lineOf s len).cutOff = true →
      (markOf s len = .free → exec (.lineOrder c) s = .next consumed) ∧
      (markOf s len ≠ .free → sessionOnLine s len = some (id, x) → x.bus = none →
        exec (.lineOrder c) s = .next refused))

/-- A SCAN SUMMARY read from a FRESH shelf is passed and restarts the heartbeat at 500 ms; its count is compared with
the tracked off-hook count: equal clears the mismatch, and the first difference sets it, the shelf staying FRESH. The
summary of a DRIFT shelf, or of a STALE one with an audit in flight, only restarts the heartbeat (R25, R26, R27). For a
RELEASED shelf, and for one for which a RELEASE ALL is outstanding, waits, or has joined the South queue in the last
1,000 ms, that is all. For any other shelf the summary also has a fresh RELEASE ALL requested, which takes an entry and
joins the South queue where there is room (R90, R115). That payload octets a SCAN SUMMARY's layout leaves unused are not
read is the model's choice (notes/assumptions/55.md). -/
def Obligations.ScanSummaryCompared : Prop :=
  ∀ (s : State) (c : Cell) (n : Nat), TransitArrives s .south c → c.kind = 0x13#8 → shelfOf c.src = some n →
    let pending := (∃ o ∈ s.engine.orders, o.order.kind = .releaseAll ∧ o.order.shelf = n) ∨
      (∃ o ∈ s.engine.waiting, o.kind = .releaseAll ∧ o.shelf = n) ∨
      ∃ joined, tabGet none s.engine.releaseAllAt n = some joined ∧ s.clock < joined + 1000
    let tag := nextOrderTag s
    let becomes := fun (base : State) =>
      ((shelfAt s n).released = true ∨ pending → exec (.scanSummary c) s = .next base) ∧
      ((shelfAt s n).released = false → ¬ pending → s.engine.orders.length < 16 → s.engine.waiting = [] →
        s.ports.southBacklog = [] → s.ports.southQueue.length < 32 →
        ∃ t, exec (.scanSummary c) s = .next t ∧ tabGet none t.engine.releaseAllAt n = some s.clock ∧
          (∀ k, k ≠ n → tabGet none t.engine.releaseAllAt k = tabGet none s.engine.releaseAllAt k) ∧
          t = { base with
            ports := { base.ports with southQueue := s.ports.southQueue ++
              [makeCell 0x21#8 (own s) c.src [BitVec.ofNat 8 tag, 5#8, 0#8, 0#8, 0#8]] }
            engine := { s.engine with
              candidate := (tag + 1) % 256, releaseAllAt := t.engine.releaseAllAt
              orders := s.engine.orders ++ [{
                tag := tag
                order := { kind := .releaseAll, shelf := n, bus := 0, line := 0, owner := .freshRelease n }
                timer := some 40 }] } })
    ((shelfAt s n).freshness = .fresh → (field2 c 0).toNat = (shelfAt s n).offHook ∨ (shelfAt s n).mismatch = false →
      becomes (transmit (modShelf (runCleared s .south) n (fun x =>
        { x with heartbeat := some 500, mismatch := (field2 c 0).toNat ≠ x.offHook })) .north (.cell c))) ∧
    ((shelfAt s n).freshness = .drift ∨ ((shelfAt s n).freshness = .stale ∧ (shelfAt s n).audit.isSome = true) →
      becomes (transmit (modShelf (runCleared s .south) n (fun x =>
        { x with heartbeat := some 500 })) .north (.cell c)))

/-- The second differing summary in a row makes a FRESH shelf DRIFT with its mismatch cleared and its audit started, its
sessions marked SUPERVISION_LOST; the summary of a STALE shelf without an audit starts one, the shelf staying STALE: an
attempt with the tag the issue gives, no card received, the retry count 0 and its timer started as its AUDIT ORDER joins
the South queue, which has room. No other shelf and no line changes (R26, R27, R28, R113). A shelf that is not RELEASED,
and for which no RELEASE ALL is outstanding, waits, or has joined in the last 1,000 ms, has one requested by the same
summary: its cell joins behind the AUDIT ORDER, with the next tag the issue gives (R90, R115; the order of the two is
the model's choice, notes/assumptions/43.md). That payload octets a SCAN SUMMARY's layout leaves unused are not read is
the model's choice too (55.md). -/
def Obligations.SecondMismatchStartsAudit : Prop :=
  ∀ (s : State) (c : Cell) (n : Nat), TransitArrives s .south c → c.kind = 0x13#8 → shelfOf c.src = some n →
    let old := shelfAt s n
    let pending := (∃ o ∈ s.engine.orders, o.order.kind = .releaseAll ∧ o.order.shelf = n) ∨
      (∃ o ∈ s.engine.waiting, o.kind = .releaseAll ∧ o.shelf = n) ∨
      ∃ joined, tabGet none s.engine.releaseAllAt n = some joined ∧ s.clock < joined + 1000
    let tag := nextOrderTag s
    let audited := fun (timer : Option Nat) => { old with
      freshness := if old.freshness = .fresh then Freshness.drift else .stale
      mismatch := if old.freshness = .fresh then false else old.mismatch
      heartbeat := some 500, auditRetries := 0, audit := some { tag := tag, timer := timer, cards := [] } }
    let release := nextOrderTag (modShelf { s with engine := { s.engine with candidate := (tag + 1) % 256 } } n
      (fun _ => audited none))
    let becomes := fun (cells : List Cell) (t : State) =>
      exec (.scanSummary c) s = .next t ∧ shelfAt t n = audited (some 1000) ∧
      (∀ k, k ≠ n → shelfAt t k = shelfAt s k) ∧
      (∀ id, sessionAt t id = (sessionAt s id).map (fun x =>
        if old.freshness = .fresh ∧ id < 8 ∧ x.line / 256 = n then { x with supervisionLost := true } else x)) ∧
      t = { s with
        ports := { (runCleared s .south).ports with
          northTx := .cell c
          southQueue := s.ports.southQueue ++ makeCell 0x23#8 (own s) c.src [BitVec.ofNat 8 tag] :: cells }
        tracker := { s.tracker with shelves := t.tracker.shelves }
        engine := t.engine }
    (old.freshness = .fresh ∧ old.mismatch = true ∧ (field2 c 0).toNat ≠ old.offHook) ∨ old.freshness = .stale →
    old.audit = none → s.ports.southBacklog = [] →
    (old.released = true ∨ pending → s.ports.southQueue.length < 32 →
      ∃ t, becomes [] t ∧ t.engine = { s.engine with
        candidate := (tag + 1) % 256, sessions := t.engine.sessions }) ∧
    (old.released = false → ¬ pending → s.ports.southQueue.length < 31 → s.engine.orders.length < 16 →
      s.engine.waiting = [] →
      ∃ t, becomes [makeCell 0x21#8 (own s) c.src [BitVec.ofNat 8 release, 5#8, 0#8, 0#8, 0#8]] t ∧
        tabGet none t.engine.releaseAllAt n = some s.clock ∧
        (∀ k, k ≠ n → tabGet none t.engine.releaseAllAt k = tabGet none s.engine.releaseAllAt k) ∧
        t.engine = { s.engine with
          candidate := (release + 1) % 256, sessions := t.engine.sessions, releaseAllAt := t.engine.releaseAllAt
          orders := s.engine.orders ++ [{
            tag := release
            order := { kind := .releaseAll, shelf := n, bus := 0, line := 0, owner := .freshRelease n }
            timer := some 40 }] })

/-- An AUDIT REPORT of the current attempt is kept against its card, the set being still short of 16 cards; one whose
tag is another attempt's, whose card is above 15 or which has a hook code that is none is discarded. Its slot is an
insertion opportunity (R29, R212). The slot count is the model's (notes/assumptions/2.md). That payload octets an AUDIT
REPORT's layout leaves unused are not read is the model's choice (55.md). -/
def Obligations.AuditReportKeptOrDiscarded : Prop :=
  ∀ (s : State) (c : Cell) (n : Nat) (a : Audit), OwnArrives s .south c → c.kind = 0x24#8 → shelfOf c.src = some n →
    (shelfAt s n).audit = some a →
    (∀ hooks : List Hook, (payloadAt c 0).toNat = a.tag → (payloadAt c 1).toNat ≤ 15 →
      auditHooks c = some hooks → (tabPut [] a.cards (payloadAt c 1).toNat hooks).length < 16 →
      exec (.auditReport c) s = .next (modShelf (giveSlot (runCleared s .south) .north) n (fun x =>
        { x with audit := some { a with cards := tabPut [] a.cards (payloadAt c 1).toNat hooks } }))) ∧
    ((payloadAt c 0).toNat ≠ a.tag ∨ 15 < (payloadAt c 1).toNat ∨ auditHooks c = none →
      exec (.auditReport c) s = .next (giveSlot (runCleared s .south) .north))

/-- The AUDIT REPORT that completes the set makes the shelf FRESH with its mismatch cleared, its heartbeat at 500 ms and
no audit; each of its 256 lines takes the hook state its card reported, age 0, the last forwarded value and cut-off
kept, and both counts agree (R30). The slot count is the model's (notes/assumptions/2.md). That payload octets an AUDIT
REPORT's layout leaves unused are not read is the model's choice (55.md). -/
def Obligations.AuditCompletes : Prop :=
  ∀ (s : State) (c : Cell) (n : Nat) (a : Audit) (hooks : List Hook), OwnArrives s .south c → NoRequests s →
    n ≤ 15 → HookCountsAgree s.tracker →
    c.kind = 0x24#8 → shelfOf c.src = some n → (shelfAt s n).audit = some a → (payloadAt c 0).toNat = a.tag →
    (payloadAt c 1).toNat ≤ 15 → auditHooks c = some hooks →
    (tabPut [] a.cards (payloadAt c 1).toNat hooks).length = 16 →
    ∃ t, exec (.auditReport c) s = .next t ∧
      (∀ k, k < 256 → lineOf t (n * 256 + k) = { lineOf s (n * 256 + k) with
        hook := auditedHook (tabPut [] a.cards (payloadAt c 1).toNat hooks) k, writtenAt := s.tracker.ageClock }) ∧
      (∀ k, k / 256 ≠ n → lineOf t k = lineOf s k) ∧
      (shelfAt t n).freshness = .fresh ∧ (shelfAt t n).mismatch = false ∧ (shelfAt t n).audit = none ∧
      (shelfAt t n).auditRetries = 0 ∧ (shelfAt t n).heartbeat = some 500 ∧ HookCountsAgree t.tracker ∧
      t.ports = (giveSlot (runCleared s .south) .north).ports

/-- A heartbeat timer that runs out makes a FRESH or DRIFT shelf STALE with its mismatch cleared, its sessions marked
SUPERVISION_LOST; a STALE shelf stays so. The timer stops, and lines, counts and an audit in flight are kept, as are
every other shelf and the sessions on its lines (R25, R113). That the row acts on a running timer, whatever it has
left, is the model's choice (notes/assumptions/34.md). -/
def Obligations.HeartbeatExpiry : Prop :=
  ∀ (s : State) (n : Fin 16), Awake s → (shelfAt s n).heartbeat.isSome = true →
    ∃ t, exec (.heartbeatTimerExpiry n) s = .next t ∧
      shelfAt t n = { shelfAt s n with
        freshness := .stale, heartbeat := none
        mismatch := (if (shelfAt s n).freshness = .stale then (shelfAt s n).mismatch else false) } ∧
      (∀ k, k ≠ n.val → shelfAt t k = shelfAt s k) ∧
      (∀ id, sessionAt t id = (sessionAt s id).map (fun x =>
        if (shelfAt s n).freshness ≠ .stale ∧ id < 8 ∧ x.line / 256 = n.val then { x with supervisionLost := true }
        else x)) ∧
      t = { s with tracker := { s.tracker with shelves := t.tracker.shelves }
                   engine := { s.engine with sessions := t.engine.sessions } }

/-- The third audit attempt that runs out leaves no audit in flight, the retry count 0 and the shelf STALE with its
mismatch cleared, the sessions of a shelf that was not STALE marked SUPERVISION_LOST. An earlier one sends the next
attempt at once: with no card received, and with the tag the issue gives in the state without the attempt that ran out,
its AUDIT ORDER joining the South queue with the audit timer at 1,000 ms where there is room, and the backlog, its timer
not yet started, where there is none. A backlog that holds a cell leaves no room, though the South queue have a place:
that a new offer stands behind those that wait is deduced (notes/assumptions/14.md). A shelf without a running audit
timer is left as it is (R28, R31, R90, R113). That the row acts on a running timer, whatever it has left, is the model's
choice (notes/assumptions/34.md). -/
def Obligations.AuditExpiry : Prop :=
  ∀ (s : State) (n : Fin 16), Awake s →
    let x := shelfAt s n
    let tag := nextOrderTag (modShelf s n (fun y => { y with audit := none }))
    let order := makeCell 0x23#8 (own s) (BitVec.ofNat 8 (0x10 + n)) [BitVec.ofNat 8 tag]
    let room := s.ports.southBacklog = [] ∧ s.ports.southQueue.length < 32
    let next := fun (timer : Option Nat) (p : Ports) => ∃ t, exec (.auditTimerExpiry n) s = .next t ∧
      shelfAt t n = { x with
        auditRetries := x.auditRetries + 1, audit := some { tag := tag, timer := timer, cards := [] } } ∧
      (∀ k, k ≠ n.val → shelfAt t k = shelfAt s k) ∧
      t = { s with
        ports := p, tracker := { s.tracker with shelves := t.tracker.shelves }
        engine := { s.engine with candidate := (tag + 1) % 256 } }
    (∀ a, x.audit = some a → a.timer.isSome = true →
      (2 ≤ x.auditRetries → ∃ t, exec (.auditTimerExpiry n) s = .next t ∧
        shelfAt t n = { x with audit := none, auditRetries := 0, freshness := .stale, mismatch := false } ∧
        (∀ k, k ≠ n.val → shelfAt t k = shelfAt s k) ∧
        (∀ id y, id < 8 → sessionAt s id = some y → sessionAt t id = some { y with
          supervisionLost := y.supervisionLost || decide (x.freshness ≠ .stale ∧ y.line / 256 = n) }) ∧
        t = { s with
          tracker := { s.tracker with shelves := t.tracker.shelves }
          engine := { s.engine with sessions := t.engine.sessions } }) ∧
      (x.auditRetries < 2 → room →
        next (some 1000) { s.ports with southQueue := s.ports.southQueue ++ [order] }) ∧
      (x.auditRetries < 2 → ¬ room → order ∉ s.ports.southBacklog →
        next none { s.ports with southBacklog := s.ports.southBacklog ++ [order] })) ∧
    ((∀ a, x.audit = some a → a.timer = none) → exec (.auditTimerExpiry n) s = .next s)

/-- A second of the line ages: every line's age rises by one up to 65,535, and nothing else a line holds changes
(section 2.1). That all lines count their second together is the model's choice (notes/assumptions/12.md). -/
def Obligations.LineAgeSecond : Prop :=
  ∀ s : State, Awake s → (∀ len, (lineOf s len).writtenAt ≤ s.tracker.ageClock) →
    ∃ t, exec .lineAgeSecond s = .next t ∧ (∀ len, lineAge t len = min (lineAge s len + 1) 65535) ∧
      t = { s with tracker := { s.tracker with ageClock := t.tracker.ageClock }, ageMs := 0 }

/-! ### Commands: the tests, and the queries (chapter 10) -/

/-- Every command of the catalogue is tested in order. With less room in the NORMAL queue than the answer places its
code needs it is dropped without an answer, and Port N's dropped-command count rises by one (R196). With the room, and
its source not holding its group, it is answered REFUSED_PRIVILEGE and nothing else changes (R197). -/
def Obligations.CommandsTested : Prop :=
  ∀ (s : State) (i : Instr) (r : CommandRow), Awake s → commandRow i = some r →
    (normalRoom s < r.places → exec i s = .next (modPort s .north (fun x =>
      { x with dropped := min (x.dropped + 1) 4294967295 }))) ∧
    (r.places ≤ normalRoom s → holdsGroup s r.src r.group = false →
      exec i s = .next (answered s r.src r.tag r.code .refusedPrivilege))

/-- ENABLE_SERVICE puts UNCONFIGURED and SUSPENDED into IN_SERVICE, SUSPEND_SERVICE puts IN_SERVICE into SUSPENDED;
each answers DONE without a change where the state is already the one asked for, and STATE while STARTING,
SUSPEND_SERVICE while UNCONFIGURED too (R64). UNKNOWN_COMMAND is answered RANGE whatever its source holds (R197). -/
def Obligations.ServiceCommands : Prop :=
  ∀ (s : State) (src : Octet) (tag : Half),
    (Accepts s src 1 .service → NoRequests s →
      (s.arbiter.service = .unconfigured ∨ s.arbiter.service = .suspended → exec (.enableService src tag) s =
        .next (answered { s with arbiter := { s.arbiter with service := .inService } } src tag 1#8 .done)) ∧
      (s.arbiter.service = .inService → exec (.enableService src tag) s = .next (answered s src tag 1#8 .done) ∧
        exec (.suspendService src tag) s =
          .next (answered { s with arbiter := { s.arbiter with service := .suspended } } src tag 2#8 .done)) ∧
      (s.arbiter.service = .suspended → exec (.suspendService src tag) s = .next (answered s src tag 2#8 .done)) ∧
      (s.arbiter.service = .starting → exec (.enableService src tag) s = .next (answered s src tag 1#8 .state)) ∧
      (s.arbiter.service = .starting ∨ s.arbiter.service = .unconfigured →
        exec (.suspendService src tag) s = .next (answered s src tag 2#8 .state))) ∧
    (∀ code : Octet, Awake s → 1 ≤ normalRoom s → code = 0#8 ∨ 34 < code.toNat →
      exec (.unknownCommand src tag code) s = .next (answered s src tag code .range))

/-- READ_TIME, READ_LINE and READ_HEAD_COUNTS answer DONE with a RESPONSE and their REPLY cells, of the fields R142,
R199 and section 11.6 give, and change nothing; READ_LINE of a LEN above 4095 answers RANGE. The last four clauses say
how values that have no row in the code table are coded, which is the model's choice (DESIGN CHOICE,
notes/assumptions/7.md): the test marks, calendar states and timebase modes from 1 up, different values differently, as
R211 codes the values that have a row, in a free order; and the hook state UNKNOWN above the four codes of the hook
states' row. Absent values are coded as deduced (notes/assumptions/28.md). -/
def Obligations.ReadsOfFields : Prop :=
  ∀ (s : State) (src : Octet) (tag len : Half), Accepts s src 5 .query →
    let response := fun (code : Octet) (replies : Octet) (data : List Octet) =>
      makeCell 0x52#8 (own s) src (octets2 tag.toNat ++ [code, 1#8, replies] ++ data)
    let reply := fun (i : Octet) (data : List Octet) => makeCell 0x53#8 (own s) src (octets2 tag.toNat ++ [i] ++ data)
    let l := lineOf s len.toNat
    let c := s.calendar
    (4095 < len.toNat → exec (.readLine src tag len) s = .next (answered s src tag 27#8 .range)) ∧
    (len.toNat ≤ 4095 → exec (.readLine src tag len) s = .next (joinNormal s
      [response 27#8 1#8 (directoryData (directoryAt s len.toNat)),
       reply 1#8 ([hookCode l.hook, hookCode l.lastForwarded] ++ octets2 (lineAge s len.toNat) ++
         [boolOctet l.cutOff, if l.blocked then 1#8 else 2#8, Config.markCode (markOf s len.toNat),
          boolOctet (holdOf s len.toNat)])])) ∧
    (c.running = false → exec (.readTime src tag) s = .next (joinNormal s
      [response 28#8 0#8 [Config.calendarStateCode false]])) ∧
    (c.running = true → exec (.readTime src tag) s = .next (joinNormal s
      [response 28#8 1#8 [Config.calendarStateCode true],
       reply 1#8 ([octet c.second, octet c.minute, octet c.hour, octet c.weekday, octet c.day, octet c.month] ++
         octets2 c.year)])) ∧
    exec (.readHeadCounts src tag) s = .next (joinNormal s (response 31#8 4#8 [] ::
      [0, 1, 2, 3].map (fun h => reply (octet (h + 1))
        ([Config.timebaseModeCode (headAt s h).mode, (headAt s h).target, boolOctet (checkerAt s h).degraded] ++
          octets4 (if (headAt s h).mode = .hourly then (checkerAt s h).latched else (checkerAt s h).running))))) ∧
    (∀ m k, (Config.markCode m).toNat ∈ [1, 2, 3, 4] ∧ (Config.markCode m = Config.markCode k → m = k)) ∧
    (∀ m k, (Config.calendarStateCode m).toNat ∈ [1, 2] ∧
      (Config.calendarStateCode m = Config.calendarStateCode k → m = k)) ∧
    (∀ m k, (Config.timebaseModeCode m).toNat ∈ [1, 2] ∧
      (Config.timebaseModeCode m = Config.timebaseModeCode k → m = k)) ∧
    5 ≤ Config.unknownHookCode.toNat

/-- READ_BUS, READ_QUEUE, READ_SWEEP, TICKET_READ and TICKET_LIST change nothing but the NORMAL queue, which the
RESPONSE joins and then, in index order, as many REPLY cells as R198 and sections 10.3 and 7.6 give, every data octet as
R214 gives it (R160, R161, R177, R201 to R203): a REPLY for each bus; two for each of up to four entries from the
position; the configuration in two, the statistics, the outstanding lines with their attempt marks and four deferred
lines a REPLY; three for a ticket; one for each of up to ten tickets. What is not there is answered RANGE or NOT_FOUND
by the RESPONSE alone; that a TICKET_LIST whose first octet is neither 0xFF nor 0 is answered RANGE is the model's
choice (notes/assumptions/24.md). The states of a riser, the classes of a request and the origins of a ticket, which
have no row in the code table, are coded from 1, different values differently (R211), so that 0 stands for no riser;
their order and the rounding of a wait time are free values (notes/assumptions/7.md, 8.md); the order of
WRITE_SCHEDULE's arguments and the coding of absent values are deduced (6.md, 28.md); the absent riser shelf of a
half-octet, and that the outstanding lines stand in the order they were submitted, are the model's choices (52.md,
50.md). -/
def Obligations.ReadsOfTables : Prop :=
  ∀ (s : State) (src x : Octet) (tag : Half), Awake s → 13 ≤ normalRoom s → holdsGroup s src .query = true →
    holdsGroup s src .ticket = true →
    let read := fun (i : Instr) (code : Octet) (data : List Octet) (replies : List (List Octet)) =>
      exec i s = .next (joinNormal s
        (makeCell 0x52#8 (own s) src (octets2 tag.toNat ++ [code, 1#8, octet replies.length] ++ data) ::
          replies.zipIdx.map (fun y => makeCell 0x53#8 (own s) src (octets2 tag.toNat ++ [octet (y.2 + 1)] ++ y.1))))
    let none := fun (i : Instr) (code : Octet) (r : ResponseCode) => exec i s = .next (answered s src tag code r)
    let bit := fun (k : Nat) (b : Bool) => if b then 2 ^ k else 0
    let bus := fun (b : Nat) =>
      let y := busAt s b
      let order := y.retry.map (·.order)
      let riser := (List.range 16).find? (fun n => riserAt s n = .operated b ∨ riserAt s n = .unknown b)
      let risen : Nat := match riser.map (riserAt s) with
        | some (.operated _) => (Config.riserStateCode false).toNat
        | some (.unknown _) => (Config.riserStateCode true).toNat
        | _ => 0
      let holder : Nat := match y.holder with
        | .session id => id % 16
        | .cleanUp => 8
        | .none => 15
      let pending : Nat × Nat := match order with
        | some (.access len) => (3, len)
        | some (.riser _) => (4, 0xFFFF)
        | Option.none => (0, 0xFFFF)
      [busStateCode y.state, octet (bit 0 y.removePending + bit 1 (checkerAt s b).degraded),
        octet (holder * 16 + riser.getD 15), octet (risen * 16 + pending.1)] ++ octets2 pending.2 ++
        [octet ((y.retry.map (·.resends)).getD 0)] ++ octets2 (y.quarantine.getD 0)
    let entry := fun (y : Entry) =>
      let who : Octet × Nat := match y.cls, y.requesters with
        | .routine n, _ => (octet n, 0)
        | .demand, r :: _ => (r.unit, r.tag.toNat)
        | .demand, [] => (0#8, 0)
      [octets2 y.line ++ [octet y.program, Config.classCode (y.cls ≠ .demand), octet y.requesters.length, who.1] ++
          octets2 who.2,
        octets2 (waitSeconds y.waitMs) ++ [boolOctet y.seenBusy, octet y.retries,
          octet ((y.reservation.map (·.bus)).getD 0xFF), octet ((y.reservation.bind (·.riser)).getD 0xFF),
          boolOctet y.slot.isSome]]
    let lens := fun (ls : List Nat) => (List.range 4).flatMap (fun i => octets2 (ls.getD i 0xFFFF))
    let absent := fun (n : Option Nat) => octet (n.getD 0xFF)
    let item := fun (u : Ticket) => [subjectKindCode u.subject] ++ octets2 (subjectNumber u.subject) ++
      [octet (classOrder u.cls), ticketStateCode u.state]
    let page := fun (place : ListFrom) (us : List Ticket) => read (.ticketList src tag place) 23#8
      [octet (min 10 us.length), boolOctet (10 < us.length)] ((us.take 10).map (fun u => octet u.id :: item u))
    read (.readBus src tag) 30#8 [] [bus 0, bus 1, bus 2, bus 3] ∧
    (x.toNat ≤ 63 → read (.readQueue src tag x) 32#8
      [octet s.arbiter.queue.length, octet (s.arbiter.queue.countP (fun y => y.cls ≠ .demand))]
      (((s.arbiter.queue.drop x.toNat).take 4).flatMap entry)) ∧
    (63 < x.toNat → none (.readQueue src tag x) 32#8 .range) ∧
    (∀ c : ScheduleConfig, x.toNat ≤ 7 → (scheduleAt s x.toNat).config = some c →
      let r := (scheduleAt s x.toNat).run
      let counts := [r.tested, r.failed, r.skipped, r.stormSkipped, r.deferred]
      r.deferredLines.length ≤ 32 → r.outstanding.length ≤ 4 → (∀ k ∈ counts, k < 8192) →
      let packed := counts.foldl (fun a k => a * 8192 + k) 0 * 128
      read (.readSweep src tag x) 33#8 ([octet (runStateCode r.state)] ++ octets2 (r.cursor.getD 0xFFFF)) ([
        [boolOctet c.enable, octet c.minute, octet c.hour, octet c.weekday, octet c.day, octet c.month,
          octet (bit 0 c.onMinute + bit 1 c.onHour + bit 2 c.onWeekday + bit 3 c.onDay + bit 4 c.onMonth)] ++
          octets2 c.first,
        octets2 c.last ++ [octet c.program, octet c.window] ++ octets2 c.durationMinutes ++ [boolOctet c.report],
        (List.range 9).map (fun i => octet (packed / 256 ^ (8 - i))),
        lens (r.outstanding.map (·.1)) ++ [octet ((r.outstanding.zipIdx.map (fun y => bit y.2 y.1.2)).sum)]] ++
        (List.range ((r.deferredLines.length + 3) / 4)).map (fun i => lens (r.deferredLines.drop (4 * i))))) ∧
    (x.toNat ≤ 7 → (scheduleAt s x.toNat).config = Option.none → none (.readSweep src tag x) 33#8 .notFound) ∧
    (7 < x.toNat → none (.readSweep src tag x) 33#8 .range) ∧
    ((∀ t ∈ s.tickets.tickets, t.id ≠ x.toNat) → none (.ticketRead src tag x) 22#8 .notFound ∧
      none (.ticketList src tag (.after x)) 23#8 .notFound) ∧
    page .start s.tickets.tickets ∧ none (.ticketList src tag .other) 23#8 .range ∧
    (∀ before t after, s.tickets.tickets = before ++ t :: after → t.id = x.toNat → (∀ u ∈ before, u.id ≠ x.toNat) →
      page (.after x) after ∧
      read (.ticketRead src tag x) 22#8 (item t ++ [Config.originCode t.origin,
          octet (bit 0 t.value.isSome + bit 1 t.dispatch.isSome + bit 2 t.attached.isSome + bit 3 t.acknowledged)])
        [stampOctets t.opened ++ stampOctets t.lastSeen,
          octets2 t.occurrences ++ octets2 t.recurrences ++ octets4 (BitVec.ofInt 32 (t.value.getD 0)).toNat,
          octets2 (t.dispatch.getD 0#16).toNat ++ [absent t.attached] ++ (match t.subject with
            | .line len => [octet (lineTypeCode ((directoryAt s len).map (·.lineType))),
                absent ((directoryAt s len).bind (·.group))]
            | .cableGroup g => [groupStateCode (groupAt s g).storm, octet (groupAt s g).count, octet (thresholdAt s g)]
            | _ => [])]) ∧
    (∀ u v, (Config.riserStateCode u).toNat ∈ [1, 2, 3] ∧ (Config.riserStateCode u = Config.riserStateCode v → u = v)) ∧
    (∀ u v, (Config.classCode u).toNat ∈ [1, 2] ∧ (Config.classCode u = Config.classCode v → u = v)) ∧
    (∀ u v, (Config.originCode u).toNat ∈ [1, 2, 3] ∧ (Config.originCode u = Config.originCode v → u = v))

/-- READ_STATUS answers with the flags of both ports as it is taken, the service state, the state to return to while
STARTING, and the counts of FREE slots and waiting entries, then a REPLY for each port. From the maintenance processor
(0x02) it leaves the flags of both ports clear; from another source it clears nothing (R18, R200). That the state to
return to is 0 while not STARTING is deduced (notes/assumptions/28.md). The delineation states, which have no row in
the code table, are coded 1 to 3 (R211) in a free order (notes/assumptions/7.md). -/
def Obligations.ReadStatusClearsFlags : Prop :=
  ∀ (s : State) (src : Octet) (tag : Half), Accepts s src 3 .query →
    let flags := fun (p : Port) =>
      octet ((if p.checkError then 1 else 0) + (if p.delineationLost then 2 else 0) + (if p.intakeOverrun then 4 else 0))
    let cleared := fun (p : Port) =>
      if src = 0x02#8 then { p with checkError := false, delineationLost := false, intakeOverrun := false } else p
    let reply := fun (i : Octet) (p : Port) => makeCell 0x53#8 (own s) src (octets2 tag.toNat ++
      [i, Config.delineationCode p.delineation] ++ octets4 p.badChecks ++ octets4 p.dropped)
    exec (.readStatus src tag) s = .next (joinNormal
      { s with ports := { s.ports with north := cleared s.ports.north, south := cleared s.ports.south } }
      [makeCell 0x52#8 (own s) src (octets2 tag.toNat ++ [29#8, 1#8, 2#8, flags s.ports.north, flags s.ports.south,
        serviceCode s.arbiter.service,
        if s.arbiter.service = .starting then serviceCode s.arbiter.returnTo else 0#8,
        octet ((List.range 32).countP (fun n => slotAt s n = .free)), octet s.arbiter.queue.length,
        octet (s.arbiter.queue.countP (fun x => x.cls ≠ .demand))]),
       reply 1#8 s.ports.north, reply 2#8 s.ports.south]) ∧
    (∀ d k, (Config.delineationCode d).toNat ∈ [1, 2, 3] ∧
      (Config.delineationCode d = Config.delineationCode k → d = k))

/-! ### The table store (chapter 3) -/

/-- WRITE_LINE with every field in range replaces the line's whole entry and answers DONE; with a field out of range it
answers RANGE, and for a line under test IN_USE. CLEAR_LINE empties the entry, or answers RANGE or IN_USE. No other
entry and nothing else changes, the line having no ticket (R45, R46). That bits 3 to 7 of the flags octet are neither
read nor refused is the model's choice (notes/assumptions/5.md). -/
def Obligations.DirectoryWrites : Prop :=
  ∀ (s : State) (src lineType profile group flags : Octet) (tag len : Half) (t : LineType), Accepts s src 1 .table →
    NoRequests s → (∀ u ∈ s.tickets.tickets, u.subject ≠ .line len.toNat) →
    let n := len.toNat
    let write := exec (.writeLine src tag len lineType profile group flags) s
    let clear := exec (.clearLine src tag len) s
    let stored := fun (code : Octet) (d : Option DirectoryEntry) (o : Host.Outcome State Fault Refusal) =>
      ∃ u, o = .next (answered u src tag code .done) ∧ directoryAt u n = d ∧
        (∀ k, k ≠ n → directoryAt u k = directoryAt s k) ∧
        u = { s with tables := { s.tables with directory := u.tables.directory } }
    (n ≤ 4095 → profile.toNat ≤ 15 → (profileAt s profile.toNat).loaded = true →
      (lineType, t) ∈ [(1#8, LineType.plain), (2#8, .coin), (3#8, .pbxTrunk), (4#8, .dataOverVoice)] →
      (group.toNat ≤ 63 ∨ group = 0xFF#8) →
      (markOf s n = .free → stored 7#8 (some
        { lineType := t, profile := profile.toNat, group := if group = 0xFF#8 then none else some group.toNat
          noRoutine := flags.getLsbD 0, emergency := flags.getLsbD 1, noDialTest := flags.getLsbD 2 }) write) ∧
      (markOf s n ≠ .free → write = .next (answered s src tag 7#8 .inUse))) ∧
    (4095 < n ∨ 15 < profile.toNat ∨ (profileAt s profile.toNat).loaded = false ∨
        lineType ∉ [1#8, 2#8, 3#8, 4#8] ∨ (63 < group.toNat ∧ group ≠ 0xFF#8) →
      write = .next (answered s src tag 7#8 .range)) ∧
    (n ≤ 4095 → markOf s n = .free → stored 8#8 none clear) ∧
    (n ≤ 4095 → markOf s n ≠ .free → clear = .next (answered s src tag 8#8 .inUse)) ∧
    (4095 < n → clear = .next (answered s src tag 8#8 .range))

/-- WRITE_PROFILE, WRITE_HEAD, WRITE_HAZARD and WRITE_GROUP_THRESHOLD with every field in range and every relation
held replace what they name and answer DONE; a changed timebase mode zeroes the head's checker, DEGRADED kept. A field
out of range or a relation broken answers RANGE and changes nothing (R48, R56, R57, R58, R61). A threshold that a CALM
group's count reaches brings the group into STORM: its members are attached, and its cable ticket, new and OPEN, takes
slot 240 where that is free (R169, R174). One of 0, or of which the count is no more than half, takes a group in STORM
back to CALM, its cable ticket CLEARED and its members attached no more (R173, R174). Any other leaves the group as it
is. -/
def Obligations.TableWrites : Prop :=
  ∀ (s : State) (src x target : Octet) (tag interval : Half) (a : ProfileArgs) (m : TimebaseMode) (danger clear : Triple)
    (threshold : Octet), Accepts s src 1 .table →
    let p : Profile := { loaded := true, ground := a.ground.toNat, short := a.short.toNat
                         insulation := a.insulation.toNat, foreignDc := a.foreignDc.toNat
                         foreignAc := a.foreignAc.toNat, capTipRing := a.capTipRing.toNat
                         capLegGround := a.capLegGround.toNat, minLength := a.minLength.toNat
                         speedMin := a.speedMin.toNat, speedMax := a.speedMax.toNat, ratioMin := a.ratioMin.toNat
                         ratioMax := a.ratioMax.toNat }
    let ranges := p.ground ≤ 100000000 ∧ p.short ≤ 99999999 ∧ 1 ≤ p.insulation ∧ p.insulation ≤ 100000000 ∧
      p.foreignDc ≤ 150000 ∧ p.foreignAc ≤ 150000 ∧ 1000 ≤ p.capTipRing ∧ p.capTipRing ≤ 200000 ∧
      1000 ≤ p.capLegGround ∧ p.capLegGround ≤ 200000 ∧ p.minLength ≤ 99999 ∧ p.speedMin ≤ 1000 ∧ p.speedMax ≤ 1000 ∧
      p.ratioMin ≤ 100 ∧ p.ratioMax ≤ 100 ∧ p.short < p.insulation ∧ p.speedMin ≤ p.speedMax ∧ p.ratioMin ≤ p.ratioMax
    let mode : ModeField := if m = .hourly then .hourly else .continuous
    let head : Head := { interval := interval.toNat, target := target, mode := m }
    (a.number.toNat ≤ 15 ∧ ranges → ∃ t, exec (.writeProfile src tag a) s = .next (answered t src tag 9#8 .done) ∧
      profileAt t a.number.toNat = p ∧ (∀ k, k ≠ a.number.toNat → profileAt t k = profileAt s k) ∧
      t = { s with tables := { s.tables with profiles := t.tables.profiles } }) ∧
    (¬ (a.number.toNat ≤ 15 ∧ ranges) → exec (.writeProfile src tag a) s = .next (answered s src tag 9#8 .range)) ∧
    (x.toNat ≤ 3 → 100 ≤ interval.toNat → interval.toNat ≤ 1000 →
      ∃ t, exec (.writeHead src tag x interval target mode) s = .next (answered t src tag 11#8 .done) ∧
        headAt t x.toNat = head ∧ (∀ k, k ≠ x.toNat → headAt t k = headAt s k ∧ checkerAt t k = checkerAt s k) ∧
        checkerAt t x.toNat = (if (headAt s x.toNat).mode = m then checkerAt s x.toNat
          else { running := 0, latched := 0, timer := 3600000, exceeded := false
                 degraded := (checkerAt s x.toNat).degraded }) ∧
        t = { s with tables := { s.tables with heads := t.tables.heads }
                     meas := { s.meas with checkers := t.meas.checkers } }) ∧
    (3 < x.toNat ∨ interval.toNat < 100 ∨ 1000 < interval.toNat →
      exec (.writeHead src tag x interval target mode) s = .next (answered s src tag 11#8 .range)) ∧
    exec (.writeHead src tag x interval target .other) s = .next (answered s src tag 11#8 .range) ∧
    (2000 ≤ danger.toNat ∧ danger.toNat ≤ 200000 ∧ 1000 ≤ clear.toNat ∧ clear.toNat ≤ 199999 ∧
        clear.toNat < danger.toNat →
      exec (.writeHazard src tag danger clear) s = .next (answered
        { s with tables := { s.tables with danger := danger.toNat, clear := clear.toNat } } src tag 12#8 .done)) ∧
    (¬ (2000 ≤ danger.toNat ∧ danger.toNat ≤ 200000 ∧ 1000 ≤ clear.toNat ∧ clear.toNat ≤ 199999 ∧
        clear.toNat < danger.toNat) →
      exec (.writeHazard src tag danger clear) s = .next (answered s src tag 12#8 .range)) ∧
    (x.toNat ≤ 63 →
      let g := groupAt s x.toNat
      let written := fun (b t : State) =>
        exec (.writeGroupThreshold src tag x threshold) s = .next (answered t src tag 14#8 .done) ∧
        thresholdAt t x.toNat = threshold.toNat ∧ (∀ k, k ≠ x.toNat → thresholdAt t k = thresholdAt s k) ∧
        t = { b with tables := { s.tables with thresholds := t.tables.thresholds } }
      let becomes := fun (h : CableGroup) (ts : List Ticket) => ∃ t, groupAt t x.toNat = h ∧
        (∀ k, k ≠ x.toNat → groupAt t k = groupAt s k) ∧
        written { s with tickets := { tickets := ts, groups := t.tickets.groups } } t
      (g.storm = false → threshold.toNat = 0 ∨ g.count < threshold.toNat → ∃ t, written s t) ∧
      (g.storm = true → NoNotices s → threshold.toNat ≠ 0 → threshold.toNat / 2 < g.count → ∃ t, written s t) ∧
      (threshold.toNat ≠ thresholdAt s x.toNat → NoNotices s →
        (g.storm = false → 1 ≤ threshold.toNat → threshold.toNat ≤ g.count →
          findTicket s (.cableGroup x.toNat) .cableStorm = none → (∀ u ∈ s.tickets.tickets, u.id ≠ 240) →
          becomes { storm := true, count := g.count, ticket := some 240 }
            (s.tickets.tickets.map (fun u => if isMember s x.toNat u then { u with attached := some x.toNat } else u) ++
              [{ id := 240, subject := .cableGroup x.toNat, cls := .cableStorm, state := .opened, origin := .equipment
                 opened := stampNow s, lastSeen := stampNow s, occurrences := 1, recurrences := 0, value := none
                 dispatch := none, attached := none, acknowledged := false }])) ∧
        (∀ k, g.storm = true → g.ticket = some k → threshold.toNat = 0 ∨ g.count ≤ threshold.toNat / 2 →
          becomes { storm := false, count := g.count, ticket := none } (s.tickets.tickets.map (fun u => { u with
            state := if u.id = k then .cleared else u.state
            attached := if u.attached = some x.toNat then none else u.attached }))))) ∧
    (63 < x.toNat → exec (.writeGroupThreshold src tag x threshold) s = .next (answered s src tag 14#8 .range))

/-- WRITE_PRIVILEGE replaces, adds or removes the entry of the unit it names, as the table of R59 gives, and answers
RANGE for the maintenance processor (0x02), FULL for a 17th entry and NOT_FOUND where there is nothing to remove. No
other unit's groups change (R59). One bit for each group from bit 0 is deduced from section 11.6
(notes/assumptions/5.md). -/
def Obligations.PrivilegeWrites : Prop :=
  ∀ (s : State) (src unit groups : Octet) (tag : Half), Accepts s src 1 .table →
    let gs := ([(0, CommandGroup.query), (1, .test), (2, .ticket), (3, .schedule), (4, .table), (5, .service)].filter
      (fun x => groups.getLsbD x.1)).map (·.2)
    let write := exec (.writePrivilege src tag unit groups) s
    let becomes := fun (held : Option (List CommandGroup)) => ∃ t, write = .next (answered t src tag 13#8 .done) ∧
      privilegeOf t unit = held ∧ (∀ u, u ≠ unit → privilegeOf t u = privilegeOf s u) ∧
      t = { s with tables := { s.tables with privileges := t.tables.privileges } }
    (unit = 0x02#8 → write = .next (answered s src tag 13#8 .range)) ∧
    (unit ≠ 0x02#8 → (privilegeOf s unit).isSome = true → gs ≠ [] → becomes (some gs)) ∧
    (unit ≠ 0x02#8 → (privilegeOf s unit).isSome = true → gs = [] → becomes none) ∧
    (unit ≠ 0x02#8 → privilegeOf s unit = none → gs ≠ [] → s.tables.privileges.length < 16 → becomes (some gs)) ∧
    (unit ≠ 0x02#8 → privilegeOf s unit = none → gs ≠ [] → 16 ≤ s.tables.privileges.length →
      write = .next (answered s src tag 13#8 .full)) ∧
    (unit ≠ 0x02#8 → privilegeOf s unit = none → gs = [] → write = .next (answered s src tag 13#8 .notFound))

/-- The valid steps are those of R50: FV, RES and CAP with a leg, a window and, but for FV, a stimulus in their ranges,
DIAL with a digit limit of 1 to 3. A valid step cell is stored at its index in its source's load buffer, opened if it was
EMPTY, the load timer at 10 s. A final cell that completes a program of metallic steps, or of one DIAL step without
ROUTINE_ALLOWED, replaces the program and empties the buffer; a single final cell does for one step (R51, R53). Refused
RANGE are a program above 31, an invalid step, an index outside 1 to 12, a final cell's count outside 1 to 12 or unlike
its index: the load of the same source is abandoned, and another's kept; and a final cell that leaves an index missing,
or one held above its count, or completes no valid program, emptying the buffer. The program is kept (R52, R53). A
clearing cell empties the program and its source's buffer, and is refused RANGE for a program above 31. While the
program is in use, named by a waiting entry, a session or an ACTIVE schedule, a completing final cell is refused IN_USE,
its step stored and the load timer at 10 s again, and a clearing cell is refused IN_USE. A cell for a buffer of another
source is refused IN_USE. A load timer that runs out empties the buffer and nothing else (R54, R55). That
LOAD_TIMER_EXPIRY acts whatever the timer has left is the model's choice (notes/assumptions/34.md), and that a metallic
step may carry any digit limit is deduced (notes/assumptions/48.md). -/
def Obligations.ProgramLoads : Prop :=
  (∀ (raw : RawStep) (st : ProgramStep),
    let w := raw.window.toNat
    let v := raw.stimulus.toInt
    stepOf raw = some st ↔
      (∃ leg, (leg, raw.leg) ∈ [(Leg.tipGround, 1), (.ringGround, 2), (.tipRing, 3)] ∧ w ≤ 128 ∧
        ((raw.kind = 1 ∧ 8 ≤ w ∧ st = .fv leg w) ∨
         (10000 ≤ v.natAbs ∧ v.natAbs ≤ 150000 ∧
          ((raw.kind = 2 ∧ 8 ≤ w ∧ st = .res leg v w) ∨ (raw.kind = 3 ∧ 16 ≤ w ∧ st = .cap leg v w))))) ∨
      (raw.kind = 4 ∧ 1 ≤ raw.digits.toNat ∧ raw.digits.toNat ≤ 3 ∧ st = .dial raw.digits.toNat)) ∧
  ∀ (s : State) (src program : Octet) (tag : Half) (raw : RawStep) (routine : Bool), Accepts s src 1 .table →
    let n := program.toNat
    let inUse : Prop := (∃ y ∈ s.arbiter.queue, y.program = n) ∨
      (∃ id y, id < 8 ∧ sessionAt s id = some y ∧ y.program = n) ∨
      (∃ k cfg, k < 8 ∧ (scheduleAt s k).config = some cfg ∧ (scheduleAt s k).run.state = .active ∧ cfg.program = n)
    let othersKept := fun (t : State) =>
      (∀ k, k ≠ n → bufferAt t k = bufferAt s k ∧ programAt t k = programAt s k) ∧
      t = { s with tables := { s.tables with buffers := t.tables.buffers, programs := t.tables.programs } }
    let mine : Prop := (bufferAt s n).all (fun b => b.owner = src) = true
    let stepCell := fun (i : Nat) => exec (.writeProgramStep src tag program i raw) s
    let finalCell := fun (i count : Nat) => exec (.writeProgramFinal src tag program i count routine raw) s
    let clearCell := exec (.writeProgramClear src tag program) s
    let refused := fun (cell : Host.Outcome State Fault Refusal) => ∃ t, cell = .next (answered t src tag 10#8 .range) ∧
      (mine → bufferAt t n = none) ∧ (¬ mine → bufferAt t n = bufferAt s n) ∧ programAt t n = programAt s n ∧ othersKept t
    (∀ i, 31 < n ∨ stepOf raw = none ∨ i < 1 ∨ 12 < i → refused (stepCell i)) ∧
    (∀ i count, 31 < n ∨ stepOf raw = none ∨ count < 1 ∨ 12 < count ∨ i ≠ count → refused (finalCell i count)) ∧
    (31 < n → clearCell = .next (answered s src tag 10#8 .range)) ∧
    (n ≤ 31 → mine →
      (¬ inUse → ∃ t, clearCell = .next (answered t src tag 10#8 .done) ∧
        bufferAt t n = none ∧ (programAt t n).steps = [] ∧ othersKept t) ∧
      (inUse → clearCell = .next (answered s src tag 10#8 .inUse))) ∧
    (∀ k : Fin 32, k.val = n → ∃ t, exec (.loadTimerExpiry k) s = .next t ∧ bufferAt t n = none ∧
      programAt t n = programAt s n ∧ othersKept t) ∧
    (∀ st : ProgramStep, n ≤ 31 → stepOf raw = some st →
      (∀ i, 1 ≤ i → i ≤ 12 → mine → ∃ t b, stepCell i = .next (answered t src tag 10#8 .done) ∧
        bufferAt t n = some b ∧ b.owner = src ∧ b.timer = 10000 ∧ tabGet none b.steps i = some st ∧
        (∀ j, j ≠ i → tabGet none b.steps j = ((bufferAt s n).bind (fun x => tabGet none x.steps j))) ∧
        programAt t n = programAt s n ∧ othersKept t) ∧
      (∀ steps : List ProgramStep, steps.length ≤ 11 → (bufferAt s n = none ∧ steps = []) ∨ (∃ b, bufferAt s n = some b ∧
          b.owner = src ∧ b.steps = steps.zipIdx.map (fun x => (x.2 + 1, some x.1))) →
        let whole := steps ++ [st]
        let valid : Prop := (∀ x ∈ whole, isMetallic x = true) ∨ ∃ k, whole = [.dial k] ∧ routine = false
        let final := finalCell whole.length whole.length
        (valid → ¬ inUse → ∃ t, final = .next (answered t src tag 10#8 .done) ∧ bufferAt t n = none ∧
          programAt t n = { steps := whole, routineAllowed := routine } ∧ othersKept t) ∧
        (valid → inUse → ∃ t d, final = .next (answered t src tag 10#8 .inUse) ∧ bufferAt t n = some d ∧
          d.owner = src ∧ d.timer = 10000 ∧ tabGet none d.steps whole.length = some st ∧
          (∀ j, j ≠ whole.length → tabGet none d.steps j = ((bufferAt s n).bind (fun x => tabGet none x.steps j))) ∧
          programAt t n = programAt s n ∧ othersKept t) ∧
        (¬ valid → refused final)) ∧
      (∀ (b : LoadBuffer) (held : List (Nat × ProgramStep)) (j count : Nat), bufferAt s n = some b → b.owner = src →
        b.steps = held.map (fun x => (x.1, some x.2)) → 1 ≤ count → count ≤ 12 →
        (1 ≤ j ∧ j < count ∧ ∀ x ∈ held, x.1 ≠ j) ∨ (count < j ∧ ∃ x ∈ held, x.1 = j) →
        refused (finalCell count count)) ∧
      (∀ count, bufferAt s n = none → 2 ≤ count → count ≤ 12 → refused (finalCell count count)) ∧
      (∀ b, bufferAt s n = some b → b.owner ≠ src →
        (∀ i, 1 ≤ i → i ≤ 12 → stepCell i = .next (answered s src tag 10#8 .inUse) ∧
          finalCell i i = .next (answered s src tag 10#8 .inUse)) ∧
        clearCell = .next (answered s src tag 10#8 .inUse)))

/-! ### Schedules and the calendar (chapter 9) -/

/-- WRITE_SCHEDULE that passes the tests of R183 replaces the configuration, the run IDLE at the first LEN with every
statistic 0. SWEEP_START resumes an INCOMPLETE schedule, its deferred list emptied and its timer restarted, and a
started sweep over one unprovisioned line skips it and is COMPLETE at once (R185, R186, R191). SWEEP_STOP and the
duration timer end a sweep STOPPED or INCOMPLETE, the deferred lines counted skipped (R192, R193). No other schedule
changes. That WRITE_SCHEDULE's enable and report are read in bit 0 of an octet, and its five match enables in bits 0
to 4 of one octet, is deduced (notes/assumptions/5.md, 6.md), and that the duration timer's row acts on a running
timer, whatever it has left, is the model's choice (34.md). -/
def Obligations.SweepCommands : Prop :=
  ∀ (s : State) (src x : Octet) (tag : Half) (a : ScheduleArgs) (cfg : ScheduleConfig), Accepts s src 1 .schedule →
    NoNotices s → NoRequests s →
    let n := a.number.toNat
    let written : ScheduleConfig :=
      { enable := a.enable.getLsbD 0, minute := a.minute.toNat, hour := a.hour.toNat, weekday := a.weekday.toNat
        day := a.day.toNat, month := a.month.toNat, onMinute := a.enables.getLsbD 0, onHour := a.enables.getLsbD 1
        onWeekday := a.enables.getLsbD 2, onDay := a.enables.getLsbD 3, onMonth := a.enables.getLsbD 4
        first := a.first.toNat, last := a.last.toNat, program := a.program.toNat, window := a.window.toNat
        durationMinutes := a.duration.toNat, report := a.report.getLsbD 0 }
    let r := (scheduleAt s x.toNat).run
    let runs := fun (k : Nat) (config : ScheduleConfig) (run : SweepRun) (t : State) =>
      scheduleAt t k = { config := some config, run := run } ∧ (∀ j, j ≠ k → scheduleAt t j = scheduleAt s j) ∧
      t = { s with schedules := t.schedules }
    let fit := (programAt s cfg.program).steps ≠ [] ∧ (programAt s cfg.program).routineAllowed = true
    (n ≤ 7 → a.minute.toNat ≤ 59 → a.hour.toNat ≤ 23 → a.weekday.toNat ≤ 6 → 1 ≤ a.day.toNat → a.day.toNat ≤ 31 →
      1 ≤ a.month.toNat → a.month.toNat ≤ 12 → a.first.toNat ≤ a.last.toNat → a.last.toNat ≤ 4095 →
      1 ≤ a.window.toNat → a.window.toNat ≤ 4 → 1 ≤ a.duration.toNat → a.duration.toNat ≤ 600 →
      (programAt s a.program.toNat).steps ≠ [] → (programAt s a.program.toNat).routineAllowed = true →
      ((scheduleAt s n).run.state ≠ .active →
        ∃ t, exec (.writeSchedule src tag a) s = .next (answered t src tag 15#8 .done) ∧
          runs n written { state := .idle, cursor := some a.first.toNat, outstanding := [], deferredLines := []
                           timer := none, tested := 0, failed := 0, skipped := 0, stormSkipped := 0
                           deferred := 0 } t) ∧
      ((scheduleAt s n).run.state = .active →
        exec (.writeSchedule src tag a) s = .next (answered s src tag 15#8 .inUse))) ∧
    (x.toNat ≤ 7 → (scheduleAt s x.toNat).config = some cfg → fit → r.state = .incomplete →
      cfg.window ≤ r.outstanding.length →
      ∃ t, exec (.sweepStart src tag x) s = .next (answered t src tag 16#8 .done) ∧
        runs x.toNat cfg { r with
          state := .active, deferredLines := [], timer := some (cfg.durationMinutes * 60000) } t) ∧
    (x.toNat ≤ 7 → (scheduleAt s x.toNat).config = some cfg → fit → r.state ∈ [.idle, .complete, .stopped] →
      cfg.first = cfg.last → directoryAt s cfg.first = none → 1 ≤ cfg.window →
      ∃ t, exec (.sweepStart src tag x) s = .next (answered t src tag 16#8 .done) ∧
        runs x.toNat cfg { state := .complete, cursor := some cfg.first, outstanding := [], deferredLines := []
                           timer := none, tested := 0, failed := 0, skipped := 1, stormSkipped := 0
                           deferred := 0 } t) ∧
    (x.toNat ≤ 7 → (scheduleAt s x.toNat).config = some cfg → r.state = .active →
      exec (.sweepStart src tag x) s = .next (answered s src tag 16#8 .state) ∧
      ∃ t, exec (.sweepStop src tag x) s = .next (answered t src tag 17#8 .done) ∧
        runs x.toNat cfg { r with
          state := .stopped, cursor := some cfg.first, timer := none, deferredLines := []
          skipped := min (r.skipped + r.deferredLines.length) 65535 } t) ∧
    (x.toNat ≤ 7 → (scheduleAt s x.toNat).config = some cfg → r.state = .incomplete →
      ∃ t, exec (.sweepStop src tag x) s = .next (answered t src tag 17#8 .done) ∧
        runs x.toNat cfg { r with state := .stopped, cursor := some cfg.first, timer := none } t) ∧
    (∀ k : Fin 8, k.val = x.toNat → (scheduleAt s x.toNat).config = some cfg → r.state = .active →
      r.timer.isSome = true → ∃ t, exec (.durationTimerExpiry k) s = .next t ∧
        runs x.toNat cfg { r with
          state := .incomplete, timer := none, deferredLines := []
          skipped := min (r.skipped + r.deferredLines.length) 65535 } t)

/-- SET_TIME with every field in range and the day within its month starts the calendar at that time, prescaler 0, and
answers RANGE otherwise. ADJUST_TIME drops seconds below 30, carries the minute from 30, and answers STATE while
NOT_SET. A calendar second counts the second, and its carries count minute, hour, weekday and date (R178 to R181). An
accepted SET_TIME, an ADJUST_TIME that carries the minute and a calendar second that does are entries into the minute
they leave (R182): where no enabled schedule matches, nothing else changes; one that matches alone is begun when its
program still holds steps and carries ROUTINE_ALLOWED, unless it is ACTIVE: an INCOMPLETE run is resumed, its deferred
list emptied and its timer restarted, and any other begins afresh at the first LEN, a range of one unprovisioned line
being skipped and COMPLETE at once (R184, R185, R186, R191). -/
def Obligations.CalendarTime : Prop :=
  ∀ (s : State) (src sec mi h wd d mo : Octet) (tag year : Half), Accepts s src 1 .schedule →
    let c := s.calendar
    let fits := fun (cfg : ScheduleConfig) (m : Calendar) => cfg.enable = true ∧
      (cfg.onMinute = true ∨ cfg.onHour = true ∨ cfg.onWeekday = true ∨ cfg.onDay = true ∨ cfg.onMonth = true) ∧
      (cfg.onMinute = true → cfg.minute = m.minute) ∧ (cfg.onHour = true → cfg.hour = m.hour) ∧
      (cfg.onWeekday = true → cfg.weekday = m.weekday) ∧ (cfg.onDay = true → cfg.day = m.day) ∧
      (cfg.onMonth = true → cfg.month = m.month)
    let enters := fun (i : Instr) (m : Calendar) (done : State → State) =>
      ((∀ k cfg, k < 8 → (scheduleAt s k).config = some cfg → ¬ fits cfg m) →
        exec i s = .next (done { s with calendar := m })) ∧
      (∀ k cfg, NoNotices s → NoRequests s → k < 8 → (scheduleAt s k).config = some cfg → fits cfg m →
        (∀ j e, j < 8 → j ≠ k → (scheduleAt s j).config = some e → ¬ fits e m) →
        let r := (scheduleAt s k).run
        let fit := (programAt s cfg.program).steps ≠ [] ∧ (programAt s cfg.program).routineAllowed = true
        let runs := fun (run : SweepRun) => ∃ t, exec i s = .next (done t) ∧
          scheduleAt t k = { config := some cfg, run := run } ∧ (∀ j, j ≠ k → scheduleAt t j = scheduleAt s j) ∧
          t = { s with calendar := m, schedules := t.schedules }
        (¬ fit ∨ r.state = .active → exec i s = .next (done { s with calendar := m })) ∧
        (fit → r.state = .incomplete → cfg.window ≤ r.outstanding.length → runs { r with
          state := .active, deferredLines := [], timer := some (cfg.durationMinutes * 60000) }) ∧
        (fit → r.state ∈ [.idle, .complete, .stopped] → cfg.first = cfg.last → directoryAt s cfg.first = none →
          1 ≤ cfg.window → runs {
            state := .complete, cursor := some cfg.first, outstanding := [], deferredLines := [], timer := none
            tested := 0, failed := 0, skipped := 1, stormSkipped := 0, deferred := 0 }))
    let valid := sec.toNat ≤ 59 ∧ mi.toNat ≤ 59 ∧ h.toNat ≤ 23 ∧ wd.toNat ≤ 6 ∧ 1 ≤ mo.toNat ∧ mo.toNat ≤ 12 ∧
      2000 ≤ year.toNat ∧ year.toNat ≤ 2099 ∧ 1 ≤ d.toNat ∧
      d.toNat ≤ (if mo.toNat = 2 then (if year.toNat % 4 = 0 then 29 else 28)
        else if mo.toNat ∈ [4, 6, 9, 11] then 30 else 31)
    let last := if c.month = 2 then (if c.year % 4 = 0 then 29 else 28) else if c.month ∈ [4, 6, 9, 11] then 30 else 31
    let nextDay : Calendar := { c with
      prescaler := 0, second := 0, minute := 0, hour := 0, weekday := (c.weekday + 1) % 7
      day := if c.day = last then 1 else c.day + 1
      month := if c.day = last then (if c.month = 12 then 1 else c.month + 1) else c.month
      year := if c.day = last ∧ c.month = 12 then (if c.year = 2099 then 2000 else c.year + 1) else c.year }
    let nextMinute : Calendar :=
      if c.minute < 59 then { c with prescaler := 0, second := 0, minute := c.minute + 1 }
      else if c.hour < 23 then { c with prescaler := 0, second := 0, minute := 0, hour := c.hour + 1 }
      else nextDay
    (valid → enters (.setTime src tag sec mi h wd d mo year)
      { running := true, prescaler := 0, second := sec.toNat, minute := mi.toNat, hour := h.toNat, weekday := wd.toNat
        day := d.toNat, month := mo.toNat, year := year.toNat } (fun t => answered t src tag 18#8 .done)) ∧
    (¬ valid → exec (.setTime src tag sec mi h wd d mo year) s = .next (answered s src tag 18#8 .range)) ∧
    (c.running = false → exec (.adjustTime src tag) s = .next (answered s src tag 19#8 .state) ∧
      exec .calendarSecond s = .next s) ∧
    (c.running = true → CalendarValid c →
      (c.second < 30 → exec (.adjustTime src tag) s =
        .next (answered { s with calendar := { c with prescaler := 0, second := 0 } } src tag 19#8 .done)) ∧
      (30 ≤ c.second → enters (.adjustTime src tag) nextMinute (fun t => answered t src tag 19#8 .done)) ∧
      (c.second < 59 → exec .calendarSecond s =
        .next { s with calendar := { c with prescaler := 0, second := c.second + 1 } }) ∧
      (c.second = 59 → enters .calendarSecond nextMinute (fun t => t)))

/-! ### Buses, requests and tickets by command (chapters 4, 5, 7 and 8) -/

/-- BUS_REMOVE puts a FREE bus OUT_OF_SERVICE and marks one in use REMOVE_PENDING; BUS_RESTORE puts an OUT_OF_SERVICE
bus FREE, takes a pending removal back, and answers STATE for a FREE bus; a bus above D answers RANGE (R107, R108). A
quarantine timer that runs out stops, and frees a bus without a holder, or takes it OUT_OF_SERVICE under
REMOVE_PENDING (R106). BUS_RESTORE of a STUCK bus puts it FREE, its release retry gone with its outstanding or waiting
order, REMOVE_PENDING cleared and the riser that was toward it FREE; the line's mark stays as it is (R108). No other
bus and nothing else changes. The commands are accepted, no unit has asked for any notice, and no request waits. That
the quarantine timer's row acts on a running timer, whatever it has left, is the model's choice
(notes/assumptions/34.md). -/
def Obligations.BusCommands : Prop :=
  ∀ (s : State) (src x : Octet) (tag : Half), Accepts s src 1 .service → NoNotices s → NoRequests s →
    let b := x.toNat
    let becomes := fun (y : Bus) (t : State) => busAt t b = y ∧ (∀ k, k ≠ b → busAt t k = busAt s k) ∧
      t = { s with engine := { s.engine with buses := t.engine.buses } }
    let remove := exec (.busRemove src tag x) s
    let restore := exec (.busRestore src tag x) s
    (3 < b → remove = .next (answered s src tag 4#8 .range) ∧ restore = .next (answered s src tag 5#8 .range)) ∧
    (b ≤ 3 → (busAt s b).state = .free → restore = .next (answered s src tag 5#8 .state) ∧
      ∃ t, remove = .next (answered t src tag 4#8 .done) ∧ becomes { busAt s b with state := .outOfService } t) ∧
    (b ≤ 3 → (busAt s b).state = .outOfService → remove = .next (answered s src tag 4#8 .done) ∧
      ∃ t, restore = .next (answered t src tag 5#8 .done) ∧ becomes { busAt s b with state := .free } t) ∧
    (b ≤ 3 → (busAt s b).state ∈ [.attached, .quarantine, .stuck] →
      ∃ t, remove = .next (answered t src tag 4#8 .done) ∧ becomes { busAt s b with removePending := true } t) ∧
    (b ≤ 3 → (busAt s b).state ∈ [.attached, .quarantine] → (busAt s b).removePending = true →
      ∃ t, restore = .next (answered t src tag 5#8 .done) ∧ becomes { busAt s b with removePending := false } t) ∧
    (b ≤ 3 → (busAt s b).state ∈ [.attached, .quarantine] → (busAt s b).removePending = false →
      restore = .next (answered s src tag 5#8 .state)) ∧
    (b ≤ 3 → (busAt s b).state = .stuck →
      let toward := fun (n : Nat) => n < 16 ∧ (riserAt s n = .operated b ∨ riserAt s n = .unknown b)
      let restored := fun (freed : Nat → Prop) => ∃ t, restore = .next (answered t src tag 5#8 .done) ∧
        busAt t b = { busAt s b with state := .free, retry := none, removePending := false } ∧
        (∀ k, k ≠ b → busAt t k = busAt s k) ∧ (∀ k, freed k → riserAt t k = .free) ∧
        (∀ k, ¬ freed k → riserAt t k = riserAt s k) ∧
        t = { s with engine := { s.engine with
          buses := t.engine.buses, risers := t.engine.risers
          orders := s.engine.orders.filter (fun o => o.order.owner ≠ .retry b)
          waiting := s.engine.waiting.filter (fun o => o.owner ≠ .retry b) } }
      ((∀ n, ¬ toward n) → restored (fun _ => False)) ∧
      (∀ n, toward n → (∀ k, k ≠ n → ¬ toward k) → restored (fun k => k = n))) ∧
    (∀ k : Fin 4, k.val = b → (busAt s b).quarantine.isSome = true → (busAt s b).state = .quarantine →
      ((busAt s b).holder ≠ .none → ∃ t, exec (.quarantineTimerExpiry k) s = .next t ∧
        becomes { busAt s b with quarantine := none } t) ∧
      ((busAt s b).holder = .none → ∃ t, exec (.quarantineTimerExpiry k) s = .next t ∧
        becomes { busAt s b with
          quarantine := none, removePending := false
          state := if (busAt s b).removePending then .outOfService else .free } t))

/-- FORCE_RELEASE on a LOCKED_OUT line clears its cut-off, makes its hook state UNKNOWN with age 0, frees its mark and
offers UNBLOCKED; another line's mark and entry are kept. A line that is not LOCKED_OUT answers STATE, a LEN above 4095
RANGE (R104, R40). -/
def Obligations.ForceReleaseFreesLine : Prop :=
  ∀ (s : State) (src : Octet) (tag len : Half), Accepts s src 1 .service → NoRequests s →
    let n := len.toNat
    (4095 < n → exec (.forceRelease src tag len) s = .next (answered s src tag 6#8 .range)) ∧
    (n ≤ 4095 → markOf s n ≠ .lockedOut → exec (.forceRelease src tag len) s = .next (answered s src tag 6#8 .state)) ∧
    (n ≤ 4095 → markOf s n = .lockedOut → s.ports.urgent = [] → s.ports.urgentBacklog = [] →
      ∃ t, exec (.forceRelease src tag len) s = .next (answered t src tag 6#8 .done) ∧ markOf t n = .free ∧
        lineOf t n = { lineOf s n with
          hook := .unknown, writtenAt := s.tracker.ageClock, cutOff := false, blocked := false } ∧
        (∀ k, k ≠ n → markOf t k = markOf s k ∧ lineOf t k = lineOf s k) ∧
        (∀ b, (busAt t b).state = (busAt s b).state) ∧
        (∀ b, b < 4 → ((busAt t b).retry.map (·.order)) ≠ some (.access n)) ∧
        t.ports = { s.ports with urgent := [makeCell 0x41#8 (own s) 0x01#8 (octets2 n ++ [2#8])] } ∧
        t.tickets = s.tickets ∧ t.tables = s.tables)

/-- TEST_REQUEST in SUSPENDED that passes the tests of R69 joins the queue behind every waiting demand entry and ahead
of every routine one, with its wait limit clamped; a request for the line and program of a waiting demand entry merges
into it as one more requester, the longer wait kept (R70). CANCEL takes a requester out of a waiting entry, which
leaves the queue with its last, and answers NOT_FOUND where it finds none (R82). A wait timer that runs out ends its
entry, the record LINE_BUSY or NO_RESOURCE in its result slot (R81). In IN_SERVICE a request for a FREE, quiet line of
an open shelf, with bus 0 FREE on a head that is not degraded, the shelf's riser FREE and result slot 0 FREE, is
admitted at once: session 0 in RESERVED with every step NOT_RUN, the mark RESERVED and BLOCKED offered, bus 0 ATTACHED
to the session, the riser operated toward it, the slot reserved, and the RISER OPERATE outstanding with its 40 ms
(R40, R73 to R77, R80, R88 to R92). Where a request fails only for want of a bus, or of its shelf's riser, it waits
and preempts: of the routine metallic sessions not yet RELEASING or preempted the most recently admitted, or the one
on the shelf, is ended PREEMPTED, here from SETTLING or MEASURING, its bus reserved to the entry and its riser too
where it is the entry's (R78, R79, R99, R112, R127). That the wait timer's row acts whatever time is left is the
model's choice (notes/assumptions/34.md). The tag of the HEAD STOP without a window is deduced
(notes/assumptions/18.md). -/
def Obligations.RequestCommands : Prop :=
  ∀ (s : State) (src program : Octet) (tag len rtag limit : Half) (ds rs : List Entry) (d : DirectoryEntry) (e : Entry),
    Accepts s src 1 .test →
    let who : Requester := { unit := src, tag := rtag }
    let wait := if limit = 0xFFFF#16 then 60000 else if limit.toNat = 0 then 1000
      else if 600 < limit.toNat then 600000 else limit.toNat * 1000
    let new : Entry := { line := len.toNat, program := program.toNat, cls := .demand, requesters := [who]
                         returned := false, waitMs := wait, seenBusy := false, retries := 0, reservation := none
                         slot := none }
    let request := exec (.testRequest src tag len program rtag limit) s
    let queued := fun (q : List Entry) => { s with arbiter := { s.arbiter with queue := q } }
    (s.arbiter.service = .suspended → (∀ id, sessionAt s id = none) →
      (4095 < len.toNat ∨ 31 < program.toNat → request = .next (answered s src tag 20#8 .range)) ∧
      (len.toNat ≤ 4095 → program.toNat ≤ 31 → (programAt s program.toNat).steps = [] →
        request = .next (answered s src tag 20#8 .notFound)) ∧
      (len.toNat ≤ 4095 → program.toNat ≤ 31 → (programAt s program.toNat).steps ≠ [] →
        directoryAt s len.toNat = some d → d.noDialTest = false → s.arbiter.queue = ds ++ rs →
        (∀ y ∈ ds, y.cls = .demand) → (∀ y ∈ rs, y.cls ≠ .demand) →
        ((∀ y ∈ ds, y.line ≠ len.toNat ∨ y.program ≠ program.toNat) → (ds ++ rs).length < 64 →
          request = .next (answered (queued (ds ++ [new] ++ rs)) src tag 20#8 .done)) ∧
        (ds = [e] → e.line = len.toNat → e.program = program.toNat → who ∉ e.requesters → e.requesters.length < 4 →
          request = .next (answered (queued ({ e with
            requesters := e.requesters ++ [who], waitMs := max e.waitMs wait } :: rs)) src tag 20#8 .merged))) ∧
      (s.arbiter.queue = e :: rs → e.cls = .demand → (∀ y ∈ rs, y.cls ≠ .demand) → e.reservation = none → e.slot = none →
        (who ∈ e.requesters → (∃ w ∈ e.requesters, w ≠ who) → exec (.cancel src tag rtag) s = .next (answered (queued
          ({ e with requesters := e.requesters.filter (· ≠ who) } :: rs)) src tag 21#8 .done)) ∧
        (e.requesters = [who] → exec (.cancel src tag rtag) s = .next (answered (queued rs) src tag 21#8 .done)) ∧
        (who ∉ e.requesters → exec (.cancel src tag rtag) s = .next (answered s src tag 21#8 .notFound))) ∧
      (∀ (l : Fin 4096) (p : Fin 32) (slot : Nat), s.arbiter.queue = e :: rs → e.cls = .demand →
        (∀ y ∈ rs, y.cls ≠ .demand) → e.line = l → e.program = p → e.reservation = none → e.slot = some slot →
        e.requesters ≠ [] →
        ∃ t r, exec (.waitTimerExpiry l p) s = .next t ∧
          slotAt t slot = .filled r (e.requesters.map (fun w => { unit := w.unit, tag := w.tag })) 0 ∧
          r.line = e.line ∧ r.program = e.program ∧ r.session = none ∧
          r.outcome = (if e.seenBusy then .lineBusy else .noResource) ∧ r.results = [] ∧
          t.interp.fillingOrder = s.interp.fillingOrder ++ [slot] ∧
          t = { queued rs with interp := { s.interp with
            slots := t.interp.slots, fillingOrder := t.interp.fillingOrder } })) ∧
    (s.arbiter.service = .inService → s.arbiter.queue = [] → len.toNat ≤ 4095 → program.toNat ≤ 31 →
      (programAt s program.toNat).steps ≠ [] → isDialProgram (programAt s program.toNat) = false →
      directoryAt s len.toNat = some d → markOf s len.toNat = .free →
      (lineOf s len.toNat).hook = .idle ∨ (lineOf s len.toNat).hook = .parked →
      let n := len.toNat / 256
      (shelfAt s n).freshness = .fresh → (shelfAt s n).released = true →
      (∀ id y k b free, sessionAt s id = some y → id < 8 → y.cls = .routine k → y.bus = some b →
        y.state ∈ [.settling, .measuring] → y.preempted = false → y.outcome = none → free < 32 →
        slotAt s free = .free →
        (riserAt s n = .free ∧ (∀ j, j < 4 → (busAt s j).state ≠ .free) ∧
          (∀ j z, j ≠ id → sessionAt s j = some z → z.cls ≠ .demand → z.bus.isSome = true → z.state ≠ .releasing →
            z.preempted = false → z.admission < y.admission)) ∨
        (riserAt s n ≠ .free ∧ y.line / 256 = n ∧ (∀ j z, j ≠ id → sessionAt s j = some z → z.line / 256 ≠ n)) →
        s.engine.orders.length < 16 → s.engine.waiting = [] → s.ports.southBacklog = [] →
        s.ports.southQueue.length ≤ 30 →
        let otag := nextOrderTag s
        let stop := match windowAt s b with
          | some w => w.tag
          | none => ((busAt s b).nextTag + 255) % 256
        ∃ t, request = .next (answered t src tag 20#8 .done) ∧
          sessionAt t id = some { y with
            preempted := true, outcome := some .preempted, state := .releasing, accessReleased := false } ∧
          (∀ j, j ≠ id → sessionAt t j = sessionAt s j) ∧ windowAt t b = none ∧
          (∀ j, j ≠ b → windowAt t j = windowAt s j) ∧
          t = { s with
            ports := { s.ports with southQueue := s.ports.southQueue ++ [
              makeCell 0x31#8 (own s) (BitVec.ofNat 8 (0x30 + b)) [2#8, BitVec.ofNat 8 stop],
              makeCell 0x21#8 (own s) (BitVec.ofNat 8 (0x10 + y.line / 256))
                ([BitVec.ofNat 8 otag, 3#8, 0#8] ++ octets2 y.line)] }
            arbiter := { s.arbiter with queue := [{ new with
              reservation := some { bus := b, riser := if y.line / 256 = n then some n else none } }] }
            engine := { s.engine with
              sessions := t.engine.sessions, candidate := (otag + 1) % 256
              orders := s.engine.orders ++ [{
                tag := otag
                order := { kind := .accessRelease, shelf := y.line / 256, bus := 0, line := y.line, owner := .session id }
                timer := some 40 }] }
            meas := { s.meas with windows := t.meas.windows } }) ∧
      ((∀ id, sessionAt s id = none) → riserAt s n = .free →
      (busAt s 0).state = .free → (checkerAt s 0).degraded = false → slotAt s 0 = .free →
      s.engine.orders.length < 16 → s.engine.waiting = [] → s.ports.southBacklog = [] →
      s.ports.southQueue.length < 32 → s.ports.urgent = [] → s.ports.urgentBacklog = [] →
      let order : Order := { kind := .riserOperate, shelf := n, bus := 0, line := 0, owner := .session 0 }
      let otag := nextOrderTag s
      ∃ t, request = .next (answered t src tag 20#8 .done) ∧
        sessionAt t 0 = some { line := len.toNat, program := program.toNat, cls := .demand, requesters := [who]
                               bus := some 0, admission := s.arbiter.admissions, retries := 0, waitMs := wait
                               slot := some 0, held := none, preempted := false, state := .reserved
                               started := stampNow s, results := (programAt s program.toNat).steps.map (fun st =>
                                 blankResult .notRun (stepShape st).1 (stepShape st).2 false)
                               verdict := .notJudged, noData := 0, supervisionLost := false, outcome := none
                               ringGround := false, belowSoFar := true, step := 0, repeated := false
                               accessReleased := false, dialTimer := none } ∧
        (∀ k, k ≠ 0 → sessionAt t k = none) ∧
        busAt t 0 = { busAt s 0 with state := .attached, holder := .session 0 } ∧ (∀ k, k ≠ 0 → busAt t k = busAt s k) ∧
        riserAt t n = .operated 0 ∧ (∀ k, k ≠ n → riserAt t k = riserAt s k) ∧
        markOf t len.toNat = .reserved ∧ lineOf t len.toNat = { lineOf s len.toNat with blocked := true } ∧
        (∀ k, k ≠ len.toNat → markOf t k = markOf s k ∧ lineOf t k = lineOf s k) ∧
        slotAt t 0 = .reserved ∧ (∀ k, k ≠ 0 → slotAt t k = slotAt s k) ∧
        t = { s with
          ports := { s.ports with
            urgent := [makeCell 0x41#8 (own s) 0x01#8 (octets2 len.toNat ++ [1#8])]
            southQueue := s.ports.southQueue ++ [makeCell 0x21#8 (own s) (BitVec.ofNat 8 (0x10 + n))
              ([BitVec.ofNat 8 otag, 1#8, 0#8] ++ octets2 0)] }
          tracker := { s.tracker with lines := t.tracker.lines }
          arbiter := { s.arbiter with marks := t.arbiter.marks, admissions := s.arbiter.admissions + 1 }
          engine := { s.engine with
            buses := t.engine.buses, risers := t.engine.risers, sessions := t.engine.sessions
            candidate := (otag + 1) % 256
            orders := s.engine.orders ++ [{ tag := otag, order := order, timer := some 40 }] }
          interp := { s.interp with slots := t.interp.slots } }))

/-- TICKET_DISPATCH makes an OPEN ticket DISPATCHED with the tag and gives a DISPATCHED one the new tag; a SUSPECT or
CLEARED ticket answers STATE, an empty slot NOT_FOUND (R162). TICKET_CLOSE frees a CLEARED ticket's slot, answers STATE
for another without FORCE, REFUSED_PRIVILEGE for a FORCE on a ticket from any source but 0x02, and NOT_FOUND for an
empty slot (R163); that the empty slot comes before the privilege of FORCE is the model's choice
(notes/assumptions/24.md). A FORCE from 0x02, the cable tickets of R176, and dispatch and close of a ticket of a cable
group are not stated here. CABLE_ACK sets the acknowledged flag of a storm's cable ticket, and answers STATE for a CALM
group and RANGE above 63 (R175). A verdict of a record on a line class, the line in no cable group: a failure makes a
SUSPECT ticket OPEN, reopens a CLEARED one and leaves an OPEN or DISPATCHED one in its state, its last-seen stamp, its
count and a measured class's value written anew; with no ticket it creates one in the lowest free slot, SUSPECT from a
routine record but for CROSS_HAZARD and OPEN otherwise (R152, R155). A pass frees the slot of a SUSPECT ticket and makes
an OPEN or DISPATCHED one CLEARED (R153). The class and the action are added to the record (R150). -/
def Obligations.TicketCommands : Prop :=
  ∀ (s : State) (src x : Octet) (tag dtag : Half) (before after : List Ticket) (t : Ticket), Accepts s src 1 .ticket →
    NoNotices s → s.tickets.tickets = before ++ t :: after → t.id = x.toNat → (∀ u ∈ before ++ after, u.id ≠ x.toNat) →
    let tickets := fun (ts : List Ticket) => { s with tickets := { s.tickets with tickets := ts } }
    (t.state ∈ [.opened, .dispatched] → wetGroup s t = none →
      exec (.ticketDispatch src tag x dtag) s = .next (answered (tickets (before ++
        { t with state := .dispatched, dispatch := some dtag } :: after)) src tag 24#8 .done)) ∧
    (t.state ∈ [.suspect, .cleared] → exec (.ticketDispatch src tag x dtag) s =
      .next (answered s src tag 24#8 .state)) ∧
    (t.state = .cleared → wetGroup s t = none →
      exec (.ticketClose src tag x false) s = .next (answered (tickets (before ++ after)) src tag 25#8 .done)) ∧
    (t.state ≠ .cleared → exec (.ticketClose src tag x false) s = .next (answered s src tag 25#8 .state)) ∧
    (src ≠ 0x02#8 → exec (.ticketClose src tag x true) s = .next (answered s src tag 25#8 .refusedPrivilege)) ∧
    (∀ y : Octet, (∀ u ∈ s.tickets.tickets, u.id ≠ y.toNat) → ∀ force,
      exec (.ticketClose src tag y force) s = .next (answered s src tag 25#8 .notFound) ∧
      exec (.ticketDispatch src tag y dtag) s = .next (answered s src tag 24#8 .notFound)) ∧
    (∀ g : Octet, (63 < g.toNat → exec (.cableAck src tag g) s = .next (answered s src tag 26#8 .range)) ∧
      (g.toNat ≤ 63 → (groupAt s g.toNat).storm = false →
        exec (.cableAck src tag g) s = .next (answered s src tag 26#8 .state)) ∧
      (g.toNat ≤ 63 → (groupAt s g.toNat).storm = true → (groupAt s g.toNat).ticket = some t.id →
        exec (.cableAck src tag g) s = .next (answered (tickets (before ++
          { t with acknowledged := true } :: after)) src tag 26#8 .done))) ∧
    (∀ (found : List Ticket) (len k : Nat) (o : Origin) (c : FaultClass) (v : Option Int)
        (failed : List (FaultClass × Bool)) (actions : List (Nat × TicketAction)),
      (directoryAt s len).bind (·.group) = none → c ∈ lineClasses →
      let value := fun (old : Option Int) => if c = .dialFault ∨ c = .crossHazard then old else v
      let verdict := fun (w : Verdict) =>
        applyVerdict found len o { state := s, failed := failed, actions := actions } c w
      let gives := fun (ts : List Ticket) (fs : List (FaultClass × Bool)) (as : List (Nat × TicketAction)) =>
        ({ state := tickets ts, failed := failed ++ fs, actions := actions ++ as } : Applied)
      let seen : Ticket := { t with
        lastSeen := stampNow s, occurrences := min (t.occurrences + 1) 65535, value := value t.value }
      (t.subject = .line len → t.cls = c → (∀ u ∈ before, u.subject ≠ .line len ∨ u.cls ≠ c) →
        (t.state = .suspect → verdict (.fail v) = gives (before ++ { seen with state := .opened } :: after) [(c, false)]
            [(t.id, .opened)] ∧
          verdict .pass = gives (before ++ after) [] [(t.id, .removed)]) ∧
        (t.state ∈ [.opened, .dispatched] → verdict (.fail v) = gives (before ++ seen :: after) [(c, false)] [] ∧
          verdict .pass = gives (before ++ { t with state := .cleared } :: after) [] [(t.id, .cleared)]) ∧
        (t.state = .cleared → verdict (.fail v) = gives (before ++ { seen with
            state := .opened, recurrences := min (t.recurrences + 1) 65535 } :: after) [(c, false)]
            [(t.id, .reopened)] ∧
          verdict .pass = gives (before ++ t :: after) [] [])) ∧
      (findTicket s (.line len) c = none →
        (k < 240 → (∀ u ∈ s.tickets.tickets, u.id ≠ k) → (∀ j, j < k → ∃ u ∈ s.tickets.tickets, u.id = j) →
          verdict (.fail v) = gives (s.tickets.tickets ++ [{
            id := k, subject := .line len, cls := c
            state := if o = .routine ∧ c ≠ .crossHazard then .suspect else .opened
            origin := o, opened := stampNow s, lastSeen := stampNow s, occurrences := 1, recurrences := 0
            value := value none, dispatch := none, attached := none, acknowledged := false }]) [(c, false)]
            [(k, .created)]) ∧
        verdict .pass = gives s.tickets.tickets [] []) ∧
      verdict .notJudged = gives s.tickets.tickets [] [])

/-- SET_NOTICES replaces its own source's mask, keeps of the pending notices those whose kind is in it, in order, and
clears the RESYNC mark for an empty mask; a source that is no notice unit answers RANGE (R207). NOTICE_DELIVERY with
room sends a RESYNC notice, clearing the mark, else the oldest pending notice; without room it does nothing (R208).
One bit for each kind from bit 0 is deduced from section 11.6 (notes/assumptions/5.md). -/
def Obligations.NoticeMasksAndDelivery : Prop :=
  ∀ (s : State) (src kinds : Octet) (tag : Half) (u : Fin 9) (n : Notice) (rest : List Notice), Awake s →
    let x := unitAt s u
    let address : Octet := if u.val = 0 then 0x02#8 else BitVec.ofNat 8 (0x1F + u)
    let mask := ([(0, NoticeKind.ticket), (1, .cable), (2, .sweep), (3, .bus), (4, .restart)].filter
      (fun k => kinds.getLsbD k.1)).map (·.2)
    let becomes := fun (y : NoticeUnit) (b t : State) => unitAt t u = y ∧ (∀ k, k ≠ u.val → unitAt t k = unitAt s k) ∧
      t = { b with interp := { s.interp with units := t.interp.units } }
    (1 ≤ normalRoom s → holdsGroup s src .query = true → src = address →
      ∃ t, exec (.setNotices src tag kinds) s = .next (answered t src tag 34#8 .done) ∧
        becomes { mask := mask, pending := x.pending.filter (fun m => noticeKind m ∈ mask)
                  resync := if mask = [] then false else x.resync } s t) ∧
    (1 ≤ normalRoom s → holdsGroup s src .query = true → src ≠ 0x02#8 → (src.toNat < 0x20 ∨ 0x27 < src.toNat) →
      exec (.setNotices src tag kinds) s = .next (answered s src tag 34#8 .range)) ∧
    (0 < normalRoom s → x.resync = true → ∃ t, exec (.noticeDelivery u) s = .next t ∧
      becomes { x with resync := false } (joinNormal s [makeCell 0x57#8 (own s) address [6#8]]) t) ∧
    (0 < normalRoom s → x.resync = false → x.pending = n :: rest → ∃ t, exec (.noticeDelivery u) s = .next t ∧
      becomes { x with pending := rest } (joinNormal s [makeCell 0x57#8 (own s) address (noticePayload n)]) t) ∧
    (normalRoom s = 0 → exec (.noticeDelivery u) s = .next s)

/-! ### The interpreter, the result store and warm restart (chapter 10) -/

/-- The pace timer runs out: with the intake FIFO empty the interpreter waits; otherwise the oldest entry is taken and
the timer restarts at 1 ms. A cell that is a whole command is that command's row, its fields read from the cell's
octets; the first of two or more parts is kept for its source, in place of any assembly it had, and nothing is answered;
a later part that continues its source's assembly is added to it, and the last one ends the assembly and is the whole
command; any other cell ends its source's assembly and is answered RANGE, whatever its source may do. A whole command
with another number of parts than its own is answered RANGE (R196, R197, R211, R213). The octets of WRITE_SCHEDULE are
in the order deduced in notes/assumptions/6.md, the order of the codes of WRITE_HEAD's timebase modes is free (7.md),
and that bit 1 of WRITE_PROGRAM's third octet is not read, nor ROUTINE_ALLOWED on a step cell, is the model's choice
(51.md), as is that a TICKET_CLOSE octet other than 1 is no FORCE and that a TICKET_LIST whose first octet is neither
0xFF nor 0 is the form that is refused (24.md). A taken cell that finds the room of the NORMAL queue short of its answer
is dropped and counted. Where these RANGE answers stand among the tests is deduced (notes/assumptions/30.md), and that
the row acts on a running timer, whatever it has left, is the model's choice (notes/assumptions/34.md). That octets of a
COMMAND cell that its layout leaves unused are neither read nor refused, whatever they hold, is the model's choice
(notes/assumptions/55.md): the argument octets past a command's own fields (all eight of ADJUST_TIME), WRITE_PROFILE's
last six and WRITE_SCHEDULE's last seven, the step octets of a clearing cell, and the second octet of a TICKET_LIST
whose first octet is 0xFF. -/
def Obligations.PaceTimerTakesEntry : Prop :=
  ∀ (s : State) (c : Cell) (rest : List Cell) (ms : Nat), Awake s → s.interp.pace = .running ms →
    let n := (payloadAt c 3).toNat / 16
    let count := (payloadAt c 3).toNat % 16
    let taken : State := { s with ports := { s.ports with intake := rest }, interp := { s.interp with
      pace := .running 1 } }
    let tag := field2 c 0
    let code := (payloadAt c 2).toNat
    (s.ports.intake = [] →
      exec .paceTimerExpiry s = .next { s with interp := { s.interp with pace := .waiting } }) ∧
    (s.ports.intake = c :: rest → n = 1 → 2 ≤ count →
      exec .paceTimerExpiry s = .next { taken with interp := { taken.interp with
        assemblies := s.interp.assemblies.filter (fun a => a.source ≠ c.src) ++
          [{ source := c.src, tag := tag, code := payloadAt c 2, count := count, parts := [c.payload.drop 4] }] } }) ∧
    (s.ports.intake = c :: rest → payloadAt c 3 = 0x11#8 →
      let a := fun (k : Nat) => payloadAt c (4 + k)
      let h := fun (k : Nat) => field2 c (4 + k)
      let index := (a 1).toNat / 16
      let steps := (a 1).toNat % 16
      let shape := (a 2).toNat
      let raw : RawStep :=
        { kind := shape / 16, leg := shape / 4 % 4, stimulus := field3 c 7, window := a 6, digits := a 7 }
      let runs := fun (i : Instr) => exec .paceTimerExpiry s = exec i taken
      (code = 0 ∨ 34 < code → runs (.unknownCommand c.src tag (payloadAt c 2))) ∧
      (code = 1 → runs (.enableService c.src tag)) ∧ (code = 2 → runs (.suspendService c.src tag)) ∧
      (code = 3 → runs (.restart c.src tag)) ∧ (code = 4 → runs (.busRemove c.src tag (a 0))) ∧
      (code = 5 → runs (.busRestore c.src tag (a 0))) ∧ (code = 6 → runs (.forceRelease c.src tag (h 0))) ∧
      (code = 7 → runs (.writeLine c.src tag (h 0) (a 2) (a 3) (a 4) (a 5))) ∧
      (code = 8 → runs (.clearLine c.src tag (h 0))) ∧
      (code = 11 → runs (.writeHead c.src tag (a 0) (h 1) (a 3) (modeOf (a 4)))) ∧
      (code = 12 → runs (.writeHazard c.src tag (field3 c 4) (field3 c 7))) ∧
      (code = 13 → runs (.writePrivilege c.src tag (a 0) (a 1))) ∧
      (code = 14 → runs (.writeGroupThreshold c.src tag (a 0) (a 1))) ∧
      (code = 16 → runs (.sweepStart c.src tag (a 0))) ∧ (code = 17 → runs (.sweepStop c.src tag (a 0))) ∧
      (code = 18 → runs (.setTime c.src tag (a 0) (a 1) (a 2) (a 3) (a 4) (a 5) (h 6))) ∧
      (code = 19 → runs (.adjustTime c.src tag)) ∧
      (code = 20 → runs (.testRequest c.src tag (h 0) (a 2) (h 3) (h 5))) ∧
      (code = 21 → runs (.cancel c.src tag (h 0))) ∧ (code = 22 → runs (.ticketRead c.src tag (a 0))) ∧
      (code = 24 → runs (.ticketDispatch c.src tag (a 0) (h 1))) ∧
      (code = 25 → runs (.ticketClose c.src tag (a 0) (a 1 = 1#8))) ∧
      (code = 26 → runs (.cableAck c.src tag (a 0))) ∧ (code = 27 → runs (.readLine c.src tag (h 0))) ∧
      (code = 28 → runs (.readTime c.src tag)) ∧ (code = 29 → runs (.readStatus c.src tag)) ∧
      (code = 30 → runs (.readBus c.src tag)) ∧ (code = 31 → runs (.readHeadCounts c.src tag)) ∧
      (code = 32 → runs (.readQueue c.src tag (a 0))) ∧ (code = 33 → runs (.readSweep c.src tag (a 0))) ∧
      (code = 34 → runs (.setNotices c.src tag (a 0))) ∧
      (code = 10 →
        (a 1 = 0#8 → runs (.writeProgramClear c.src tag (a 0))) ∧
        (index ≠ 0 → steps = 0 → runs (.writeProgramStep c.src tag (a 0) index raw)) ∧
        (steps ≠ 0 → runs (.writeProgramFinal c.src tag (a 0) index steps (shape % 2 = 1) raw))) ∧
      (code = 23 →
        (a 0 = 0xFF#8 → runs (.ticketList c.src tag .start)) ∧
        (a 0 = 0#8 → runs (.ticketList c.src tag (.after (a 1)))) ∧
        (a 0 ∉ [0xFF#8, 0#8] → runs (.ticketList c.src tag .other)))) ∧
    (s.ports.intake = c :: rest →
      let held := s.interp.assemblies.find? (fun a => a.source = c.src)
      let others := s.interp.assemblies.filter (fun a => a.source ≠ c.src)
      let ended : State := { taken with interp := { taken.interp with assemblies := others } }
      let continued := fun (a : Assembly) =>
        a.tag = tag ∧ a.code = payloadAt c 2 ∧ a.count = count ∧ n = a.parts.length + 1 ∧ n ≤ count
      (∀ a, held = some a → 2 ≤ n → continued a →
        let octets := a.parts.flatten ++ c.payload.drop 4
        let o1 := fun (i : Nat) => octets.getD i 0#8
        let o2 := fun (i : Nat) => o1 i ++ o1 (i + 1)
        let o3 := fun (i : Nat) => o1 i ++ o1 (i + 1) ++ o1 (i + 2)
        let o4 := fun (i : Nat) => o2 i ++ o2 (i + 2)
        (n < count → exec .paceTimerExpiry s = .next { taken with interp := { taken.interp with
          assemblies := others ++ [{ a with parts := a.parts ++ [c.payload.drop 4] }] } }) ∧
        (n = count → code = 9 → count = 5 → exec .paceTimerExpiry s = exec (.writeProfile c.src tag {
            number := o1 0, ground := o4 1, short := o4 5, insulation := o4 9, foreignDc := o3 13, foreignAc := o3 16
            capTipRing := o3 19, capLegGround := o3 22, minLength := o3 25, speedMin := o2 28, speedMax := o2 30
            ratioMin := o1 32, ratioMax := o1 33 }) ended) ∧
        (n = count → code = 15 → count = 3 → exec .paceTimerExpiry s = exec (.writeSchedule c.src tag {
            number := o1 0, enable := o1 1, minute := o1 2, hour := o1 3, weekday := o1 4, day := o1 5, month := o1 6
            enables := o1 7, first := o2 8, last := o2 10, program := o1 12, window := o1 13, duration := o2 14
            report := o1 16 }) ended) ∧
        (∀ g, n = count → groupOfCode (payloadAt c 2) = some g → count ≠ ownParts (payloadAt c 2) →
          (normalRoom s < answerPlaces (payloadAt c 2) →
            exec .paceTimerExpiry s = .next (countDropped ended .north)) ∧
          (answerPlaces (payloadAt c 2) ≤ normalRoom s → exec .paceTimerExpiry s = .next (answered ended c.src tag
            (payloadAt c 2) (if holdsGroup s c.src g then .range else .refusedPrivilege))))) ∧
      (n = 0 ∨ (n = 1 ∧ count = 0) ∨ (2 ≤ n ∧ ∀ a, held = some a → ¬ continued a) →
        (normalRoom s < answerPlaces (payloadAt c 2) →
          exec .paceTimerExpiry s = .next (countDropped ended .north)) ∧
        (answerPlaces (payloadAt c 2) ≤ normalRoom s →
          exec .paceTimerExpiry s = .next (answered ended c.src tag (payloadAt c 2) .range))) ∧
      (n = 1 → count = 1 → code = 9 ∨ code = 15 → 1 ≤ normalRoom s →
        exec .paceTimerExpiry s = .next (answered taken c.src tag (payloadAt c 2)
          (if holdsGroup s c.src (if code = 9 then .table else .schedule) then .range else .refusedPrivilege))))

/-- RESULT_DELIVERY sends the next RESULT cell of the oldest FILLED record: the header, the steps in order, the closing
cell. After the last cell for one recipient the next is begun, and after the last recipient the slot is FREE and the
record leaves the filling order. Without room nothing is sent (R206). The octets are those of the table of section 11.7,
in which the start stamp stands in the header and the closing cell has the end stamp alone, though R206 names both
stamps there: deduced (notes/assumptions/53.md). That the cells for a recipient at a shelf's or a head's address join
the NORMAL queue is the model's choice (39.md). -/
def Obligations.ResultDelivered : Prop :=
  ∀ (s : State) (n sent : Nat) (order : List Nat) (r : ResultRecord) (x : Recipient) (more : List Recipient)
    (c : Cell), Awake s → s.interp.fillingOrder = n :: order → slotAt s n = .filled r (x :: more) sent →
    let becomes := fun (slot : Slot) (filling : List Nat) (t : State) => slotAt t n = slot ∧
      (∀ k, k ≠ n → slotAt t k = slotAt s k) ∧
      t = { joinNormal s [c] with interp := { s.interp with slots := t.interp.slots, fillingOrder := filling } }
    (normalRoom s = 0 → exec .resultDelivery s = .next s) ∧
    (0 < normalRoom s → sent = 0 → c = makeCell 0x54#8 (own s) x.unit (headerPayload r x.tag) →
      ∃ t, exec .resultDelivery s = .next t ∧ becomes (.filled r (x :: more) 1) (n :: order) t) ∧
    (0 < normalRoom s → ∀ y, r.results[sent - 1]? = some y → 1 ≤ sent →
      c = makeCell 0x55#8 (own s) x.unit (stepPayload sent y) →
      ∃ t, exec .resultDelivery s = .next t ∧ becomes (.filled r (x :: more) (sent + 1)) (n :: order) t) ∧
    (0 < normalRoom s → sent = r.results.length + 1 → c = makeCell 0x56#8 (own s) x.unit (closingPayload r) →
      (more ≠ [] → ∃ t, exec .resultDelivery s = .next t ∧ becomes (.filled r more 0) (n :: order) t) ∧
      (more = [] → NoRequests s → ∃ t, exec .resultDelivery s = .next t ∧ becomes .free order t))

/-- RESTART in any service state, no session running and no bus held: STARTING with the state to return to kept, the
request queue, intake FIFO, backlogs, load buffers, windows, collectors and result slots empty, the RESPONSE alone in
the NORMAL queue, the start-up release begun on all sixteen shelves in order, ACTIVE schedules INCOMPLETE. Lines,
marks, the tables, the tickets and the calendar are kept (R21, R63, R87, R114, R143, R195, R209). That the insertion
opportunities not yet used are kept is deduced (notes/assumptions/21.md). -/
def Obligations.RestartKeepsAndEmpties : Prop :=
  ∀ (s : State) (src : Octet) (tag : Half), Accepts s src 1 .service → NoNotices s → s.ports.urgent = [] →
    s.ports.urgentBacklog = [] → (∀ id, sessionAt s id = none) → (∀ n, (shelfAt s n).audit = none) →
    (∀ h, (checkerAt s h).degraded = false) →
    (∀ b, (busAt s b).state = .free ∧ (busAt s b).holder = .none ∧ (busAt s b).quarantine = none ∧
      (busAt s b).retry = none) →
    ∃ t, exec (.restart src tag) s = .next t ∧ t.arbiter.service = .starting ∧
      t.arbiter.returnTo = (if s.arbiter.service = .starting then s.arbiter.returnTo else s.arbiter.service) ∧
      t.arbiter.queue = [] ∧ t.arbiter.marks = s.arbiter.marks ∧ t.arbiter.holds = s.arbiter.holds ∧
      t.ports = { s.ports with
        normal := [makeCell 0x52#8 (own s) src (octets2 tag.toNat ++ [3#8, 1#8, 0#8])]
        reserved := 0, southBacklog := [], intake := [], southQueue := t.ports.southQueue } ∧
      t.ports.southQueue.map (fun c => (c.dst, payloadAt c 1)) =
        (List.range 16).map (fun n => (BitVec.ofNat 8 (0x10 + n), 5#8)) ∧
      t.engine.startUp = List.range 16 ∧ t.engine.waiting = [] ∧ t.engine.orders.length = 16 ∧
      (∀ b, busAt t b = busAt s b ∧ windowAt t b = none ∧ sessionAt t b = none ∧ collectorAt t b = collectorAt .reset b) ∧
      (∀ h, h ≤ 3 → checkerAt t h = (if (headAt s h).mode = .hourly then checkerAt s h
        else { checkerAt s h with running := 0, latched := 0 })) ∧
      (∀ n, n < 32 → slotAt t n = .free) ∧ t.interp.fillingOrder = [] ∧ t.interp.assemblies = [] ∧
      t.interp.pace = .running 1 ∧
      (∀ n, n < 8 → (scheduleAt t n).config = (scheduleAt s n).config ∧
        (scheduleAt t n).run = { (scheduleAt s n).run with
          outstanding := [], deferredLines := []
          state := if (scheduleAt s n).run.state = .active then .incomplete else (scheduleAt s n).run.state
          timer := if (scheduleAt s n).run.state = .active then none else (scheduleAt s n).run.timer }) ∧
      t.tables = { s.tables with buffers := [] } ∧ t.tracker.lines = s.tracker.lines ∧ t.tickets = s.tickets ∧
      t.calendar = s.calendar ∧ t.pending = s.pending

/-! ### Orders and their timers (chapter 5) -/

/-- An ORDER ACK is taken when it carries the tag of an outstanding order and comes from the order's shelf: the entry is
removed, and for a RELEASE ALL the shelf is RELEASED; the last of the start-up release ends STARTING with the service
state recorded (R32, R63, R91, R114). Any other ORDER ACK, and one for an ACCESS RELEASE without a hook code of IDLE,
OFF_HOOK or PARKED, is ignored. For a metallic session, the next order finding an entry and room: RISER OPERATE
acknowledged and the hook test passed, ACCESS OPERATE joins the South queue, the line cut off, the mark IN_SESSION, the
session CONNECTING (R93), or waits in the backlog where the queue is full, with line, mark and session as they were,
still RESERVED (R15); ACCESS OPERATE acknowledged, the session is SETTLING on a line cut off and IN_SESSION, and its tip
to ground settling window is open with the bus's next step tag, its HEAD START joining (R94, R95, R119); ACCESS RELEASE
acknowledged, the cut-off is cleared and the hook state written, a held ring order joins and makes the line RINGING, and
RISER RELEASE follows (R38, R98); RISER RELEASE acknowledged, riser and bus are FREE, the bus staying as it is while its
quarantine timer runs, and a demand session without an outcome ends, its request rejoining the queue with one more retry
(R83, R98, R100, R106). The acknowledged RISER RELEASE of a clean-up frees the riser and the bus (R99), and an ACCESS
RELEASE of one clears the cut-off, writes the hook state and is followed by the RISER RELEASE (R38). That a clean-up can
have an ACCESS RELEASE, and that an ACCESS OPERATE still in the backlog can be acknowledged, is the model's choice, as
are the slot count and the silence limit in whole ms (notes/assumptions/16.md, 47.md, 2.md, 36.md). That payload octets
an ORDER ACK's layout leaves unused are not read is the model's choice too (55.md). -/
def Obligations.OrderAckTaken : Prop :=
  ∀ (s : State) (c : Cell) (before after : List OutstandingOrder) (o : OutstandingOrder) (n : Nat),
    OwnArrives s .south c → NoRequests s → c.kind = 0x22#8 → s.engine.orders = before ++ o :: after → n ≤ 15 →
    (∀ x ∈ before ++ after, x.tag ≠ o.tag) → o.order.shelf = n →
    let ignored := giveSlot (runCleared s .south) .north
    let freed := modShelf { ignored with engine := { s.engine with orders := before ++ after } } n
      (fun x => { x with released := true })
    (c.src = BitVec.ofNat 8 (0x10 + n) → (payloadAt c 0).toNat = o.tag → o.order.kind = .releaseAll →
      (o.order.owner = .freshRelease n → exec (.orderAck c) s = .next freed) ∧
      (o.order.owner = .startUp n → n ∈ s.engine.startUp →
        exec (.orderAck c) s = .next { freed with
          engine := { s.engine with
            orders := before ++ after, startUp := s.engine.startUp.filter (fun k => k ≠ n) }
          arbiter := { s.arbiter with
            service := if s.arbiter.service = .starting ∧ (∀ k ∈ s.engine.startUp, k = n) then s.arbiter.returnTo
              else s.arbiter.service } })) ∧
    ((∀ x ∈ s.engine.orders, x.tag ≠ (payloadAt c 0).toNat ∨ c.src ≠ BitVec.ofNat 8 (0x10 + x.order.shelf)) →
      exec (.orderAck c) s = .next ignored) ∧
    ((payloadAt c 0).toNat = o.tag → o.order.kind = .accessRelease → payloadAt c 1 ∉ [1#8, 2#8, 4#8] →
      exec (.orderAck c) s = .next ignored) ∧
    (c.src = BitVec.ofNat 8 (0x10 + n) → (payloadAt c 0).toNat = o.tag → ∀ b, b ≤ 3 →
      let acked : State := { ignored with engine := { s.engine with orders := before ++ after } }
      let otag := nextOrderTag acked
      let room := (before ++ after).length < 16 ∧ s.engine.waiting = [] ∧ s.ports.southBacklog = [] ∧
        s.ports.southQueue.length ≤ 30
      let southern := fun (cs : List Cell) => { ignored.ports with southQueue := s.ports.southQueue ++ cs }
      let ordered := fun (order : Order) (t : State) => { acked.engine with
        buses := t.engine.buses, sessions := t.engine.sessions, candidate := (otag + 1) % 256
        orders := before ++ after ++ [{ tag := otag, order := order, timer := some 40 }] }
      (∀ id x, o.order.owner = .session id → sessionAt s id = some x → x.bus = some b → x.line / 256 = n →
        let becomes := fun (y : Option Session) (l : Line) (m : Mark) (u : Bus) (t : State) =>
          exec (.orderAck c) s = .next t ∧ sessionAt t id = y ∧ (∀ k, k ≠ id → sessionAt t k = sessionAt s k) ∧
          lineOf t x.line = l ∧ markOf t x.line = m ∧ busAt t b = u ∧ (∀ k, k ≠ b → busAt t k = busAt s k) ∧
          (∀ k, k ≠ x.line → lineOf t k = lineOf s k ∧ markOf t k = markOf s k)
        (o.order.kind = .riserOperate → room →
          (lineOf s x.line).hook = .idle ∨ ((lineOf s x.line).hook = .parked ∧ x.cls = .demand) →
          ∃ t, becomes (some { x with state := .connecting })
              { lineOf s x.line with cutOff := true, blocked := true } .inSession (busAt s b) t ∧
            t = { acked with
              ports := southern [makeCell 0x21#8 (own s) c.src ([BitVec.ofNat 8 otag, 2#8, 0#8] ++ octets2 x.line)]
              tracker := { s.tracker with lines := t.tracker.lines }
              arbiter := { s.arbiter with marks := t.arbiter.marks }
              engine := ordered { kind := .accessOperate, shelf := n, bus := 0, line := x.line
                                  owner := .session id } t }) ∧
        (o.order.kind = .riserOperate → (before ++ after).length < 16 → s.engine.waiting = [] →
          32 ≤ s.ports.southQueue.length →
          (lineOf s x.line).hook = .idle ∨ ((lineOf s x.line).hook = .parked ∧ x.cls = .demand) →
          let cell := makeCell 0x21#8 (own s) c.src ([BitVec.ofNat 8 otag, 2#8, 0#8] ++ octets2 x.line)
          cell ∉ s.ports.southBacklog →
          exec (.orderAck c) s = .next { acked with
            ports := { ignored.ports with southBacklog := s.ports.southBacklog ++ [cell] }
            engine := { acked.engine with
              candidate := (otag + 1) % 256
              orders := before ++ after ++ [{
                tag := otag
                order := { kind := .accessOperate, shelf := n, bus := 0, line := x.line, owner := .session id }
                timer := none }] } }) ∧
        (o.order.kind = .accessOperate → room → findTicket s (.shelf n) .accessFail = none → (busAt s b).nextTag < 256 →
          let step := (busAt s b).nextTag
          let interval := (headAt s b).interval
          ∃ t, becomes (some { x with
                state := .settling, ringGround := false, belowSoFar := true, repeated := false })
              { lineOf s x.line with cutOff := true, blocked := true } .inSession
              { busAt s b with nextTag := (step + 1) % 256 } t ∧
            windowAt t b = some {
              tag := step, kind := .settling, leg := .tipGround, line := x.line, sized := 16, interval := interval
              taken := 0, sumV := 0, sumVV := 0, sumI := 0, tail := [], lastSeq := none, lost := 0, ringingMax := 0
              hazardRun := 0, belowClear := true, atMost := false
              silence := some ((8 * interval + 5000 + 999) / 1000) } ∧
            (∀ k, k ≠ b → windowAt t k = windowAt s k) ∧
            t = { acked with
              ports := southern [makeCell 0x31#8 (own s) (BitVec.ofNat 8 (0x30 + b))
                ([1#8, BitVec.ofNat 8 step, 1#8, 0#8, 0#8, 0#8] ++ octets2 16 ++ octets2 interval)]
              tracker := { s.tracker with lines := t.tracker.lines }
              arbiter := { s.arbiter with marks := t.arbiter.marks }
              engine := { acked.engine with buses := t.engine.buses, sessions := t.engine.sessions }
              meas := { s.meas with windows := t.meas.windows } }) ∧
        (o.order.kind = .accessRelease → room → o.order.line = x.line → (∀ y ∈ x.held, y.kind = 0x12#8) →
          x.held = none ∨ (∀ k, windowAt s k = none) →
          ∀ h, (payloadAt c 1, h) ∈ [(1#8, Hook.idle), (2#8, .offHook), (4#8, .parked)] →
          ∃ t, becomes (some { x with accessReleased := true, held := none })
              { lineOf s x.line with
                cutOff := false, hook := if x.held = none then h else .ringing, writtenAt := s.tracker.ageClock }
              (markOf s x.line) (busAt s b) t ∧
            (∀ k, shelfAt t k = if k = n then { shelfAt s n with
                ringing := hookCount t.tracker n isRinging, offHook := hookCount t.tracker n isOff }
              else shelfAt s k) ∧
            (∀ k, windowAt t k = (windowAt s k).map (fun w =>
              if k < 4 ∧ w.line / 256 = n ∧ w.kind ≠ .settling then
                { w with ringingMax := max w.ringingMax (hookCount t.tracker n isRinging) }
              else w)) ∧
            t = { acked with
              ports := southern (x.held.toList ++
                [makeCell 0x21#8 (own s) c.src ([BitVec.ofNat 8 otag, 4#8, BitVec.ofNat 8 b] ++ octets2 0)])
              tracker := { s.tracker with lines := t.tracker.lines, shelves := t.tracker.shelves }
              engine := ordered { kind := .riserRelease, shelf := n, bus := b, line := 0, owner := .session id } t
              meas := { s.meas with windows := t.meas.windows } }) ∧
        (o.order.kind = .riserRelease → o.order.bus = b → s.arbiter.service ≠ .inService → x.cls = .demand →
          x.outcome = none → markOf s x.line ≠ .free → (lineOf s x.line).hook = .idle →
          (lineOf s x.line).lastForwarded = .idle → s.ports.urgent = [] → s.ports.urgentBacklog = [] →
          (busAt s b).state = (if (busAt s b).quarantine.isSome then .quarantine else .attached) →
          (busAt s b).removePending = false →
          ∃ t, becomes none { lineOf s x.line with blocked := false } .free { busAt s b with
                state := if (busAt s b).quarantine.isSome then .quarantine else .free, holder := .none } t ∧
            riserAt t n = .free ∧ (∀ k, k ≠ n → riserAt t k = riserAt s k) ∧
            t = { acked with
              ports := { ignored.ports with
                urgent := [makeCell 0x41#8 (own s) 0x01#8 (octets2 x.line ++ [2#8])] }
              tracker := { s.tracker with lines := t.tracker.lines }
              arbiter := { s.arbiter with
                marks := t.arbiter.marks
                queue := [{ line := x.line, program := x.program, cls := .demand, requesters := x.requesters
                            returned := true, waitMs := x.waitMs, seenBusy := false, retries := x.retries + 1
                            reservation := none, slot := x.slot }] }
              engine := { acked.engine with
                buses := t.engine.buses, risers := t.engine.risers, sessions := t.engine.sessions } })) ∧
      (∀ len h, o.order.owner = .cleanUp b → o.order.kind = .accessRelease → o.order.line = len → len / 256 = n → room →
        (payloadAt c 1, h) ∈ [(1#8, Hook.idle), (2#8, .offHook), (4#8, .parked)] →
        ∃ t, exec (.orderAck c) s = .next t ∧
          lineOf t len = { lineOf s len with cutOff := false, hook := h, writtenAt := s.tracker.ageClock } ∧
          (∀ k, k ≠ len → lineOf t k = lineOf s k) ∧
          (∀ k, shelfAt t k = if k = n then { shelfAt s n with
              ringing := hookCount t.tracker n isRinging, offHook := hookCount t.tracker n isOff }
            else shelfAt s k) ∧
          (∀ k, windowAt t k = (windowAt s k).map (fun w =>
            if k < 4 ∧ w.line / 256 = n ∧ w.kind ≠ .settling then
              { w with ringingMax := max w.ringingMax (hookCount t.tracker n isRinging) }
            else w)) ∧
          t = { acked with
            ports := southern [makeCell 0x21#8 (own s) c.src ([BitVec.ofNat 8 otag, 4#8, BitVec.ofNat 8 b] ++ octets2 0)]
            tracker := { s.tracker with lines := t.tracker.lines, shelves := t.tracker.shelves }
            engine := ordered { kind := .riserRelease, shelf := n, bus := b, line := 0, owner := .cleanUp b } t
            meas := { s.meas with windows := t.meas.windows } }) ∧
      (o.order.owner = .cleanUp b → o.order.kind ≠ .accessRelease → (busAt s b).removePending = false →
        (busAt s b).state = (if (busAt s b).quarantine.isSome then .quarantine else .attached) →
        ∃ t, exec (.orderAck c) s = .next t ∧
          busAt t b = { busAt s b with
            state := if (busAt s b).quarantine.isSome then .quarantine else .free, holder := .none } ∧
          (∀ k, k ≠ b → busAt t k = busAt s k) ∧ riserAt t n = .free ∧ (∀ k, k ≠ n → riserAt t k = riserAt s k) ∧
          t = { acked with engine := { acked.engine with buses := t.engine.buses, risers := t.engine.risers } }))

/-- The oldest waiting order takes a free entry of the 16 with a tag that is not outstanding, and its cell joins the
South queue, its 40 ms running from there (R90). An ACCESS OPERATE meets the hook test as it leaves the list: with the
test passed the line is cut off and IN_SESSION and the session CONNECTING, and otherwise nothing joins and the session
is abandoned: its request is returned with its line-seen-busy mark set, the line's mark is FREE, UNBLOCKED is offered,
behind it an OFF_HOOK report for an OFF_HOOK line, and the bus passes to the riser clean-up, its RISER RELEASE requested
(R41, R83, R93, R99). An order that runs out leaves the table: a fresh RELEASE ALL makes its shelf UNKNOWN (R91, R115),
and a release retry's restarts its timer at 1,000 ms below ten re-sends. A retry timer that runs out counts a re-send
and requests the pending order again (R103). That a waiting order takes its entry in a step of its own is deduced
(notes/assumptions/14.md). The orders of a metallic session: below two retries a RISER OPERATE that runs out ends the
session, its request returned with one more retry, the line FREE, its bus with the riser clean-up (R83, R100); an ACCESS
OPERATE that runs out makes the session RELEASING, its ACCESS RELEASE requested, and at two its outcome is ACCESS_FAIL
and the failure counts on the shelf's ACCESS_FAIL ticket (R100). A RISER RELEASE of a clean-up, or of a session, that
runs out leaves the bus STUCK without a holder, the riser UNKNOWN and the retry timer at 1,000 ms, the session having
ended, its request returned where it had no outcome (R102). An ACCESS RELEASE that runs out locks the line out, BLOCKED
being offered, and the bus is STUCK with the line's release pending; a session, its record in its slot, is gone (R101).
That of a clean-up leaves the bus so too, and the line as it is (R66; the model's choice, 16.md). That an expiry row acts
on a running timer, whatever it has left, is the model's choice (notes/assumptions/34.md). -/
def Obligations.OrdersSentAndExpired : Prop :=
  ∀ (s : State) (o : Order) (rest : List Order) (before after : List OutstandingOrder) (e : OutstandingOrder) (n : Nat)
    (b : Fin 4) (r : ReleaseRetry), Awake s → n ≤ 15 →
    let sent := fun (o : Order) (code : Octet) (carried : List Octet) (tag : Nat) (base t : State) =>
      tag = nextOrderTag s ∧
      t = { base with
        ports := { s.ports with southQueue := s.ports.southQueue ++ [makeCell 0x21#8 (own s)
          (BitVec.ofNat 8 (0x10 + n)) ([BitVec.ofNat 8 tag, code] ++ carried)] }
        engine := { base.engine with
          candidate := (tag + 1) % 256
          orders := s.engine.orders ++ [{ tag := tag, order := o, timer := some 40 }] } }
    let room := s.engine.orders.length < 16 ∧ s.ports.southBacklog = [] ∧ s.ports.southQueue.length < 32
    let returned := fun (id : Nat) (x : Session) (busy : Bool) (retries : Nat) (t : State) =>
      sessionAt t id = none ∧ (∀ k, k ≠ id → sessionAt t k = sessionAt s k) ∧ markOf t x.line = .free ∧
      lineOf t x.line = { lineOf s x.line with blocked := false } ∧
      (∀ k, k ≠ x.line → markOf t k = markOf s k ∧ lineOf t k = lineOf s k) ∧
      t.arbiter = { s.arbiter with
        marks := t.arbiter.marks
        queue := [{ line := x.line, program := x.program, cls := .demand, requesters := x.requesters
                    returned := true, waitMs := x.waitMs, seenBusy := busy, retries := retries
                    reservation := none, slot := x.slot }] } ∧
      t.tracker = { s.tracker with lines := t.tracker.lines }
    let returning := fun (x : Session) => NoRequests s ∧ s.arbiter.service ≠ .inService ∧ x.cls = .demand ∧
      x.outcome = none ∧ markOf s x.line ≠ .free ∧ s.ports.urgent = [] ∧ s.ports.urgentBacklog = []
    let unblocked := fun (x : Session) => makeCell 0x41#8 (own s) 0x01#8 (octets2 x.line ++ [2#8])
    (s.engine.waiting = o :: rest → o.shelf = n → room → ∀ code carried,
      (o.kind, code, carried) ∈ [(OrderKind.riserOperate, 1#8, [BitVec.ofNat 8 o.bus, 0#8, 0#8]),
        (.accessRelease, 3#8, 0#8 :: octets2 o.line), (.riserRelease, 4#8, [BitVec.ofNat 8 o.bus, 0#8, 0#8])] →
      ∃ t tag, exec .orderWaitListEntry s = .next t ∧
        sent o code carried tag { s with engine := { s.engine with waiting := rest } } t) ∧
    (∀ id x, s.engine.waiting = o :: rest →
      o = { kind := .accessOperate, shelf := n, bus := 0, line := x.line, owner := .session id } →
      sessionAt s id = some x → x.line / 256 = n → room →
      ((lineOf s x.line).hook = .idle ∨ ((lineOf s x.line).hook = .parked ∧ x.cls = .demand) →
        ∃ t tag, exec .orderWaitListEntry s = .next t ∧ sessionAt t id = some { x with state := .connecting } ∧
          (∀ k, k ≠ id → sessionAt t k = sessionAt s k) ∧
          lineOf t x.line = { lineOf s x.line with cutOff := true, blocked := true } ∧ markOf t x.line = .inSession ∧
          (∀ k, k ≠ x.line → markOf t k = markOf s k ∧ lineOf t k = lineOf s k) ∧
          sent o 2#8 (0#8 :: octets2 x.line) tag { s with
            tracker := { s.tracker with lines := t.tracker.lines }
            arbiter := { s.arbiter with marks := t.arbiter.marks }
            engine := { s.engine with waiting := rest, sessions := t.engine.sessions } } t) ∧
      ((lineOf s x.line).hook ∈ [.offHook, .ringing, .unknown] → returning x → x.bus = some b.val → rest = [] →
        (∀ y ∈ s.engine.orders, y.order.owner ≠ .session id) →
        ∃ t tag, exec .orderWaitListEntry s = .next t ∧ returned id x true x.retries t ∧
          busAt t b = { busAt s b with holder := .cleanUp } ∧ (∀ k, k ≠ b.val → busAt t k = busAt s k) ∧
          tag = nextOrderTag s ∧
          t = { s with
            ports := { s.ports with
              urgent := unblocked x :: (if (lineOf s x.line).hook = .offHook then
                [makeCell 0x11#8 (own s) 0x01#8 (octets2 x.line ++ [1#8, 0#8, 0#8])] else [])
              southQueue := s.ports.southQueue ++ [makeCell 0x21#8 (own s) (BitVec.ofNat 8 (0x10 + n))
                [BitVec.ofNat 8 tag, 4#8, BitVec.ofNat 8 b, 0#8, 0#8]] }
            tracker := t.tracker
            arbiter := t.arbiter
            engine := { s.engine with
              waiting := [], buses := t.engine.buses, sessions := t.engine.sessions, candidate := (tag + 1) % 256
              orders := s.engine.orders ++ [{
                tag := tag
                order := { kind := .riserRelease, shelf := n, bus := b, line := 0, owner := .cleanUp b }
                timer := some 40 }] } })) ∧
    (s.engine.waiting = [] ∨ 16 ≤ s.engine.orders.length → exec .orderWaitListEntry s = .next s) ∧
    (s.engine.orders = before ++ e :: after → (∀ x ∈ before ++ after, x.tag ≠ e.tag) → e.timer.isSome = true →
      e.tag < 256 →
      let gone : State := { s with engine := { s.engine with orders := before ++ after } }
      (e.order.owner = .freshRelease n → exec (.orderTimeout (BitVec.ofNat 8 e.tag)) s = .next (modShelf
        { s with engine := { s.engine with orders := before ++ after } } n (fun x => { x with released := false }))) ∧
      (e.order.owner = .retry b → (busAt s b).retry = some r → exec (.orderTimeout (BitVec.ofNat 8 e.tag)) s =
        .next (modBus { s with engine := { s.engine with orders := before ++ after } } b (fun x =>
          { x with retry := some { r with timer := if r.resends < 10 then some 1000 else none } }))) ∧
      (NoRequests s → NoNotices s → e.order.shelf = n → ∀ tk, findTicket s (.shelf n) .accessFail = some tk →
        tk.state = .opened →
        let seen : Ticket := { tk with lastSeen := stampNow s, occurrences := min (tk.occurrences + 1) 65535 }
        let counted : TicketManager := { s.tickets with tickets := s.tickets.tickets.map (fun u =>
          if u.id = tk.id then seen else u) }
        let stuck := fun (p : PendingRelease) (t : State) =>
          busAt t b = { busAt s b with state := .stuck, holder := .none, quarantine := none
                                       retry := some { order := p, resends := 0, timer := some 1000 } } ∧
          (∀ k, k ≠ b.val → busAt t k = busAt s k) ∧
          riserAt t n = .unknown b ∧ (∀ k, k ≠ n → riserAt t k = riserAt s k)
        (e.order.owner = .cleanUp b → ∃ t, exec (.orderTimeout (BitVec.ofNat 8 e.tag)) s = .next t ∧
          stuck (if e.order.kind = .accessRelease then .access e.order.line else .riser n) t ∧ t = { gone with
            engine := { gone.engine with buses := t.engine.buses, risers := t.engine.risers }, tickets := counted }) ∧
        (∀ id x, e.order.owner = .session id → sessionAt s id = some x → x.bus = some b.val → x.line / 256 = n →
          (returning x → (lineOf s x.line).hook = .idle → (lineOf s x.line).lastForwarded = .idle →
            (e.order.kind = .riserOperate → x.retries < 2 → room → s.engine.waiting = [] →
              (∀ y ∈ before ++ after, y.order.owner ≠ .session id) →
              let otag := nextOrderTag gone
              ∃ t, exec (.orderTimeout (BitVec.ofNat 8 e.tag)) s = .next t ∧
                returned id x false (x.retries + 1) t ∧
                busAt t b = { busAt s b with holder := .cleanUp } ∧ (∀ k, k ≠ b.val → busAt t k = busAt s k) ∧
                t = { gone with
                  ports := { s.ports with
                    urgent := [unblocked x]
                    southQueue := s.ports.southQueue ++ [makeCell 0x21#8 (own s) (BitVec.ofNat 8 (0x10 + n))
                      [BitVec.ofNat 8 otag, 4#8, BitVec.ofNat 8 b, 0#8, 0#8]] }
                  tracker := t.tracker
                  arbiter := t.arbiter
                  engine := { gone.engine with
                    buses := t.engine.buses, sessions := t.engine.sessions, candidate := (otag + 1) % 256
                    orders := before ++ after ++ [{
                      tag := otag
                      order := { kind := .riserRelease, shelf := n, bus := b, line := 0, owner := .cleanUp b }
                      timer := some 40 }] } }) ∧
            (e.order.kind = .riserRelease → e.order.bus = b →
              ∃ t, exec (.orderTimeout (BitVec.ofNat 8 e.tag)) s = .next t ∧
                returned id x false (x.retries + 1) t ∧ stuck (.riser n) t ∧
                t = { gone with
                  ports := { s.ports with urgent := [unblocked x] }
                  tracker := t.tracker
                  arbiter := t.arbiter
                  engine := { gone.engine with
                    buses := t.engine.buses, risers := t.engine.risers, sessions := t.engine.sessions }
                  tickets := counted })) ∧
          (e.order.kind = .accessOperate → room → s.engine.waiting = [] →
            let otag := nextOrderTag gone
            ∃ t, exec (.orderTimeout (BitVec.ofNat 8 e.tag)) s = .next t ∧
              sessionAt t id = some { x with
                state := .releasing, accessReleased := false
                outcome := if x.retries < 2 then x.outcome else some .accessFail } ∧
              (∀ k, k ≠ id → sessionAt t k = sessionAt s k) ∧
              t = { gone with
                ports := { s.ports with southQueue := s.ports.southQueue ++ [makeCell 0x21#8 (own s)
                  (BitVec.ofNat 8 (0x10 + n)) ([BitVec.ofNat 8 otag, 3#8, 0#8] ++ octets2 x.line)] }
                engine := { gone.engine with
                  sessions := t.engine.sessions, candidate := (otag + 1) % 256
                  orders := before ++ after ++ [{
                    tag := otag
                    order := { kind := .accessRelease, shelf := n, bus := 0, line := x.line, owner := .session id }
                    timer := some 40 }] }
                tickets := if x.retries < 2 then s.tickets else counted }) ∧
          (∀ slot, e.order.kind = .accessRelease → x.cls = .demand → x.outcome = none → x.verdict = .notJudged →
            (∀ y ∈ x.results, y.status = .notRun ∧ y.digits = []) → x.slot = some slot → x.requesters ≠ [] →
            markOf s x.line ≠ .free → s.ports.urgent = [] → s.ports.urgentBacklog = [] →
            ∃ t q, exec (.orderTimeout (BitVec.ofNat 8 e.tag)) s = .next t ∧ sessionAt t id = none ∧
              (∀ k, k ≠ id → sessionAt t k = sessionAt s k) ∧ markOf t x.line = .lockedOut ∧
              lineOf t x.line = { lineOf s x.line with blocked := true } ∧
              (∀ k, k ≠ x.line → markOf t k = markOf s k ∧ lineOf t k = lineOf s k) ∧ stuck (.access x.line) t ∧
              slotAt t slot = .filled q (x.requesters.map (fun w => { unit := w.unit, tag := w.tag })) 0 ∧
              q.outcome = .accessFail ∧ q.line = x.line ∧ q.session = some id ∧ q.failed = [] ∧
              (∀ k, k ≠ slot → slotAt t k = slotAt s k) ∧
              t = { gone with
                ports := { s.ports with urgent := [makeCell 0x41#8 (own s) 0x01#8 (octets2 x.line ++ [1#8])] }
                tracker := { s.tracker with lines := t.tracker.lines }
                arbiter := { s.arbiter with marks := t.arbiter.marks }
                engine := { gone.engine with
                  buses := t.engine.buses, risers := t.engine.risers, sessions := t.engine.sessions }
                tickets := counted
                interp := { s.interp with
                  slots := t.interp.slots, fillingOrder := s.interp.fillingOrder ++ [slot] } })))) ∧
    ((busAt s b).retry = some r → r.timer.isSome = true → r.order = .riser n → s.engine.waiting = [] → room →
      ∃ t tag, exec (.releaseRetryTimerExpiry b) s = .next t ∧
        sent { kind := .riserRelease, shelf := n, bus := b, line := 0, owner := .retry b } 4#8
          [BitVec.ofNat 8 b, 0#8, 0#8] tag
          (modBus s b (fun x => { x with retry := some { r with timer := none, resends := r.resends + 1 } })) t)

/-! ### Measurement (chapter 6) -/

/-- A SAMPLE cell from no head, of a bus without a window or of another tag than its window's, a repeat, and one whose
voltage or current is the reserved −8,388,608 are dropped (R121, R122). Any other is accumulated: count, sums, last
eight pairs, AT_MOST from the overrange flag, silence timer (in whole ms: notes/assumptions/36.md); a settling window's
below clear falls with a voltage not below the CLEAR level, and the hazard run of a settling or FV window counts one
that reaches the DANGER level and is 0 after any other (R123, R124, R126). After a gap of 2 or more the samples lost,
one less than the gap, or one above 1,024, are added to the window's lost count and the head's running count (R122); a
running count above the target sets DEGRADED, in HOURLY mode exceeded-this-timebase, and a HEAD_DEGRADED ticket with the
count compared is made, reopened or updated (R139); that after a gap of several this is the first count above the target
is deduced (notes/assumptions/25.md). The fourth dangerous sample in a row is a hazard: window closed, verdict and
outcome HAZARD, an FV step's result NO_DATA, HEAD STOP with the last tag (notes/assumptions/18.md) and ACCESS RELEASE
queued, the bus in QUARANTINE for 2,000 ms (R105, R124, R127). The slot count (notes/assumptions/2.md), and that unused
payload octets are not read (55.md), are the model's. The sample with which a window has accounted for its samples, by
itself or by its gap's losses, ends it (R125). Complete: the ring to ground settling window is run, then the session is
MEASURING with its verdict, its first step run (R95, R96); a step's result is recorded, and the next step run, or after
the last the outcome is COMPLETE and ACCESS RELEASE requested (R97). With more than an eighth lost the window is run
again; the second time a step is recorded NO_DATA, the next being run, and a settling session, or one whose NO_DATA
count reaches 2, ends HEAD_SILENT. A window run takes the next step tag, its HEAD START joining (R119). -/
def Obligations.SampleAccumulated : Prop :=
  ∀ (s : State) (c : Cell), OwnArrives s .south c → c.kind = 0x32#8 →
    let dropped := giveSlot (runCleared s .south) .north
    ((∀ b : Nat, b ≤ 3 → c.src ≠ BitVec.ofNat 8 (0x30 + b)) → exec (.sample c) s = .next dropped) ∧
    ∀ (b seq : Nat) (w : Window) (v i : Int), b ≤ 3 → c.src = BitVec.ofNat 8 (0x30 + b) →
      (field2 c 0).toNat = seq → (field3 c 3).toInt = v → (field3 c 6).toInt = i →
      (windowAt s b = none → exec (.sample c) s = .next dropped) ∧
      (windowAt s b = some w → (payloadAt c 2).toNat ≠ w.tag ∨ v = -8388608 ∨ i = -8388608 ∨ w.lastSeq = some seq →
        exec (.sample c) s = .next dropped) ∧
      let misses := fun (lost : Nat) =>
        (lost = 0 ∧ (w.lastSeq = none ∨ ∃ l, l < 65536 ∧ w.lastSeq = some l ∧ seq = (l + 1) % 65536)) ∨
        ∃ l, l < 65536 ∧ w.lastSeq = some l ∧ 2 ≤ (seq + 65536 - l) % 65536 ∧
          lost = if (seq + 65536 - l) % 65536 ≤ 1024 then (seq + 65536 - l) % 65536 - 1 else 1
      let h := checkerAt s b
      let target := float8 (headAt s b).target
      let counts := fun (lost : Nat) (base : State) =>
        let run := min (h.running + lost) 4294967295
        let checked := fun (degraded : Bool) => putChecker dropped b { h with
          running := run, exceeded := h.exceeded || decide (target < run ∧ (headAt s b).mode = .hourly)
          degraded := degraded }
        let compared : Int := if h.running ≤ target then target + 1 else min (h.running + 1) 4294967295
        let becomes := fun (ts : List Ticket) => base = { checked true with tickets := { s.tickets with tickets := ts } }
        (lost = 0 ∧ base = dropped) ∨
        (0 < lost ∧ (run ≤ target ∨ h.degraded = true) ∧ base = checked h.degraded) ∨
        (0 < lost ∧ target < run ∧ h.degraded = false ∧ NoNotices s ∧
          ((∃ k, findTicket s (.head b) .headDegraded = none ∧ 240 ≤ k ∧ k < 256 ∧
            (∀ u ∈ s.tickets.tickets, u.id ≠ k) ∧ (∀ j, 240 ≤ j → j < k → ∃ u ∈ s.tickets.tickets, u.id = j) ∧
            becomes (s.tickets.tickets ++ [{
              id := k, subject := .head b, cls := .headDegraded, state := .opened, origin := .equipment
              opened := stampNow s, lastSeen := stampNow s, occurrences := 1, recurrences := 0, value := some compared
              dispatch := none, attached := none, acknowledged := false }])) ∨
           (∃ tk, findTicket s (.head b) .headDegraded = some tk ∧ tk.state ≠ .suspect ∧
            let seen : Ticket := { tk with
              lastSeen := stampNow s, occurrences := min (tk.occurrences + 1) 65535, value := some compared }
            becomes (s.tickets.tickets.map (fun u => if u.id = tk.id then
              (if tk.state = .cleared then
                { seen with state := .opened, recurrences := min (tk.recurrences + 1) 65535 } else seen) else u)))))
      ∀ (lost : Nat) (base : State), windowAt s b = some w → (payloadAt c 2).toNat = w.tag → v ≠ -8388608 →
        i ≠ -8388608 → misses lost → counts lost base →
        let took : Window := { w with
          taken := w.taken + 1, sumV := w.sumV + v, sumVV := w.sumVV + v * v, sumI := w.sumI + i, lastSeq := some seq
          tail := (if w.tail.length < 8 then w.tail else w.tail.drop 1) ++ [(v, i)], lost := w.lost + lost
          hazardRun := if w.kind ∈ [.settling, .fv] then
            (if s.tables.danger ≤ v.natAbs then w.hazardRun + 1 else 0) else w.hazardRun
          belowClear := w.belowClear && decide (w.kind = .settling → v.natAbs < s.tables.clear)
          atMost := w.atMost || (payloadAt c 9).getLsbD 0
          silence := some ((8 * w.interval + 5000 + 999) / 1000) }
        (took.hazardRun < 4 → took.taken + took.lost < w.sized →
          exec (.sample c) s = .next (putWindow base b (some took))) ∧
        (∀ id x, w.hazardRun = 3 → s.tables.danger ≤ v.natAbs →
          (busAt s b).holder = .session id → sessionAt s id = some x → x.bus = some b → x.outcome = none →
          NoRequests s → NoNotices s → s.engine.orders.length < 16 → s.engine.waiting = [] →
          s.ports.southBacklog = [] → s.ports.southQueue.length ≤ 30 →
          let otag := nextOrderTag s
          let n := x.line / 256
          let ends := fun (y : Session) => ∃ t, exec (.sample c) s = .next t ∧
            sessionAt t id = some { y with
              verdict := .hazard, outcome := some .hazard, state := .releasing, accessReleased := false } ∧
            (∀ k, k ≠ id → sessionAt t k = sessionAt s k) ∧
            windowAt t b = none ∧ (∀ k, k ≠ b → windowAt t k = windowAt s k) ∧
            busAt t b = { busAt s b with state := .quarantine, quarantine := some 2000 } ∧
            (∀ k, k ≠ b → busAt t k = busAt s k) ∧
            t = { base with
              ports := { base.ports with southQueue := s.ports.southQueue ++ [
                makeCell 0x31#8 (own s) (BitVec.ofNat 8 (0x30 + b)) [2#8, BitVec.ofNat 8 ((busAt s b).nextTag + 255)],
                makeCell 0x21#8 (own s) (BitVec.ofNat 8 (0x10 + n))
                  ([BitVec.ofNat 8 otag, 3#8, 0#8] ++ octets2 x.line)] }
              engine := { s.engine with
                sessions := t.engine.sessions, buses := t.engine.buses, candidate := (otag + 1) % 256
                orders := s.engine.orders ++ [{
                  tag := otag
                  order := { kind := .accessRelease, shelf := n, bus := 0, line := x.line, owner := .session id }
                  timer := some 40 }] }
              meas := { base.meas with windows := t.meas.windows } }
          n ≤ 15 →
          (x.state = .settling → w.kind = .settling → ends x) ∧
          (∀ taken, x.state = .measuring → w.kind = .fv →
            (programAt s x.program).steps[x.step]? = some (.fv w.leg taken) →
            ends { x with
              results := x.results.set x.step (blankResult .noData .fv (some w.leg) x.repeated) })) ∧
        (∀ id x, took.hazardRun < 4 → w.sized ≤ took.taken + took.lost →
          (busAt s b).holder = .session id → sessionAt s id = some x → x.bus = some b → x.outcome = none →
          (busAt s b).nextTag < 256 → s.engine.orders.length < 16 → s.engine.waiting = [] → s.ports.southBacklog = [] →
          s.ports.southQueue.length ≤ 30 →
          let otag := nextOrderTag s
          let n := x.line / 256
          let step := (busAt s b).nextTag
          let interval := (headAt s b).interval
          let ringing := (shelfAt s n).ringing
          let shape := fun (st : ProgramStep) => match st with
            | .fv leg k => some (WindowKind.fv, leg, (0 : Int), k)
            | .res leg u k => some (WindowKind.res, leg, u, k)
            | .cap leg u k => some (WindowKind.cap, leg, u, k)
            | .dial _ => none
          let ended := fun (y : Session) (t : State) => exec (.sample c) s = .next t ∧ sessionAt t id = some y ∧
            (∀ k, k ≠ id → sessionAt t k = sessionAt s k) ∧ (∀ k, k ≠ b → windowAt t k = windowAt s k)
          let opens := fun (y : Session) (p : WindowKind × Leg × Int × Nat) => ∃ t, ended y t ∧
            let sized := if p.1 = .settling then 16 else if ringing = 0 then p.2.2.2 else 2 * p.2.2.2
            windowAt t b = some {
              tag := step, kind := p.1, leg := p.2.1, line := x.line, sized := sized, interval := interval, taken := 0
              sumV := 0, sumVV := 0, sumI := 0, tail := [], lastSeq := none, lost := 0
              ringingMax := if p.1 = .settling then 0 else ringing
              hazardRun := 0, belowClear := true, atMost := false, silence := some ((8 * interval + 5000 + 999) / 1000) } ∧
            busAt t b = { busAt s b with nextTag := (step + 1) % 256 } ∧ (∀ k, k ≠ b → busAt t k = busAt s k) ∧
            t = { base with
              ports := { base.ports with southQueue := s.ports.southQueue ++ [
                makeCell 0x31#8 (own s) (BitVec.ofNat 8 (0x30 + b)) ([1#8, BitVec.ofNat 8 step,
                  BitVec.ofNat 8 (legCode p.2.1)] ++ octets3s p.2.2.1 ++ octets2 sized ++ octets2 interval)] }
              engine := { s.engine with buses := t.engine.buses, sessions := t.engine.sessions }
              meas := { base.meas with windows := t.meas.windows } }
          let releases := fun (y : Session) (stop : List Cell) => ∃ t,
            ended { y with state := .releasing, accessReleased := false } t ∧ windowAt t b = none ∧
            t = { base with
              ports := { base.ports with southQueue := s.ports.southQueue ++ stop ++ [
                makeCell 0x21#8 (own s) (BitVec.ofNat 8 (0x10 + n))
                  ([BitVec.ofNat 8 otag, 3#8, 0#8] ++ octets2 x.line)] }
              engine := { s.engine with
                sessions := t.engine.sessions, candidate := (otag + 1) % 256
                orders := s.engine.orders ++ [{
                  tag := otag
                  order := { kind := .accessRelease, shelf := n, bus := 0, line := x.line, owner := .session id }
                  timer := some 40 }] }
              meas := { base.meas with windows := t.meas.windows } }
          let silent := fun (y : Session) => releases { y with outcome := some .headSilent }
            [makeCell 0x31#8 (own s) (BitVec.ofNat 8 (0x30 + b)) [2#8, BitVec.ofNat 8 (step + 255)]]
          let steps := (programAt s x.program).steps
          let goesOn := fun (y : Session) =>
            (∀ st p, steps[x.step + 1]? = some st → shape st = some p →
              opens { y with step := x.step + 1, repeated := false } p) ∧
            (steps.length ≤ x.step + 1 → releases { y with outcome := some .complete } [])
          (x.state = .settling → w.kind = .settling →
            (took.lost ≤ w.sized / 8 → x.ringGround = false →
              opens { x with ringGround := true, belowSoFar := took.belowClear, repeated := false }
                (.settling, .ringGround, 0, 16)) ∧
            (took.lost ≤ w.sized / 8 → x.ringGround = true → ∀ st p, steps[0]? = some st → shape st = some p →
              opens { x with
                state := .measuring, repeated := false, step := 0
                verdict := if x.belowSoFar = true ∧ took.belowClear = true then .clear else .unqualified } p) ∧
            (w.sized / 8 < took.lost → x.repeated = false → opens { x with repeated := true }
              (.settling, if x.ringGround = true then .ringGround else .tipGround, 0, 16)) ∧
            (w.sized / 8 < took.lost → x.repeated = true → silent x)) ∧
          (x.state = .measuring → w.kind ≠ .settling →
            (took.lost ≤ w.sized / 8 → ∀ r : StepResult,
              (w.kind, r) ∈ [(WindowKind.fv, fvResult took), (.res, resResult took), (.cap, capResult s took)] →
              goesOn { x with noData := 0, results := x.results.set x.step { r with retried := x.repeated } }) ∧
            (∀ st p, steps[x.step]? = some st → shape st = some p → w.sized / 8 < took.lost →
              let y := { x with
                noData := x.noData + 1
                results := x.results.set x.step (blankResult .noData (stepShape st).1 (some p.2.1) true) }
              (x.repeated = false → opens { x with repeated := true } p) ∧
              (x.repeated = true → x.noData = 0 → goesOn y) ∧
              (x.repeated = true → 1 ≤ x.noData → silent y))))

/-- The timers of the measurement unit. A silence timer that runs out ends its window, and a settling session's with
HEAD_SILENT, its release begun (R95, R126). A digit timer completes the digit in progress (R135, R136). A DIAL
session's 20 s with no digit end it NO_DIGITS, its line FREE (R110, R137). A timebase timer restarts, and in HOURLY
mode passes the running count to the latched count, a kept target clearing DEGRADED (R140, R141). That an expiry row
acts on a running timer, whatever it has left, is the model's choice (notes/assumptions/34.md). -/
def Obligations.MeasurementTimers : Prop :=
  ∀ (s : State) (b : Fin 4) (k : Fin 8) (w : Window) (x : Session) (slot : Nat), Awake s → NoRequests s → NoNotices s →
    let c := collectorAt s k
    let h := checkerAt s b
    (windowAt s b = some w → w.silence.isSome = true → (busAt s b).holder = .none →
      exec (.silenceTimerExpiry b) s = .next (putWindow s b none)) ∧
    (windowAt s b = some w → w.silence.isSome = true → (busAt s b).holder = .session k → sessionAt s k = some x →
      x.state = .settling → x.bus = some b.val → x.outcome = none →
      ∃ t, exec (.silenceTimerExpiry b) s = .next t ∧ windowAt t b = none ∧
        sessionAt t k = some { x with outcome := some .headSilent, state := .releasing, accessReleased := false } ∧
        (∀ j, j ≠ k.val → sessionAt t j = sessionAt s j) ∧ t.tracker.lines = s.tracker.lines ∧
        t.arbiter = s.arbiter ∧ t.tickets = s.tickets ∧ t.interp = s.interp ∧ t.tables = s.tables) ∧
    (sessionAt s k = some x → c.timer.isSome = true → c.pending = none → 1 ≤ c.breaks → c.digits.length + 1 < c.limit →
      (2 ≤ c.breaks → (c.latestStart + 65536 - c.firstStart) % 65536 ≠ 0) →
      let span := (c.latestStart + 65536 - c.firstStart) % 65536
      exec (.digitTimerExpiry k) s = .next (putCollector s k { c with
        timer := none, breaks := 0, firstStart := 0, latestStart := 0, latestLength := 0, earlierSum := 0
        digits := c.digits ++ [{
          value := if c.breaks ≤ 9 then some c.breaks else if c.breaks = 10 then some 0 else none
          timing := if c.breaks = 1 then none else some ((20000 * (c.breaks - 1) + span) / (2 * span),
            (200 * c.earlierSum + span) / (2 * span)) }] })) ∧
    (sessionAt s k = some x → x.dialTimer.isSome = true → x.bus = none → x.cls = .demand → x.verdict = .notJudged →
      x.slot = some slot → x.requesters ≠ [] → x.outcome = none → c.phase ≠ .closed → c.digits = [] → c.breaks = 0 →
      c.pending = none → 1 ≤ c.limit →
      ∃ t r, exec (.dialSessionTimerExpiry k) s = .next t ∧ sessionAt t k = none ∧ markOf t x.line = .free ∧
        (lineOf t x.line).blocked = (if markOf s x.line = .free then (lineOf s x.line).blocked else false) ∧
        (collectorAt t k).phase = .closed ∧
        slotAt t slot = .filled r (x.requesters.map (fun y => { unit := y.unit, tag := y.tag })) 0 ∧
        r.outcome = .noDigits ∧ r.line = x.line ∧ r.session = some k.val ∧ r.failed = [] ∧ r.actions = [] ∧
        (∀ j, j ≠ k.val → sessionAt t j = sessionAt s j) ∧ t.tickets = s.tickets ∧ t.engine.buses = s.engine.buses) ∧
    ((headAt s b).mode = .continuous →
      exec (.timebaseTimerExpiry b) s = .next (putChecker s b { h with timer := 3600000 })) ∧
    ((headAt s b).mode = .hourly → h.running ≤ float8 (headAt s b).target → (∀ u ∈ s.tickets.tickets, u.subject ≠ .head b) →
      exec (.timebaseTimerExpiry b) s = .next (putChecker s b { h with
        latched := h.running, running := 0, timer := 3600000, exceeded := false
        degraded := h.degraded && h.exceeded }))

/-- A float8 target is the floor of m times 16 to the power e less one, m and e its high and low four bits: 0 for an
exponent of 0, m for an exponent of 1, 0 for a mantissa of 0, and the values of the examples. A target whose value is
above 4,294,967,295 is never exceeded: lost samples then only add to the running count (R138). -/
def Obligations.TargetValue : Prop :=
  (∀ t : Octet, let m := (t >>> 4).toNat; let e := (t &&& 0x0F#8).toNat
    float8 t = (if e = 0 then m / 16 else m * 16 ^ (e - 1)) ∧ (e = 0 → float8 t = 0) ∧ (e = 1 → float8 t = m) ∧
      (m = 0 → float8 t = 0)) ∧
  float8 0x00#8 = 0 ∧ float8 0x41#8 = 4 ∧ float8 0x53#8 = 1280 ∧ float8 0xA4#8 = 40960 ∧
  float8 0xFF#8 = 15 * 16 ^ 14 ∧
  (∀ (s : State) (h lost : Nat), 4294967295 < float8 (headAt s h).target → 0 < lost →
    countLost s h lost = putChecker s h { checkerAt s h with
      running := min ((checkerAt s h).running + lost) 4294967295 })

/-- The values of a window that completes, n samples accumulated. FV: VALUE, DC the mean voltage rounded half away from
zero, AC the integer square root of the floored variance (R128). RES: by the four tests of R129, taken in order, on the
sums; the value, where there is one, lies within 0 to 100,000,000 ohm (R129). CAP: INVALID for a settled voltage below
1,000 mV; otherwise C from the charge above the leakage, 0 for no charge, 0 with NEGATIVE for one against the voltage,
at most 10,000,000 pF with OVER, and the length from the line's capacitance per km, at most 99,999 m (R131, R132).
The verdicts on a record: each resistance class and OPEN_LOOP fails by its least judging value below the limit, passes
on judging values none of which is, and is NOT_JUDGED without one (R145, R147); FOREIGN_DC and FOREIGN_AC fail above
their limits, FOREIGN_DC also for a FOREIGN RES result, and pass only with every FV step's result VALUE (R146);
DIAL_FAULT by the digits with a timing (R148), CROSS_HAZARD by the settling verdict (R149). A record's failed classes
are those judged FAIL, in class order, by the profile the line's directory entry names; its actions are at most four
(R150), and the HAZARD_HOLD of its line alone follows its CROSS_HAZARD verdict (R156). That a RESTARTED record all of
whose steps are NOT_RUN has no CROSS_HAZARD verdict is deduced from R165 (notes/assumptions/42.md). -/
def Obligations.ResistanceTests : Prop :=
  (∀ (s : State) (w : Window),
    let n := w.taken
    let v := w.sumV.natAbs
    let i := w.sumI.natAbs
    let half := fun (a k : Nat) => (2 * a + k) / (2 * k)
    let away := fun (a : Int) (k : Nat) => if a < 0 then -(half a.natAbs k : Int) else (half a.natAbs k : Int)
    let carries := fun (x : StepResult) (k : StepKind) => x.kind = k ∧ x.leg = some w.leg ∧ x.sized = w.sized ∧
      x.taken = n ∧ x.lost = w.lost ∧ x.atMost = w.atMost ∧ (x.noisy = true ↔ 8 ≤ w.ringingMax) ∧ x.digits = []
    (let x := fvResult w
     let spread : Int := n * w.sumVV - w.sumV * w.sumV
     1 ≤ n → 0 ≤ spread → spread.toNat / (n * n) < 2 ^ 64 →
      carries x .fv ∧ x.status = .value ∧ x.dc = away w.sumV n ∧
      x.ac * x.ac ≤ spread.toNat / (n * n) ∧ spread.toNat / (n * n) < (x.ac + 1) * (x.ac + 1)) ∧
    (let x := resResult w
     let r := half (v * 1000000) i
     carries x .res ∧
     (v < n * 1000 → x.status = .invalid ∧ x.resistance = 0 ∧ x.openLimit = false) ∧
     (n * 1000 ≤ v → w.sumI = 0 ∨ (0 < w.sumI ∧ w.sumV < 0) ∨ (w.sumI < 0 ∧ 0 < w.sumV) →
       x.status = .foreign ∧ x.resistance = 0 ∧ x.openLimit = false) ∧
     (n * 1000 ≤ v → (0 < w.sumI ∧ 0 < w.sumV) ∨ (w.sumI < 0 ∧ w.sumV < 0) →
       x.status = .value ∧
       (i < n → x.resistance = 100000000 ∧ x.openLimit = true) ∧
       (n ≤ i → r ≤ 100000000 → x.resistance = r ∧ x.openLimit = false) ∧
       (n ≤ i → 100000000 < r → x.resistance = 100000000 ∧ x.openLimit = true)) ∧
     x.resistance ≤ 100000000) ∧
    (∀ d, directoryAt s w.line = some d → 8 ≤ n →
      let x := capResult s w
      let profile := profileAt s d.profile
      let km := if w.leg = .tipRing then profile.capTipRing else profile.capLegGround
      let tail := (w.tail.map (·.2)).sum
      let charge := (w.sumI - tail - ((n : Int) - 8) * away tail 8) * w.interval
      let settled := away ((w.tail.map (·.1)).sum) 8
      let c := half charge.natAbs settled.natAbs
      carries x .cap ∧
      (settled.natAbs < 1000 →
        x.status = .invalid ∧ x.capacitance = 0 ∧ x.length = 0 ∧ x.negative = false ∧ x.clamped = false) ∧
      (1000 ≤ settled.natAbs → 0 < km →
        x.status = .value ∧ x.length = min (x.capacitance * 1000 / km) 99999 ∧
        (charge = 0 → x.capacitance = 0 ∧ x.negative = false ∧ x.clamped = false) ∧
        ((0 < charge ∧ settled < 0) ∨ (charge < 0 ∧ 0 < settled) →
          x.capacitance = 0 ∧ x.negative = true ∧ x.clamped = false) ∧
        ((0 < charge ∧ 0 < settled) ∨ (charge < 0 ∧ settled < 0) → x.negative = false ∧
          (c ≤ 10000000 → x.capacitance = c ∧ x.clamped = false) ∧
          (10000000 < c → x.capacitance = 10000000 ∧ x.clamped = true))))) ∧
  (∀ (p : Profile) (rs : List StepResult) (v : SettlingVerdict),
    let valued := fun (k : StepKind) (r : StepResult) => r ∈ rs ∧ r.kind = k ∧ r.status = .value
    let on := fun (k : StepKind) (l : Leg) (r : StepResult) => valued k r ∧ r.leg = some l
    let least := fun (c : FaultClass) (judges : StepResult → Prop) (value : StepResult → Nat) (limit : Nat) =>
      (∀ r, judges r → value r < limit → (∀ q, judges q → value r ≤ value q) →
        judge p rs v c = .fail (some (value r))) ∧
      ((∃ r, judges r) → (∀ r, judges r → limit ≤ value r) → judge p rs v c = .pass) ∧
      ((∀ r, ¬ judges r) → judge p rs v c = .notJudged)
    let measured := (∃ r ∈ rs, r.kind = .fv) ∧ ∀ r ∈ rs, r.kind = .fv → r.status = .value
    let direct := fun (r : StepResult) => valued .fv r ∧ p.foreignDc < r.dc.natAbs
    let alternating := fun (r : StepResult) => valued .fv r ∧ p.foreignAc < r.ac
    let foreign := ∃ r ∈ rs, r.kind = .res ∧ r.status = .foreign
    let timed := fun (speed ratio : Nat) => ∃ r ∈ rs, ∃ d ∈ r.digits, d.timing = some (speed, ratio)
    let within := fun (speed ratio : Nat) =>
      p.speedMin ≤ speed ∧ speed ≤ p.speedMax ∧ p.ratioMin ≤ ratio ∧ ratio ≤ p.ratioMax
    least .tipGround (on .res .tipGround) (·.resistance) p.ground ∧
    least .ringGround (on .res .ringGround) (·.resistance) p.ground ∧
    least .short (on .res .tipRing) (·.resistance) p.short ∧
    least .lowInsulation (fun r => on .res .tipRing r ∧ p.short ≤ r.resistance) (·.resistance) p.insulation ∧
    least .openLoop (fun r => on .cap .tipRing r ∧ r.negative = false) (·.length) p.minLength ∧
    ((∃ r, direct r) → ∃ r, direct r ∧ (∀ q, direct q → q.dc.natAbs ≤ r.dc.natAbs) ∧
      judge p rs v .foreignDc = .fail (some r.dc)) ∧
    ((∀ r, ¬ direct r) → foreign → judge p rs v .foreignDc = .fail none) ∧
    ((∀ r, ¬ direct r) → ¬ foreign → measured → judge p rs v .foreignDc = .pass) ∧
    ((∀ r, ¬ direct r) → ¬ foreign → ¬ measured → judge p rs v .foreignDc = .notJudged) ∧
    (∀ r, alternating r → (∀ q, alternating q → q.ac ≤ r.ac) → judge p rs v .foreignAc = .fail (some r.ac)) ∧
    ((∀ r, ¬ alternating r) → measured → judge p rs v .foreignAc = .pass) ∧
    ((∀ r, ¬ alternating r) → ¬ measured → judge p rs v .foreignAc = .notJudged) ∧
    (∀ speed ratio, timed speed ratio → ¬ within speed ratio → judge p rs v .dialFault = .fail none) ∧
    ((∃ speed ratio, timed speed ratio) → (∀ speed ratio, timed speed ratio → within speed ratio) →
      judge p rs v .dialFault = .pass) ∧
    ((∀ speed ratio, ¬ timed speed ratio) → judge p rs v .dialFault = .notJudged) ∧
    (v = .hazard → judge p rs v .crossHazard = .fail none) ∧ (v = .clear → judge p rs v .crossHazard = .pass) ∧
    (v ∈ [.unqualified, .notJudged] → judge p rs v .crossHazard = .notJudged)) ∧
  (∀ (s : State) (r : ResultRecord) (d : DirectoryEntry) (settling : SettlingVerdict),
    directoryAt s r.line = some d →
    let v := if r.outcome = .restarted ∧ ∀ x ∈ r.results, x.status = .notRun then .notJudged else settling
    let verdict := judge (profileAt s d.profile) r.results v
    let t := (classify s r settling).1
    let done := (classify s r settling).2
    done.failed.map (·.1) = [.tipGround, .ringGround, .short, .lowInsulation, .foreignDc, .foreignAc, .openLoop,
      .dialFault, .crossHazard].filter (fun c => verdict c ≠ .pass ∧ verdict c ≠ .notJudged) ∧
    done.actions.length ≤ 4 ∧ done = { r with failed := done.failed, actions := done.actions } ∧
    holdOf t r.line = (if v = .hazard then true else if v = .clear then false else holdOf s r.line) ∧
    ∀ k, k ≠ r.line → holdOf t k = holdOf s k)
end

