-- ==== Sys2Proof/Laws/Codes.lean ====
section
/-! SUPPORT. The codes of named values without a row in the code table of R211: from 1 up to how many names there are,
and different for different names, whatever their order. -/

namespace Sys2Proof.Machine.Config

theorem ordering_perm {α : Type} (names : List α) (order : Nat) : (ordering names order).Perm names := by
  induction names generalizing order with
  | nil => exact .nil
  | cons x rest ih =>
    have h := ih (order / (rest.length + 1))
    have hl : order % (rest.length + 1) ≤ (ordering rest (order / (rest.length + 1))).length := by
      rw [h.length_eq]
      exact Nat.le_of_lt_succ (Nat.mod_lt _ (Nat.succ_pos _))
    exact (List.perm_insertIdx x _ hl).trans (h.cons x)

/-- A named value is coded from 1 (R211). -/
theorem namedCode_pos {α : Type} [BEq α] (names : List α) (order : Nat) (x : α) : 1 ≤ namedCode names order x :=
  Nat.le_add_right _ _

section
variable {α : Type} [BEq α] [LawfulBEq α] {names : List α} {x y : α}

theorem namedCode_le (order : Nat) (hx : x ∈ names) : namedCode names order x ≤ names.length := by
  have h := (ordering_perm names order).length_eq
  have := List.idxOf_lt_length_of_mem ((ordering_perm names order).mem_iff.2 hx)
  unfold namedCode
  omega

theorem namedCode_inj (order : Nat) (hx : x ∈ names) (h : namedCode names order x = namedCode names order y) :
    x = y :=
  (List.idxOf_inj ((ordering_perm names order).mem_iff.2 hx)).1 (Nat.add_left_cancel h)

/-- A code that fits its field is read back. -/
theorem namedCode_field (w order : Nat) (hx : x ∈ names) (hw : names.length < 2 ^ w) :
    (BitVec.ofNat w (namedCode names order x)).toNat = namedCode names order x := by
  rw [BitVec.toNat_ofNat]
  exact Nat.mod_eq_of_lt (Nat.lt_of_le_of_lt (namedCode_le order hx) hw)

/-- Different names have different codes in a field they fit. -/
theorem namedCode_field_inj (w order : Nat) (hx : x ∈ names) (hy : y ∈ names) (hw : names.length < 2 ^ w)
    (h : BitVec.ofNat w (namedCode names order x) = BitVec.ofNat w (namedCode names order y)) : x = y := by
  have h := congrArg BitVec.toNat h
  rw [namedCode_field w order hx hw, namedCode_field w order hy hw] at h
  exact namedCode_inj order hx h

end

theorem markCode_range (m : Mark) : 1 ≤ (markCode m).toNat ∧ (markCode m).toNat ≤ 4 := by
  have hm : m ∈ [Mark.free, .reserved, .inSession, .lockedOut] := by cases m <;> decide
  rw [markCode, namedCode_field 8 markOrder hm (by decide)]
  exact ⟨namedCode_pos _ _ _, namedCode_le markOrder hm⟩

theorem markCode_inj {m n : Mark} (h : markCode m = markCode n) : m = n :=
  namedCode_field_inj 8 markOrder (by cases m <;> decide) (by cases n <;> decide) (by decide) h

theorem delineationCode_inj {m n : Delineation} (h : delineationCode m = delineationCode n) : m = n :=
  namedCode_field_inj 8 delineationOrder (by cases m <;> decide) (by cases n <;> decide) (by decide) h

theorem calendarStateCode_inj {m n : Bool} (h : calendarStateCode m = calendarStateCode n) : m = n :=
  namedCode_field_inj 8 calendarStateOrder (by cases m <;> decide) (by cases n <;> decide) (by decide) h

theorem timebaseModeCode_inj {m n : TimebaseMode} (h : timebaseModeCode m = timebaseModeCode n) : m = n :=
  namedCode_field_inj 8 timebaseModeOrder (by cases m <;> decide) (by cases n <;> decide) (by decide) h

theorem classCode_inj {m n : Bool} (h : classCode m = classCode n) : m = n :=
  namedCode_field_inj 8 requestClassOrder (by cases m <;> decide) (by cases n <;> decide) (by decide) h

theorem originCode_inj {m n : Origin} (h : originCode m = originCode n) : m = n :=
  namedCode_field_inj 8 originOrder (by cases m <;> decide) (by cases n <;> decide) (by decide) h

/-- The state of a riser toward a bus is not coded 0 (R214: 0 for none). -/
theorem riserStateCode_range (u : Bool) : 1 ≤ (riserStateCode u).toNat ∧ (riserStateCode u).toNat ≤ 3 := by
  have hm : (if u then RiserName.unknown else .operated) ∈ [RiserName.free, .operated, .unknown] := by
    cases u <;> decide
  rw [riserStateCode, namedCode_field 4 riserStateOrder hm (by decide)]
  exact ⟨namedCode_pos _ _ _, namedCode_le riserStateOrder hm⟩

theorem riserStateCode_inj {u v : Bool} (h : riserStateCode u = riserStateCode v) : u = v := by
  have h := namedCode_field_inj 4 riserStateOrder (x := if u then RiserName.unknown else .operated)
    (y := if v then RiserName.unknown else .operated) (by cases u <;> decide) (by cases v <;> decide) (by decide) h
  revert h
  cases u <;> cases v <;> decide

/-- UNKNOWN is coded as none of the hook states of the row. -/
theorem unknownHookCode_range : 5 ≤ unknownHookCode.toNat := by
  rw [unknownHookCode, BitVec.toNat_ofNat]
  omega

end Sys2Proof.Machine.Config
end

