-- ==== Sys2Proof/Laws/Tab.lean ====
section
/-! SUPPORT. The laws of the numbered tables: an entry reads back as written, a write leaves every other entry
alone, and the form in which entries are listed is kept. -/

namespace Sys2Proof.Machine

variable {α : Type}

@[simp] theorem tabGet_nil (d : α) (k : Nat) : tabGet d [] k = d := rfl

theorem tabGet_tabDrop (d : α) (t : Tab α) (k j : Nat) :
    tabGet d (tabDrop t k) j = if j = k then d else tabGet d t j := by
  induction t with
  | nil => simp [tabDrop]
  | cons x rest ih =>
    obtain ⟨i, v⟩ := x
    by_cases hi : i = k
    · subst hi
      simp only [tabDrop, if_true, ih, tabGet]
      by_cases hj : j = i
      · simp [hj]
      · simp [hj, Ne.symm hj]
    · simp only [tabDrop, hi, if_false, tabGet, ih]
      by_cases hij : i = j
      · subst hij; simp [hi]
      · simp [hij]

theorem tabGet_tabInsert (d : α) (t : Tab α) (k j : Nat) (v : α) :
    tabGet d (tabInsert (tabDrop t k) k v) j = if j = k then v else tabGet d t j := by
  have key : ∀ u : Tab α, (∀ x ∈ u, x.1 ≠ k) →
      tabGet d (tabInsert u k v) j = if j = k then v else tabGet d u j := by
    intro u
    induction u with
    | nil => intro _; by_cases hj : j = k <;> simp [tabInsert, tabGet, hj, Ne.symm]
    | cons x rest ih =>
      intro hu
      obtain ⟨i, w⟩ := x
      have hik : i ≠ k := hu (i, w) (by simp)
      have hrest := ih (fun y hy => hu y (by simp [hy]))
      simp only [tabInsert]
      split
      · by_cases hj : j = k
        · subst hj; simp [tabGet]
        · simp [tabGet, hj, Ne.symm hj]
      · simp only [tabGet, hrest]
        by_cases hij : i = j
        · subst hij; simp [hik]
        · simp [hij]
  rw [key]
  · by_cases hj : j = k
    · simp [hj]
    · simp [hj, tabGet_tabDrop]
  · intro x hx
    induction t with
    | nil => simp [tabDrop] at hx
    | cons y rest ih =>
      obtain ⟨i, w⟩ := y
      simp only [tabDrop] at hx
      split at hx
      · exact ih hx
      · rcases List.mem_cons.1 hx with rfl | hx
        · assumption
        · exact ih hx

/-- An entry reads back as written, and every other entry reads as before. -/
theorem tabGet_tabPut [DecidableEq α] (d : α) (t : Tab α) (k j : Nat) (v : α) :
    tabGet d (tabPut d t k v) j = if j = k then v else tabGet d t j := by
  unfold tabPut
  split
  · subst_vars; exact tabGet_tabDrop _ _ _ _
  · exact tabGet_tabInsert d t k j v

@[simp] theorem tabGet_tabPut_same [DecidableEq α] (d : α) (t : Tab α) (k : Nat) (v : α) :
    tabGet d (tabPut d t k v) k = v := by simp [tabGet_tabPut]

theorem tabGet_tabPut_other [DecidableEq α] (d : α) (t : Tab α) {k j : Nat} (v : α) (h : j ≠ k) :
    tabGet d (tabPut d t k v) j = tabGet d t j := by simp [tabGet_tabPut, h]

theorem tabGet_tabMod [DecidableEq α] (d : α) (t : Tab α) (k j : Nat) (f : α → α) :
    tabGet d (tabMod d t k f) j = if j = k then f (tabGet d t k) else tabGet d t j := tabGet_tabPut ..

@[simp] theorem tabGet_tabMod_same [DecidableEq α] (d : α) (t : Tab α) (k : Nat) (f : α → α) :
    tabGet d (tabMod d t k f) k = f (tabGet d t k) := tabGet_tabPut_same ..

/-! ### The listed form -/

theorem tabDrop_sublist (t : Tab α) (k : Nat) : (tabDrop t k).Sublist t := by
  induction t with
  | nil => simp [tabDrop]
  | cons x rest ih =>
    obtain ⟨i, w⟩ := x
    simp only [tabDrop]
    split
    · exact ih.trans (List.sublist_cons_self _ _)
    · exact ih.cons_cons _

theorem tabDrop_rising (t : Tab α) (k : Nat) (h : tabRising t) : tabRising (tabDrop t k) :=
  List.Pairwise.sublist ((tabDrop_sublist t k).map _) h

theorem mem_tabDrop_ne (t : Tab α) (k : Nat) : ∀ x ∈ tabDrop t k, x.1 ≠ k := by
  induction t with
  | nil => simp [tabDrop]
  | cons y rest ih =>
    obtain ⟨i, w⟩ := y
    intro x hx
    simp only [tabDrop] at hx
    split at hx
    · exact ih x hx
    · rcases List.mem_cons.1 hx with rfl | hx
      · assumption
      · exact ih x hx

theorem mem_tabInsert {x : Nat × α} {t : Tab α} {k : Nat} {v : α} (h : x ∈ tabInsert t k v) :
    x = (k, v) ∨ x ∈ t := by
  induction t with
  | nil => simpa [tabInsert] using h
  | cons y rest ih =>
    obtain ⟨i, w⟩ := y
    simp only [tabInsert] at h
    split at h
    · simpa using h
    · rcases List.mem_cons.1 h with rfl | h
      · simp
      · rcases ih h with h | h <;> simp [h]

theorem tabInsert_rising (t : Tab α) (k : Nat) (v : α) (hk : ∀ x ∈ t, x.1 ≠ k) (h : tabRising t) :
    tabRising (tabInsert t k v) := by
  induction t with
  | nil => simp [tabInsert, tabRising]
  | cons y rest ih =>
    obtain ⟨i, w⟩ := y
    have h' : (∀ j ∈ rest.map (·.1), i < j) ∧ tabRising rest := by
      simpa [tabRising] using h
    have hik : i ≠ k := hk (i, w) (by simp)
    simp only [tabInsert]
    split
    · rename_i hlt
      simp only [tabRising, List.map_cons, List.pairwise_cons, List.mem_cons]
      refine ⟨?_, ?_⟩
      · rintro j (rfl | hj)
        · exact hlt
        · exact Nat.lt_trans hlt (h'.1 j hj)
      · simpa [tabRising] using h
    · rename_i hge
      have hr := ih (fun x hx => hk x (by simp [hx])) h'.2
      simp only [tabRising, List.map_cons, List.pairwise_cons]
      refine ⟨?_, hr⟩
      intro j hj
      obtain ⟨x, hx, rfl⟩ := List.mem_map.1 hj
      rcases mem_tabInsert hx with rfl | hx
      · exact Nat.lt_of_le_of_ne (Nat.le_of_not_lt hge) hik
      · exact h'.1 _ (List.mem_map_of_mem hx)

/-- A write keeps the numbers of a table rising. -/
theorem tabPut_rising [DecidableEq α] (d : α) (t : Tab α) (k : Nat) (v : α) (h : tabRising t) :
    tabRising (tabPut d t k v) := by
  unfold tabPut
  split
  · exact tabDrop_rising t k h
  · exact tabInsert_rising _ k v (mem_tabDrop_ne t k) (tabDrop_rising t k h)

theorem tabMod_rising [DecidableEq α] (d : α) (t : Tab α) (k : Nat) (f : α → α) (h : tabRising t) :
    tabRising (tabMod d t k f) := tabPut_rising _ _ _ _ h

/-- No listed entry holds the shared value. -/
theorem tabPut_listed [DecidableEq α] (d : α) (t : Tab α) (k : Nat) (v : α) (h : ∀ x ∈ t, x.2 ≠ d) :
    ∀ x ∈ tabPut d t k v, x.2 ≠ d := by
  intro x hx
  unfold tabPut at hx
  split at hx
  · exact h x ((tabDrop_sublist t k).subset hx)
  · rcases mem_tabInsert hx with rfl | hx
    · assumption
    · exact h x ((tabDrop_sublist t k).subset hx)

/-! ### Counting entries -/

theorem countP_tabInsert (P : Nat × α → Bool) (t : Tab α) (k : Nat) (v : α) :
    (tabInsert t k v).countP P = t.countP P + (if P (k, v) then 1 else 0) := by
  induction t with
  | nil => simp [tabInsert, List.countP_cons]
  | cons y rest ih =>
    obtain ⟨i, w⟩ := y
    simp only [tabInsert]
    split
    · simp [List.countP_cons]
    · simp only [List.countP_cons, ih]; omega

theorem tabDrop_eq_self (t : Tab α) (k : Nat) (h : ∀ x ∈ t, x.1 ≠ k) : tabDrop t k = t := by
  induction t with
  | nil => rfl
  | cons y rest ih =>
    obtain ⟨i, w⟩ := y
    have := h (i, w) (by simp)
    simp only [tabDrop, this, if_false]
    rw [ih (fun x hx => h x (by simp [hx]))]

theorem tabGet_of_not_mem (d : α) (t : Tab α) (k : Nat) (h : ∀ x ∈ t, x.1 ≠ k) : tabGet d t k = d := by
  induction t with
  | nil => rfl
  | cons y rest ih =>
    obtain ⟨i, w⟩ := y
    have := h (i, w) (by simp)
    simp only [tabGet, this, if_false]
    exact ih (fun x hx => h x (by simp [hx]))

theorem countP_tabDrop (d : α) (P : Nat × α → Bool) (t : Tab α) (k : Nat) (ht : tabRising t)
    (hd : P (k, d) = false) :
    (tabDrop t k).countP P + (if P (k, tabGet d t k) then 1 else 0) = t.countP P := by
  induction t with
  | nil => simp [tabDrop, hd]
  | cons y rest ih =>
    obtain ⟨i, w⟩ := y
    have h' : (∀ j ∈ rest.map (·.1), i < j) ∧ tabRising rest := by
      simpa [tabRising] using ht
    simp only [tabDrop, tabGet]
    split
    · rename_i hik
      subst hik
      have hne : ∀ x ∈ rest, x.1 ≠ i := fun x hx =>
        Nat.ne_of_gt (h'.1 x.1 (List.mem_map_of_mem hx))
      rw [tabDrop_eq_self _ _ hne, List.countP_cons]
    · have := ih h'.2
      simp only [List.countP_cons]
      omega

/-- A write moves a count by the entry written alone. -/
theorem countP_tabPut [DecidableEq α] (d : α) (P : Nat × α → Bool) (t : Tab α) (k : Nat) (v : α)
    (ht : tabRising t) (hd : P (k, d) = false) :
    (tabPut d t k v).countP P + (if P (k, tabGet d t k) then 1 else 0)
      = t.countP P + (if P (k, v) then 1 else 0) := by
  have h := countP_tabDrop d P t k ht hd
  unfold tabPut
  split
  · rename_i hv; subst hv; simp only [hd] at *; simp at *; omega
  · rw [countP_tabInsert]; omega

end Sys2Proof.Machine
end

