-- ==== Sys2Proof/Laws/State.lean ====
section
/-! SUPPORT. What each named update does to each field of the state, each true by `rfl`, and what reading an entry
of a table gives after an entry of it is written. -/

namespace Sys2Proof.Machine

set_option Elab.async false

variable (s : State)

/-! ### `onPorts` -/

@[simp] theorem onPorts_pending (f : Ports → Ports) : (onPorts s f).pending = s.pending := rfl
@[simp] theorem onPorts_ports (f : Ports → Ports) : (onPorts s f).ports = f s.ports := rfl
@[simp] theorem onPorts_tracker (f : Ports → Ports) : (onPorts s f).tracker = s.tracker := rfl
@[simp] theorem onPorts_tables (f : Ports → Ports) : (onPorts s f).tables = s.tables := rfl
@[simp] theorem onPorts_arbiter (f : Ports → Ports) : (onPorts s f).arbiter = s.arbiter := rfl
@[simp] theorem onPorts_engine (f : Ports → Ports) : (onPorts s f).engine = s.engine := rfl
@[simp] theorem onPorts_meas (f : Ports → Ports) : (onPorts s f).meas = s.meas := rfl
@[simp] theorem onPorts_tickets (f : Ports → Ports) : (onPorts s f).tickets = s.tickets := rfl
@[simp] theorem onPorts_calendar (f : Ports → Ports) : (onPorts s f).calendar = s.calendar := rfl
@[simp] theorem onPorts_schedules (f : Ports → Ports) : (onPorts s f).schedules = s.schedules := rfl
@[simp] theorem onPorts_interp (f : Ports → Ports) : (onPorts s f).interp = s.interp := rfl
@[simp] theorem onPorts_agenda (f : Ports → Ports) : (onPorts s f).agenda = s.agenda := rfl
@[simp] theorem onPorts_clock (f : Ports → Ports) : (onPorts s f).clock = s.clock := rfl
@[simp] theorem onPorts_ageMs (f : Ports → Ports) : (onPorts s f).ageMs = s.ageMs := rfl

/-! ### `onTracker` -/

@[simp] theorem onTracker_pending (f : Tracker → Tracker) : (onTracker s f).pending = s.pending := rfl
@[simp] theorem onTracker_ports (f : Tracker → Tracker) : (onTracker s f).ports = s.ports := rfl
@[simp] theorem onTracker_tracker (f : Tracker → Tracker) : (onTracker s f).tracker = f s.tracker := rfl
@[simp] theorem onTracker_tables (f : Tracker → Tracker) : (onTracker s f).tables = s.tables := rfl
@[simp] theorem onTracker_arbiter (f : Tracker → Tracker) : (onTracker s f).arbiter = s.arbiter := rfl
@[simp] theorem onTracker_engine (f : Tracker → Tracker) : (onTracker s f).engine = s.engine := rfl
@[simp] theorem onTracker_meas (f : Tracker → Tracker) : (onTracker s f).meas = s.meas := rfl
@[simp] theorem onTracker_tickets (f : Tracker → Tracker) : (onTracker s f).tickets = s.tickets := rfl
@[simp] theorem onTracker_calendar (f : Tracker → Tracker) : (onTracker s f).calendar = s.calendar := rfl
@[simp] theorem onTracker_schedules (f : Tracker → Tracker) : (onTracker s f).schedules = s.schedules := rfl
@[simp] theorem onTracker_interp (f : Tracker → Tracker) : (onTracker s f).interp = s.interp := rfl
@[simp] theorem onTracker_agenda (f : Tracker → Tracker) : (onTracker s f).agenda = s.agenda := rfl
@[simp] theorem onTracker_clock (f : Tracker → Tracker) : (onTracker s f).clock = s.clock := rfl
@[simp] theorem onTracker_ageMs (f : Tracker → Tracker) : (onTracker s f).ageMs = s.ageMs := rfl

/-! ### `onTables` -/

@[simp] theorem onTables_pending (f : Tables → Tables) : (onTables s f).pending = s.pending := rfl
@[simp] theorem onTables_ports (f : Tables → Tables) : (onTables s f).ports = s.ports := rfl
@[simp] theorem onTables_tracker (f : Tables → Tables) : (onTables s f).tracker = s.tracker := rfl
@[simp] theorem onTables_tables (f : Tables → Tables) : (onTables s f).tables = f s.tables := rfl
@[simp] theorem onTables_arbiter (f : Tables → Tables) : (onTables s f).arbiter = s.arbiter := rfl
@[simp] theorem onTables_engine (f : Tables → Tables) : (onTables s f).engine = s.engine := rfl
@[simp] theorem onTables_meas (f : Tables → Tables) : (onTables s f).meas = s.meas := rfl
@[simp] theorem onTables_tickets (f : Tables → Tables) : (onTables s f).tickets = s.tickets := rfl
@[simp] theorem onTables_calendar (f : Tables → Tables) : (onTables s f).calendar = s.calendar := rfl
@[simp] theorem onTables_schedules (f : Tables → Tables) : (onTables s f).schedules = s.schedules := rfl
@[simp] theorem onTables_interp (f : Tables → Tables) : (onTables s f).interp = s.interp := rfl
@[simp] theorem onTables_agenda (f : Tables → Tables) : (onTables s f).agenda = s.agenda := rfl
@[simp] theorem onTables_clock (f : Tables → Tables) : (onTables s f).clock = s.clock := rfl
@[simp] theorem onTables_ageMs (f : Tables → Tables) : (onTables s f).ageMs = s.ageMs := rfl

/-! ### `onArbiter` -/

@[simp] theorem onArbiter_pending (f : Arbiter → Arbiter) : (onArbiter s f).pending = s.pending := rfl
@[simp] theorem onArbiter_ports (f : Arbiter → Arbiter) : (onArbiter s f).ports = s.ports := rfl
@[simp] theorem onArbiter_tracker (f : Arbiter → Arbiter) : (onArbiter s f).tracker = s.tracker := rfl
@[simp] theorem onArbiter_tables (f : Arbiter → Arbiter) : (onArbiter s f).tables = s.tables := rfl
@[simp] theorem onArbiter_arbiter (f : Arbiter → Arbiter) : (onArbiter s f).arbiter = f s.arbiter := rfl
@[simp] theorem onArbiter_engine (f : Arbiter → Arbiter) : (onArbiter s f).engine = s.engine := rfl
@[simp] theorem onArbiter_meas (f : Arbiter → Arbiter) : (onArbiter s f).meas = s.meas := rfl
@[simp] theorem onArbiter_tickets (f : Arbiter → Arbiter) : (onArbiter s f).tickets = s.tickets := rfl
@[simp] theorem onArbiter_calendar (f : Arbiter → Arbiter) : (onArbiter s f).calendar = s.calendar := rfl
@[simp] theorem onArbiter_schedules (f : Arbiter → Arbiter) : (onArbiter s f).schedules = s.schedules := rfl
@[simp] theorem onArbiter_interp (f : Arbiter → Arbiter) : (onArbiter s f).interp = s.interp := rfl
@[simp] theorem onArbiter_agenda (f : Arbiter → Arbiter) : (onArbiter s f).agenda = s.agenda := rfl
@[simp] theorem onArbiter_clock (f : Arbiter → Arbiter) : (onArbiter s f).clock = s.clock := rfl
@[simp] theorem onArbiter_ageMs (f : Arbiter → Arbiter) : (onArbiter s f).ageMs = s.ageMs := rfl

/-! ### `onEngine` -/

@[simp] theorem onEngine_pending (f : Engine → Engine) : (onEngine s f).pending = s.pending := rfl
@[simp] theorem onEngine_ports (f : Engine → Engine) : (onEngine s f).ports = s.ports := rfl
@[simp] theorem onEngine_tracker (f : Engine → Engine) : (onEngine s f).tracker = s.tracker := rfl
@[simp] theorem onEngine_tables (f : Engine → Engine) : (onEngine s f).tables = s.tables := rfl
@[simp] theorem onEngine_arbiter (f : Engine → Engine) : (onEngine s f).arbiter = s.arbiter := rfl
@[simp] theorem onEngine_engine (f : Engine → Engine) : (onEngine s f).engine = f s.engine := rfl
@[simp] theorem onEngine_meas (f : Engine → Engine) : (onEngine s f).meas = s.meas := rfl
@[simp] theorem onEngine_tickets (f : Engine → Engine) : (onEngine s f).tickets = s.tickets := rfl
@[simp] theorem onEngine_calendar (f : Engine → Engine) : (onEngine s f).calendar = s.calendar := rfl
@[simp] theorem onEngine_schedules (f : Engine → Engine) : (onEngine s f).schedules = s.schedules := rfl
@[simp] theorem onEngine_interp (f : Engine → Engine) : (onEngine s f).interp = s.interp := rfl
@[simp] theorem onEngine_agenda (f : Engine → Engine) : (onEngine s f).agenda = s.agenda := rfl
@[simp] theorem onEngine_clock (f : Engine → Engine) : (onEngine s f).clock = s.clock := rfl
@[simp] theorem onEngine_ageMs (f : Engine → Engine) : (onEngine s f).ageMs = s.ageMs := rfl

/-! ### `onMeas` -/

@[simp] theorem onMeas_pending (f : Measurement → Measurement) : (onMeas s f).pending = s.pending := rfl
@[simp] theorem onMeas_ports (f : Measurement → Measurement) : (onMeas s f).ports = s.ports := rfl
@[simp] theorem onMeas_tracker (f : Measurement → Measurement) : (onMeas s f).tracker = s.tracker := rfl
@[simp] theorem onMeas_tables (f : Measurement → Measurement) : (onMeas s f).tables = s.tables := rfl
@[simp] theorem onMeas_arbiter (f : Measurement → Measurement) : (onMeas s f).arbiter = s.arbiter := rfl
@[simp] theorem onMeas_engine (f : Measurement → Measurement) : (onMeas s f).engine = s.engine := rfl
@[simp] theorem onMeas_meas (f : Measurement → Measurement) : (onMeas s f).meas = f s.meas := rfl
@[simp] theorem onMeas_tickets (f : Measurement → Measurement) : (onMeas s f).tickets = s.tickets := rfl
@[simp] theorem onMeas_calendar (f : Measurement → Measurement) : (onMeas s f).calendar = s.calendar := rfl
@[simp] theorem onMeas_schedules (f : Measurement → Measurement) : (onMeas s f).schedules = s.schedules := rfl
@[simp] theorem onMeas_interp (f : Measurement → Measurement) : (onMeas s f).interp = s.interp := rfl
@[simp] theorem onMeas_agenda (f : Measurement → Measurement) : (onMeas s f).agenda = s.agenda := rfl
@[simp] theorem onMeas_clock (f : Measurement → Measurement) : (onMeas s f).clock = s.clock := rfl
@[simp] theorem onMeas_ageMs (f : Measurement → Measurement) : (onMeas s f).ageMs = s.ageMs := rfl

/-! ### `onTickets` -/

@[simp] theorem onTickets_pending (f : TicketManager → TicketManager) : (onTickets s f).pending = s.pending := rfl
@[simp] theorem onTickets_ports (f : TicketManager → TicketManager) : (onTickets s f).ports = s.ports := rfl
@[simp] theorem onTickets_tracker (f : TicketManager → TicketManager) : (onTickets s f).tracker = s.tracker := rfl
@[simp] theorem onTickets_tables (f : TicketManager → TicketManager) : (onTickets s f).tables = s.tables := rfl
@[simp] theorem onTickets_arbiter (f : TicketManager → TicketManager) : (onTickets s f).arbiter = s.arbiter := rfl
@[simp] theorem onTickets_engine (f : TicketManager → TicketManager) : (onTickets s f).engine = s.engine := rfl
@[simp] theorem onTickets_meas (f : TicketManager → TicketManager) : (onTickets s f).meas = s.meas := rfl
@[simp] theorem onTickets_tickets (f : TicketManager → TicketManager) : (onTickets s f).tickets = f s.tickets := rfl
@[simp] theorem onTickets_calendar (f : TicketManager → TicketManager) : (onTickets s f).calendar = s.calendar := rfl
@[simp] theorem onTickets_schedules (f : TicketManager → TicketManager) : (onTickets s f).schedules = s.schedules := rfl
@[simp] theorem onTickets_interp (f : TicketManager → TicketManager) : (onTickets s f).interp = s.interp := rfl
@[simp] theorem onTickets_agenda (f : TicketManager → TicketManager) : (onTickets s f).agenda = s.agenda := rfl
@[simp] theorem onTickets_clock (f : TicketManager → TicketManager) : (onTickets s f).clock = s.clock := rfl
@[simp] theorem onTickets_ageMs (f : TicketManager → TicketManager) : (onTickets s f).ageMs = s.ageMs := rfl

/-! ### `onInterp` -/

@[simp] theorem onInterp_pending (f : Interpreter → Interpreter) : (onInterp s f).pending = s.pending := rfl
@[simp] theorem onInterp_ports (f : Interpreter → Interpreter) : (onInterp s f).ports = s.ports := rfl
@[simp] theorem onInterp_tracker (f : Interpreter → Interpreter) : (onInterp s f).tracker = s.tracker := rfl
@[simp] theorem onInterp_tables (f : Interpreter → Interpreter) : (onInterp s f).tables = s.tables := rfl
@[simp] theorem onInterp_arbiter (f : Interpreter → Interpreter) : (onInterp s f).arbiter = s.arbiter := rfl
@[simp] theorem onInterp_engine (f : Interpreter → Interpreter) : (onInterp s f).engine = s.engine := rfl
@[simp] theorem onInterp_meas (f : Interpreter → Interpreter) : (onInterp s f).meas = s.meas := rfl
@[simp] theorem onInterp_tickets (f : Interpreter → Interpreter) : (onInterp s f).tickets = s.tickets := rfl
@[simp] theorem onInterp_calendar (f : Interpreter → Interpreter) : (onInterp s f).calendar = s.calendar := rfl
@[simp] theorem onInterp_schedules (f : Interpreter → Interpreter) : (onInterp s f).schedules = s.schedules := rfl
@[simp] theorem onInterp_interp (f : Interpreter → Interpreter) : (onInterp s f).interp = f s.interp := rfl
@[simp] theorem onInterp_agenda (f : Interpreter → Interpreter) : (onInterp s f).agenda = s.agenda := rfl
@[simp] theorem onInterp_clock (f : Interpreter → Interpreter) : (onInterp s f).clock = s.clock := rfl
@[simp] theorem onInterp_ageMs (f : Interpreter → Interpreter) : (onInterp s f).ageMs = s.ageMs := rfl

/-! ### `modLine` -/

@[simp] theorem modLine_pending (n : Nat) (f : Line → Line) : (modLine s n f).pending = s.pending := rfl
@[simp] theorem modLine_ports (n : Nat) (f : Line → Line) : (modLine s n f).ports = s.ports := rfl
@[simp] theorem modLine_tracker (n : Nat) (f : Line → Line) :
    (modLine s n f).tracker = { s.tracker with lines := tabMod lineZero s.tracker.lines n f } := rfl
@[simp] theorem modLine_tables (n : Nat) (f : Line → Line) : (modLine s n f).tables = s.tables := rfl
@[simp] theorem modLine_arbiter (n : Nat) (f : Line → Line) : (modLine s n f).arbiter = s.arbiter := rfl
@[simp] theorem modLine_engine (n : Nat) (f : Line → Line) : (modLine s n f).engine = s.engine := rfl
@[simp] theorem modLine_meas (n : Nat) (f : Line → Line) : (modLine s n f).meas = s.meas := rfl
@[simp] theorem modLine_tickets (n : Nat) (f : Line → Line) : (modLine s n f).tickets = s.tickets := rfl
@[simp] theorem modLine_calendar (n : Nat) (f : Line → Line) : (modLine s n f).calendar = s.calendar := rfl
@[simp] theorem modLine_schedules (n : Nat) (f : Line → Line) : (modLine s n f).schedules = s.schedules := rfl
@[simp] theorem modLine_interp (n : Nat) (f : Line → Line) : (modLine s n f).interp = s.interp := rfl
@[simp] theorem modLine_agenda (n : Nat) (f : Line → Line) : (modLine s n f).agenda = s.agenda := rfl
@[simp] theorem modLine_clock (n : Nat) (f : Line → Line) : (modLine s n f).clock = s.clock := rfl
@[simp] theorem modLine_ageMs (n : Nat) (f : Line → Line) : (modLine s n f).ageMs = s.ageMs := rfl

/-! ### `modShelf` -/

@[simp] theorem modShelf_pending (n : Nat) (f : Shelf → Shelf) : (modShelf s n f).pending = s.pending := rfl
@[simp] theorem modShelf_ports (n : Nat) (f : Shelf → Shelf) : (modShelf s n f).ports = s.ports := rfl
@[simp] theorem modShelf_tracker (n : Nat) (f : Shelf → Shelf) :
    (modShelf s n f).tracker = { s.tracker with shelves := tabMod shelfZero s.tracker.shelves n f } := rfl
@[simp] theorem modShelf_tables (n : Nat) (f : Shelf → Shelf) : (modShelf s n f).tables = s.tables := rfl
@[simp] theorem modShelf_arbiter (n : Nat) (f : Shelf → Shelf) : (modShelf s n f).arbiter = s.arbiter := rfl
@[simp] theorem modShelf_engine (n : Nat) (f : Shelf → Shelf) : (modShelf s n f).engine = s.engine := rfl
@[simp] theorem modShelf_meas (n : Nat) (f : Shelf → Shelf) : (modShelf s n f).meas = s.meas := rfl
@[simp] theorem modShelf_tickets (n : Nat) (f : Shelf → Shelf) : (modShelf s n f).tickets = s.tickets := rfl
@[simp] theorem modShelf_calendar (n : Nat) (f : Shelf → Shelf) : (modShelf s n f).calendar = s.calendar := rfl
@[simp] theorem modShelf_schedules (n : Nat) (f : Shelf → Shelf) : (modShelf s n f).schedules = s.schedules := rfl
@[simp] theorem modShelf_interp (n : Nat) (f : Shelf → Shelf) : (modShelf s n f).interp = s.interp := rfl
@[simp] theorem modShelf_agenda (n : Nat) (f : Shelf → Shelf) : (modShelf s n f).agenda = s.agenda := rfl
@[simp] theorem modShelf_clock (n : Nat) (f : Shelf → Shelf) : (modShelf s n f).clock = s.clock := rfl
@[simp] theorem modShelf_ageMs (n : Nat) (f : Shelf → Shelf) : (modShelf s n f).ageMs = s.ageMs := rfl

/-! ### `modBus` -/

@[simp] theorem modBus_pending (n : Nat) (f : Bus → Bus) : (modBus s n f).pending = s.pending := rfl
@[simp] theorem modBus_ports (n : Nat) (f : Bus → Bus) : (modBus s n f).ports = s.ports := rfl
@[simp] theorem modBus_tracker (n : Nat) (f : Bus → Bus) : (modBus s n f).tracker = s.tracker := rfl
@[simp] theorem modBus_tables (n : Nat) (f : Bus → Bus) : (modBus s n f).tables = s.tables := rfl
@[simp] theorem modBus_arbiter (n : Nat) (f : Bus → Bus) : (modBus s n f).arbiter = s.arbiter := rfl
@[simp] theorem modBus_engine (n : Nat) (f : Bus → Bus) :
    (modBus s n f).engine = { s.engine with buses := tabMod busZero s.engine.buses n f } := rfl
@[simp] theorem modBus_meas (n : Nat) (f : Bus → Bus) : (modBus s n f).meas = s.meas := rfl
@[simp] theorem modBus_tickets (n : Nat) (f : Bus → Bus) : (modBus s n f).tickets = s.tickets := rfl
@[simp] theorem modBus_calendar (n : Nat) (f : Bus → Bus) : (modBus s n f).calendar = s.calendar := rfl
@[simp] theorem modBus_schedules (n : Nat) (f : Bus → Bus) : (modBus s n f).schedules = s.schedules := rfl
@[simp] theorem modBus_interp (n : Nat) (f : Bus → Bus) : (modBus s n f).interp = s.interp := rfl
@[simp] theorem modBus_agenda (n : Nat) (f : Bus → Bus) : (modBus s n f).agenda = s.agenda := rfl
@[simp] theorem modBus_clock (n : Nat) (f : Bus → Bus) : (modBus s n f).clock = s.clock := rfl
@[simp] theorem modBus_ageMs (n : Nat) (f : Bus → Bus) : (modBus s n f).ageMs = s.ageMs := rfl

/-! ### `putRiser` -/

@[simp] theorem putRiser_pending (n : Nat) (x : Riser) : (putRiser s n x).pending = s.pending := rfl
@[simp] theorem putRiser_ports (n : Nat) (x : Riser) : (putRiser s n x).ports = s.ports := rfl
@[simp] theorem putRiser_tracker (n : Nat) (x : Riser) : (putRiser s n x).tracker = s.tracker := rfl
@[simp] theorem putRiser_tables (n : Nat) (x : Riser) : (putRiser s n x).tables = s.tables := rfl
@[simp] theorem putRiser_arbiter (n : Nat) (x : Riser) : (putRiser s n x).arbiter = s.arbiter := rfl
@[simp] theorem putRiser_engine (n : Nat) (x : Riser) :
    (putRiser s n x).engine = { s.engine with risers := tabPut .free s.engine.risers n x } := rfl
@[simp] theorem putRiser_meas (n : Nat) (x : Riser) : (putRiser s n x).meas = s.meas := rfl
@[simp] theorem putRiser_tickets (n : Nat) (x : Riser) : (putRiser s n x).tickets = s.tickets := rfl
@[simp] theorem putRiser_calendar (n : Nat) (x : Riser) : (putRiser s n x).calendar = s.calendar := rfl
@[simp] theorem putRiser_schedules (n : Nat) (x : Riser) : (putRiser s n x).schedules = s.schedules := rfl
@[simp] theorem putRiser_interp (n : Nat) (x : Riser) : (putRiser s n x).interp = s.interp := rfl
@[simp] theorem putRiser_agenda (n : Nat) (x : Riser) : (putRiser s n x).agenda = s.agenda := rfl
@[simp] theorem putRiser_clock (n : Nat) (x : Riser) : (putRiser s n x).clock = s.clock := rfl
@[simp] theorem putRiser_ageMs (n : Nat) (x : Riser) : (putRiser s n x).ageMs = s.ageMs := rfl

/-! ### `putSession` -/

@[simp] theorem putSession_pending (n : Nat) (x : Option Session) : (putSession s n x).pending = s.pending := rfl
@[simp] theorem putSession_ports (n : Nat) (x : Option Session) : (putSession s n x).ports = s.ports := rfl
@[simp] theorem putSession_tracker (n : Nat) (x : Option Session) : (putSession s n x).tracker = s.tracker := rfl
@[simp] theorem putSession_tables (n : Nat) (x : Option Session) : (putSession s n x).tables = s.tables := rfl
@[simp] theorem putSession_arbiter (n : Nat) (x : Option Session) : (putSession s n x).arbiter = s.arbiter := rfl
@[simp] theorem putSession_engine (n : Nat) (x : Option Session) :
    (putSession s n x).engine = { s.engine with sessions := tabPut none s.engine.sessions n x } := rfl
@[simp] theorem putSession_meas (n : Nat) (x : Option Session) : (putSession s n x).meas = s.meas := rfl
@[simp] theorem putSession_tickets (n : Nat) (x : Option Session) : (putSession s n x).tickets = s.tickets := rfl
@[simp] theorem putSession_calendar (n : Nat) (x : Option Session) : (putSession s n x).calendar = s.calendar := rfl
@[simp] theorem putSession_schedules (n : Nat) (x : Option Session) : (putSession s n x).schedules = s.schedules := rfl
@[simp] theorem putSession_interp (n : Nat) (x : Option Session) : (putSession s n x).interp = s.interp := rfl
@[simp] theorem putSession_agenda (n : Nat) (x : Option Session) : (putSession s n x).agenda = s.agenda := rfl
@[simp] theorem putSession_clock (n : Nat) (x : Option Session) : (putSession s n x).clock = s.clock := rfl
@[simp] theorem putSession_ageMs (n : Nat) (x : Option Session) : (putSession s n x).ageMs = s.ageMs := rfl

/-! ### `modSession` -/

@[simp] theorem modSession_pending (n : Nat) (f : Session → Session) : (modSession s n f).pending = s.pending := rfl
@[simp] theorem modSession_ports (n : Nat) (f : Session → Session) : (modSession s n f).ports = s.ports := rfl
@[simp] theorem modSession_tracker (n : Nat) (f : Session → Session) : (modSession s n f).tracker = s.tracker := rfl
@[simp] theorem modSession_tables (n : Nat) (f : Session → Session) : (modSession s n f).tables = s.tables := rfl
@[simp] theorem modSession_arbiter (n : Nat) (f : Session → Session) : (modSession s n f).arbiter = s.arbiter := rfl
@[simp] theorem modSession_engine (n : Nat) (f : Session → Session) :
    (modSession s n f).engine = { s.engine with sessions := tabMod none s.engine.sessions n (fun x => x.map f) } := rfl
@[simp] theorem modSession_meas (n : Nat) (f : Session → Session) : (modSession s n f).meas = s.meas := rfl
@[simp] theorem modSession_tickets (n : Nat) (f : Session → Session) : (modSession s n f).tickets = s.tickets := rfl
@[simp] theorem modSession_calendar (n : Nat) (f : Session → Session) : (modSession s n f).calendar = s.calendar := rfl
@[simp] theorem modSession_schedules (n : Nat) (f : Session → Session) :
    (modSession s n f).schedules = s.schedules := rfl
@[simp] theorem modSession_interp (n : Nat) (f : Session → Session) : (modSession s n f).interp = s.interp := rfl
@[simp] theorem modSession_agenda (n : Nat) (f : Session → Session) : (modSession s n f).agenda = s.agenda := rfl
@[simp] theorem modSession_clock (n : Nat) (f : Session → Session) : (modSession s n f).clock = s.clock := rfl
@[simp] theorem modSession_ageMs (n : Nat) (f : Session → Session) : (modSession s n f).ageMs = s.ageMs := rfl

/-! ### `putWindow` -/

@[simp] theorem putWindow_pending (n : Nat) (x : Option Window) : (putWindow s n x).pending = s.pending := rfl
@[simp] theorem putWindow_ports (n : Nat) (x : Option Window) : (putWindow s n x).ports = s.ports := rfl
@[simp] theorem putWindow_tracker (n : Nat) (x : Option Window) : (putWindow s n x).tracker = s.tracker := rfl
@[simp] theorem putWindow_tables (n : Nat) (x : Option Window) : (putWindow s n x).tables = s.tables := rfl
@[simp] theorem putWindow_arbiter (n : Nat) (x : Option Window) : (putWindow s n x).arbiter = s.arbiter := rfl
@[simp] theorem putWindow_engine (n : Nat) (x : Option Window) : (putWindow s n x).engine = s.engine := rfl
@[simp] theorem putWindow_meas (n : Nat) (x : Option Window) :
    (putWindow s n x).meas = { s.meas with windows := tabPut none s.meas.windows n x } := rfl
@[simp] theorem putWindow_tickets (n : Nat) (x : Option Window) : (putWindow s n x).tickets = s.tickets := rfl
@[simp] theorem putWindow_calendar (n : Nat) (x : Option Window) : (putWindow s n x).calendar = s.calendar := rfl
@[simp] theorem putWindow_schedules (n : Nat) (x : Option Window) : (putWindow s n x).schedules = s.schedules := rfl
@[simp] theorem putWindow_interp (n : Nat) (x : Option Window) : (putWindow s n x).interp = s.interp := rfl
@[simp] theorem putWindow_agenda (n : Nat) (x : Option Window) : (putWindow s n x).agenda = s.agenda := rfl
@[simp] theorem putWindow_clock (n : Nat) (x : Option Window) : (putWindow s n x).clock = s.clock := rfl
@[simp] theorem putWindow_ageMs (n : Nat) (x : Option Window) : (putWindow s n x).ageMs = s.ageMs := rfl

/-! ### `putCollector` -/

@[simp] theorem putCollector_pending (n : Nat) (x : Collector) : (putCollector s n x).pending = s.pending := rfl
@[simp] theorem putCollector_ports (n : Nat) (x : Collector) : (putCollector s n x).ports = s.ports := rfl
@[simp] theorem putCollector_tracker (n : Nat) (x : Collector) : (putCollector s n x).tracker = s.tracker := rfl
@[simp] theorem putCollector_tables (n : Nat) (x : Collector) : (putCollector s n x).tables = s.tables := rfl
@[simp] theorem putCollector_arbiter (n : Nat) (x : Collector) : (putCollector s n x).arbiter = s.arbiter := rfl
@[simp] theorem putCollector_engine (n : Nat) (x : Collector) : (putCollector s n x).engine = s.engine := rfl
@[simp] theorem putCollector_meas (n : Nat) (x : Collector) :
    (putCollector s n x).meas = { s.meas with collectors := tabPut collectorZero s.meas.collectors n x } := rfl
@[simp] theorem putCollector_tickets (n : Nat) (x : Collector) : (putCollector s n x).tickets = s.tickets := rfl
@[simp] theorem putCollector_calendar (n : Nat) (x : Collector) : (putCollector s n x).calendar = s.calendar := rfl
@[simp] theorem putCollector_schedules (n : Nat) (x : Collector) : (putCollector s n x).schedules = s.schedules := rfl
@[simp] theorem putCollector_interp (n : Nat) (x : Collector) : (putCollector s n x).interp = s.interp := rfl
@[simp] theorem putCollector_agenda (n : Nat) (x : Collector) : (putCollector s n x).agenda = s.agenda := rfl
@[simp] theorem putCollector_clock (n : Nat) (x : Collector) : (putCollector s n x).clock = s.clock := rfl
@[simp] theorem putCollector_ageMs (n : Nat) (x : Collector) : (putCollector s n x).ageMs = s.ageMs := rfl

/-! ### `putChecker` -/

@[simp] theorem putChecker_pending (n : Nat) (x : Checker) : (putChecker s n x).pending = s.pending := rfl
@[simp] theorem putChecker_ports (n : Nat) (x : Checker) : (putChecker s n x).ports = s.ports := rfl
@[simp] theorem putChecker_tracker (n : Nat) (x : Checker) : (putChecker s n x).tracker = s.tracker := rfl
@[simp] theorem putChecker_tables (n : Nat) (x : Checker) : (putChecker s n x).tables = s.tables := rfl
@[simp] theorem putChecker_arbiter (n : Nat) (x : Checker) : (putChecker s n x).arbiter = s.arbiter := rfl
@[simp] theorem putChecker_engine (n : Nat) (x : Checker) : (putChecker s n x).engine = s.engine := rfl
@[simp] theorem putChecker_meas (n : Nat) (x : Checker) :
    (putChecker s n x).meas = { s.meas with checkers := tabPut checkerZero s.meas.checkers n x } := rfl
@[simp] theorem putChecker_tickets (n : Nat) (x : Checker) : (putChecker s n x).tickets = s.tickets := rfl
@[simp] theorem putChecker_calendar (n : Nat) (x : Checker) : (putChecker s n x).calendar = s.calendar := rfl
@[simp] theorem putChecker_schedules (n : Nat) (x : Checker) : (putChecker s n x).schedules = s.schedules := rfl
@[simp] theorem putChecker_interp (n : Nat) (x : Checker) : (putChecker s n x).interp = s.interp := rfl
@[simp] theorem putChecker_agenda (n : Nat) (x : Checker) : (putChecker s n x).agenda = s.agenda := rfl
@[simp] theorem putChecker_clock (n : Nat) (x : Checker) : (putChecker s n x).clock = s.clock := rfl
@[simp] theorem putChecker_ageMs (n : Nat) (x : Checker) : (putChecker s n x).ageMs = s.ageMs := rfl

/-! ### `putGroup` -/

@[simp] theorem putGroup_pending (n : Nat) (x : CableGroup) : (putGroup s n x).pending = s.pending := rfl
@[simp] theorem putGroup_ports (n : Nat) (x : CableGroup) : (putGroup s n x).ports = s.ports := rfl
@[simp] theorem putGroup_tracker (n : Nat) (x : CableGroup) : (putGroup s n x).tracker = s.tracker := rfl
@[simp] theorem putGroup_tables (n : Nat) (x : CableGroup) : (putGroup s n x).tables = s.tables := rfl
@[simp] theorem putGroup_arbiter (n : Nat) (x : CableGroup) : (putGroup s n x).arbiter = s.arbiter := rfl
@[simp] theorem putGroup_engine (n : Nat) (x : CableGroup) : (putGroup s n x).engine = s.engine := rfl
@[simp] theorem putGroup_meas (n : Nat) (x : CableGroup) : (putGroup s n x).meas = s.meas := rfl
@[simp] theorem putGroup_tickets (n : Nat) (x : CableGroup) :
    (putGroup s n x).tickets = { s.tickets with groups := tabPut groupZero s.tickets.groups n x } := rfl
@[simp] theorem putGroup_calendar (n : Nat) (x : CableGroup) : (putGroup s n x).calendar = s.calendar := rfl
@[simp] theorem putGroup_schedules (n : Nat) (x : CableGroup) : (putGroup s n x).schedules = s.schedules := rfl
@[simp] theorem putGroup_interp (n : Nat) (x : CableGroup) : (putGroup s n x).interp = s.interp := rfl
@[simp] theorem putGroup_agenda (n : Nat) (x : CableGroup) : (putGroup s n x).agenda = s.agenda := rfl
@[simp] theorem putGroup_clock (n : Nat) (x : CableGroup) : (putGroup s n x).clock = s.clock := rfl
@[simp] theorem putGroup_ageMs (n : Nat) (x : CableGroup) : (putGroup s n x).ageMs = s.ageMs := rfl

/-! ### `putSchedule` -/

@[simp] theorem putSchedule_pending (n : Nat) (x : Schedule) : (putSchedule s n x).pending = s.pending := rfl
@[simp] theorem putSchedule_ports (n : Nat) (x : Schedule) : (putSchedule s n x).ports = s.ports := rfl
@[simp] theorem putSchedule_tracker (n : Nat) (x : Schedule) : (putSchedule s n x).tracker = s.tracker := rfl
@[simp] theorem putSchedule_tables (n : Nat) (x : Schedule) : (putSchedule s n x).tables = s.tables := rfl
@[simp] theorem putSchedule_arbiter (n : Nat) (x : Schedule) : (putSchedule s n x).arbiter = s.arbiter := rfl
@[simp] theorem putSchedule_engine (n : Nat) (x : Schedule) : (putSchedule s n x).engine = s.engine := rfl
@[simp] theorem putSchedule_meas (n : Nat) (x : Schedule) : (putSchedule s n x).meas = s.meas := rfl
@[simp] theorem putSchedule_tickets (n : Nat) (x : Schedule) : (putSchedule s n x).tickets = s.tickets := rfl
@[simp] theorem putSchedule_calendar (n : Nat) (x : Schedule) : (putSchedule s n x).calendar = s.calendar := rfl
@[simp] theorem putSchedule_schedules (n : Nat) (x : Schedule) :
    (putSchedule s n x).schedules = tabPut scheduleZero s.schedules n x := rfl
@[simp] theorem putSchedule_interp (n : Nat) (x : Schedule) : (putSchedule s n x).interp = s.interp := rfl
@[simp] theorem putSchedule_agenda (n : Nat) (x : Schedule) : (putSchedule s n x).agenda = s.agenda := rfl
@[simp] theorem putSchedule_clock (n : Nat) (x : Schedule) : (putSchedule s n x).clock = s.clock := rfl
@[simp] theorem putSchedule_ageMs (n : Nat) (x : Schedule) : (putSchedule s n x).ageMs = s.ageMs := rfl

/-! ### `modRun` -/

@[simp] theorem modRun_pending (n : Nat) (f : SweepRun → SweepRun) : (modRun s n f).pending = s.pending := rfl
@[simp] theorem modRun_ports (n : Nat) (f : SweepRun → SweepRun) : (modRun s n f).ports = s.ports := rfl
@[simp] theorem modRun_tracker (n : Nat) (f : SweepRun → SweepRun) : (modRun s n f).tracker = s.tracker := rfl
@[simp] theorem modRun_tables (n : Nat) (f : SweepRun → SweepRun) : (modRun s n f).tables = s.tables := rfl
@[simp] theorem modRun_arbiter (n : Nat) (f : SweepRun → SweepRun) : (modRun s n f).arbiter = s.arbiter := rfl
@[simp] theorem modRun_engine (n : Nat) (f : SweepRun → SweepRun) : (modRun s n f).engine = s.engine := rfl
@[simp] theorem modRun_meas (n : Nat) (f : SweepRun → SweepRun) : (modRun s n f).meas = s.meas := rfl
@[simp] theorem modRun_tickets (n : Nat) (f : SweepRun → SweepRun) : (modRun s n f).tickets = s.tickets := rfl
@[simp] theorem modRun_calendar (n : Nat) (f : SweepRun → SweepRun) : (modRun s n f).calendar = s.calendar := rfl
@[simp] theorem modRun_schedules (n : Nat) (f : SweepRun → SweepRun) :
    (modRun s n f).schedules = tabMod scheduleZero s.schedules n (fun x => { x with run := f x.run }) := rfl
@[simp] theorem modRun_interp (n : Nat) (f : SweepRun → SweepRun) : (modRun s n f).interp = s.interp := rfl
@[simp] theorem modRun_agenda (n : Nat) (f : SweepRun → SweepRun) : (modRun s n f).agenda = s.agenda := rfl
@[simp] theorem modRun_clock (n : Nat) (f : SweepRun → SweepRun) : (modRun s n f).clock = s.clock := rfl
@[simp] theorem modRun_ageMs (n : Nat) (f : SweepRun → SweepRun) : (modRun s n f).ageMs = s.ageMs := rfl

/-! ### `putSlot` -/

@[simp] theorem putSlot_pending (n : Nat) (x : Slot) : (putSlot s n x).pending = s.pending := rfl
@[simp] theorem putSlot_ports (n : Nat) (x : Slot) : (putSlot s n x).ports = s.ports := rfl
@[simp] theorem putSlot_tracker (n : Nat) (x : Slot) : (putSlot s n x).tracker = s.tracker := rfl
@[simp] theorem putSlot_tables (n : Nat) (x : Slot) : (putSlot s n x).tables = s.tables := rfl
@[simp] theorem putSlot_arbiter (n : Nat) (x : Slot) : (putSlot s n x).arbiter = s.arbiter := rfl
@[simp] theorem putSlot_engine (n : Nat) (x : Slot) : (putSlot s n x).engine = s.engine := rfl
@[simp] theorem putSlot_meas (n : Nat) (x : Slot) : (putSlot s n x).meas = s.meas := rfl
@[simp] theorem putSlot_tickets (n : Nat) (x : Slot) : (putSlot s n x).tickets = s.tickets := rfl
@[simp] theorem putSlot_calendar (n : Nat) (x : Slot) : (putSlot s n x).calendar = s.calendar := rfl
@[simp] theorem putSlot_schedules (n : Nat) (x : Slot) : (putSlot s n x).schedules = s.schedules := rfl
@[simp] theorem putSlot_interp (n : Nat) (x : Slot) :
    (putSlot s n x).interp = { s.interp with slots := tabPut .free s.interp.slots n x } := rfl
@[simp] theorem putSlot_agenda (n : Nat) (x : Slot) : (putSlot s n x).agenda = s.agenda := rfl
@[simp] theorem putSlot_clock (n : Nat) (x : Slot) : (putSlot s n x).clock = s.clock := rfl
@[simp] theorem putSlot_ageMs (n : Nat) (x : Slot) : (putSlot s n x).ageMs = s.ageMs := rfl

/-! ### `putUnit` -/

@[simp] theorem putUnit_pending (n : Nat) (x : NoticeUnit) : (putUnit s n x).pending = s.pending := rfl
@[simp] theorem putUnit_ports (n : Nat) (x : NoticeUnit) : (putUnit s n x).ports = s.ports := rfl
@[simp] theorem putUnit_tracker (n : Nat) (x : NoticeUnit) : (putUnit s n x).tracker = s.tracker := rfl
@[simp] theorem putUnit_tables (n : Nat) (x : NoticeUnit) : (putUnit s n x).tables = s.tables := rfl
@[simp] theorem putUnit_arbiter (n : Nat) (x : NoticeUnit) : (putUnit s n x).arbiter = s.arbiter := rfl
@[simp] theorem putUnit_engine (n : Nat) (x : NoticeUnit) : (putUnit s n x).engine = s.engine := rfl
@[simp] theorem putUnit_meas (n : Nat) (x : NoticeUnit) : (putUnit s n x).meas = s.meas := rfl
@[simp] theorem putUnit_tickets (n : Nat) (x : NoticeUnit) : (putUnit s n x).tickets = s.tickets := rfl
@[simp] theorem putUnit_calendar (n : Nat) (x : NoticeUnit) : (putUnit s n x).calendar = s.calendar := rfl
@[simp] theorem putUnit_schedules (n : Nat) (x : NoticeUnit) : (putUnit s n x).schedules = s.schedules := rfl
@[simp] theorem putUnit_interp (n : Nat) (x : NoticeUnit) :
    (putUnit s n x).interp = { s.interp with units := tabPut unitZero s.interp.units n x } := rfl
@[simp] theorem putUnit_agenda (n : Nat) (x : NoticeUnit) : (putUnit s n x).agenda = s.agenda := rfl
@[simp] theorem putUnit_clock (n : Nat) (x : NoticeUnit) : (putUnit s n x).clock = s.clock := rfl
@[simp] theorem putUnit_ageMs (n : Nat) (x : NoticeUnit) : (putUnit s n x).ageMs = s.ageMs := rfl

/-! ### `handOn` -/

@[simp] theorem handOn_pending (t : Todo) : (handOn s t).pending = s.pending := rfl
@[simp] theorem handOn_ports (t : Todo) : (handOn s t).ports = s.ports := rfl
@[simp] theorem handOn_tracker (t : Todo) : (handOn s t).tracker = s.tracker := rfl
@[simp] theorem handOn_tables (t : Todo) : (handOn s t).tables = s.tables := rfl
@[simp] theorem handOn_arbiter (t : Todo) : (handOn s t).arbiter = s.arbiter := rfl
@[simp] theorem handOn_engine (t : Todo) : (handOn s t).engine = s.engine := rfl
@[simp] theorem handOn_meas (t : Todo) : (handOn s t).meas = s.meas := rfl
@[simp] theorem handOn_tickets (t : Todo) : (handOn s t).tickets = s.tickets := rfl
@[simp] theorem handOn_calendar (t : Todo) : (handOn s t).calendar = s.calendar := rfl
@[simp] theorem handOn_schedules (t : Todo) : (handOn s t).schedules = s.schedules := rfl
@[simp] theorem handOn_interp (t : Todo) : (handOn s t).interp = s.interp := rfl
@[simp] theorem handOn_agenda (t : Todo) : (handOn s t).agenda = s.agenda ++ [t] := rfl
@[simp] theorem handOn_clock (t : Todo) : (handOn s t).clock = s.clock := rfl
@[simp] theorem handOn_ageMs (t : Todo) : (handOn s t).ageMs = s.ageMs := rfl

/-! ### `joinNormal` -/

@[simp] theorem joinNormal_pending (cs : List Cell) : (joinNormal s cs).pending = s.pending := rfl
@[simp] theorem joinNormal_ports (cs : List Cell) :
    (joinNormal s cs).ports = { s.ports with normal := s.ports.normal ++ cs } := rfl
@[simp] theorem joinNormal_tracker (cs : List Cell) : (joinNormal s cs).tracker = s.tracker := rfl
@[simp] theorem joinNormal_tables (cs : List Cell) : (joinNormal s cs).tables = s.tables := rfl
@[simp] theorem joinNormal_arbiter (cs : List Cell) : (joinNormal s cs).arbiter = s.arbiter := rfl
@[simp] theorem joinNormal_engine (cs : List Cell) : (joinNormal s cs).engine = s.engine := rfl
@[simp] theorem joinNormal_meas (cs : List Cell) : (joinNormal s cs).meas = s.meas := rfl
@[simp] theorem joinNormal_tickets (cs : List Cell) : (joinNormal s cs).tickets = s.tickets := rfl
@[simp] theorem joinNormal_calendar (cs : List Cell) : (joinNormal s cs).calendar = s.calendar := rfl
@[simp] theorem joinNormal_schedules (cs : List Cell) : (joinNormal s cs).schedules = s.schedules := rfl
@[simp] theorem joinNormal_interp (cs : List Cell) : (joinNormal s cs).interp = s.interp := rfl
@[simp] theorem joinNormal_agenda (cs : List Cell) : (joinNormal s cs).agenda = s.agenda := rfl
@[simp] theorem joinNormal_clock (cs : List Cell) : (joinNormal s cs).clock = s.clock := rfl
@[simp] theorem joinNormal_ageMs (cs : List Cell) : (joinNormal s cs).ageMs = s.ageMs := rfl

/-! ### `examineLater` -/

@[simp] theorem examineLater_pending : (examineLater s).pending = s.pending := rfl
@[simp] theorem examineLater_ports : (examineLater s).ports = s.ports := rfl
@[simp] theorem examineLater_tracker : (examineLater s).tracker = s.tracker := rfl
@[simp] theorem examineLater_tables : (examineLater s).tables = s.tables := rfl
@[simp] theorem examineLater_arbiter : (examineLater s).arbiter = s.arbiter := rfl
@[simp] theorem examineLater_engine : (examineLater s).engine = s.engine := rfl
@[simp] theorem examineLater_meas : (examineLater s).meas = s.meas := rfl
@[simp] theorem examineLater_tickets : (examineLater s).tickets = s.tickets := rfl
@[simp] theorem examineLater_calendar : (examineLater s).calendar = s.calendar := rfl
@[simp] theorem examineLater_schedules : (examineLater s).schedules = s.schedules := rfl
@[simp] theorem examineLater_interp : (examineLater s).interp = s.interp := rfl
@[simp] theorem examineLater_agenda : (examineLater s).agenda = s.agenda ++ [.examine] := rfl
@[simp] theorem examineLater_clock : (examineLater s).clock = s.clock := rfl
@[simp] theorem examineLater_ageMs : (examineLater s).ageMs = s.ageMs := rfl

/-! ### `modPort`, `transmit`, `giveSlot` -/

@[simp] theorem modPort_pending (p : Side) (f : Port → Port) : (modPort s p f).pending = s.pending := by cases p <;> rfl
@[simp] theorem modPort_tracker (p : Side) (f : Port → Port) : (modPort s p f).tracker = s.tracker := by cases p <;> rfl
@[simp] theorem modPort_tables (p : Side) (f : Port → Port) : (modPort s p f).tables = s.tables := by cases p <;> rfl
@[simp] theorem modPort_arbiter (p : Side) (f : Port → Port) : (modPort s p f).arbiter = s.arbiter := by cases p <;> rfl
@[simp] theorem modPort_engine (p : Side) (f : Port → Port) : (modPort s p f).engine = s.engine := by cases p <;> rfl
@[simp] theorem modPort_meas (p : Side) (f : Port → Port) : (modPort s p f).meas = s.meas := by cases p <;> rfl
@[simp] theorem modPort_tickets (p : Side) (f : Port → Port) : (modPort s p f).tickets = s.tickets := by cases p <;> rfl
@[simp] theorem modPort_calendar (p : Side) (f : Port → Port) : (modPort s p f).calendar = s.calendar := by cases p <;> rfl
@[simp] theorem modPort_schedules (p : Side) (f : Port → Port) : (modPort s p f).schedules = s.schedules := by cases p <;> rfl
@[simp] theorem modPort_interp (p : Side) (f : Port → Port) : (modPort s p f).interp = s.interp := by cases p <;> rfl
@[simp] theorem modPort_agenda (p : Side) (f : Port → Port) : (modPort s p f).agenda = s.agenda := by cases p <;> rfl
@[simp] theorem modPort_clock (p : Side) (f : Port → Port) : (modPort s p f).clock = s.clock := by cases p <;> rfl
@[simp] theorem modPort_ageMs (p : Side) (f : Port → Port) : (modPort s p f).ageMs = s.ageMs := by cases p <;> rfl
@[simp] theorem transmit_pending (p : Side) (x : Transmit) : (transmit s p x).pending = s.pending := by cases p <;> rfl
@[simp] theorem transmit_tracker (p : Side) (x : Transmit) : (transmit s p x).tracker = s.tracker := by cases p <;> rfl
@[simp] theorem transmit_tables (p : Side) (x : Transmit) : (transmit s p x).tables = s.tables := by cases p <;> rfl
@[simp] theorem transmit_arbiter (p : Side) (x : Transmit) : (transmit s p x).arbiter = s.arbiter := by cases p <;> rfl
@[simp] theorem transmit_engine (p : Side) (x : Transmit) : (transmit s p x).engine = s.engine := by cases p <;> rfl
@[simp] theorem transmit_meas (p : Side) (x : Transmit) : (transmit s p x).meas = s.meas := by cases p <;> rfl
@[simp] theorem transmit_tickets (p : Side) (x : Transmit) : (transmit s p x).tickets = s.tickets := by cases p <;> rfl
@[simp] theorem transmit_calendar (p : Side) (x : Transmit) : (transmit s p x).calendar = s.calendar := by cases p <;> rfl
@[simp] theorem transmit_schedules (p : Side) (x : Transmit) : (transmit s p x).schedules = s.schedules := by cases p <;> rfl
@[simp] theorem transmit_interp (p : Side) (x : Transmit) : (transmit s p x).interp = s.interp := by cases p <;> rfl
@[simp] theorem transmit_agenda (p : Side) (x : Transmit) : (transmit s p x).agenda = s.agenda := by cases p <;> rfl
@[simp] theorem transmit_clock (p : Side) (x : Transmit) : (transmit s p x).clock = s.clock := by cases p <;> rfl
@[simp] theorem transmit_ageMs (p : Side) (x : Transmit) : (transmit s p x).ageMs = s.ageMs := by cases p <;> rfl
@[simp] theorem giveSlot_pending (p : Side) : (giveSlot s p).pending = s.pending := by cases p <;> rfl
@[simp] theorem giveSlot_tracker (p : Side) : (giveSlot s p).tracker = s.tracker := by cases p <;> rfl
@[simp] theorem giveSlot_tables (p : Side) : (giveSlot s p).tables = s.tables := by cases p <;> rfl
@[simp] theorem giveSlot_arbiter (p : Side) : (giveSlot s p).arbiter = s.arbiter := by cases p <;> rfl
@[simp] theorem giveSlot_engine (p : Side) : (giveSlot s p).engine = s.engine := by cases p <;> rfl
@[simp] theorem giveSlot_meas (p : Side) : (giveSlot s p).meas = s.meas := by cases p <;> rfl
@[simp] theorem giveSlot_tickets (p : Side) : (giveSlot s p).tickets = s.tickets := by cases p <;> rfl
@[simp] theorem giveSlot_calendar (p : Side) : (giveSlot s p).calendar = s.calendar := by cases p <;> rfl
@[simp] theorem giveSlot_schedules (p : Side) : (giveSlot s p).schedules = s.schedules := by cases p <;> rfl
@[simp] theorem giveSlot_interp (p : Side) : (giveSlot s p).interp = s.interp := by cases p <;> rfl
@[simp] theorem giveSlot_agenda (p : Side) : (giveSlot s p).agenda = s.agenda := by cases p <;> rfl
@[simp] theorem giveSlot_clock (p : Side) : (giveSlot s p).clock = s.clock := by cases p <;> rfl
@[simp] theorem giveSlot_ageMs (p : Side) : (giveSlot s p).ageMs = s.ageMs := by cases p <;> rfl

@[simp] theorem portAt_modPort (p : Side) (f : Port → Port) : portAt (modPort s p f) p = f (portAt s p) := by
  cases p <;> rfl
@[simp] theorem portAt_modPort_opposite (p : Side) (f : Port → Port) :
    portAt (modPort s p f) (opposite p) = portAt s (opposite p) := by cases p <;> rfl
@[simp] theorem portAt_transmit (p q : Side) (x : Transmit) : portAt (transmit s p x) q = portAt s q := by
  cases p <;> cases q <;> rfl
@[simp] theorem portAt_giveSlot (p q : Side) : portAt (giveSlot s p) q = portAt s q := by
  cases p <;> cases q <;> rfl
@[simp] theorem own_modPort (p : Side) (f : Port → Port) : own (modPort s p f) = own s := by cases p <;> rfl
@[simp] theorem own_transmit (p : Side) (x : Transmit) : own (transmit s p x) = own s := by cases p <;> rfl
@[simp] theorem own_giveSlot (p : Side) : own (giveSlot s p) = own s := by cases p <;> rfl

/-! ### Reading an entry after one is written -/

theorem lineOf_modLine (n k : Nat) (f : Line → Line) :
    lineOf (modLine s n f) k = if k = n then f (lineOf s n) else lineOf s k := tabGet_tabMod ..
theorem shelfAt_modShelf (n k : Nat) (f : Shelf → Shelf) :
    shelfAt (modShelf s n f) k = if k = n then f (shelfAt s n) else shelfAt s k := tabGet_tabMod ..
theorem busAt_modBus (n k : Nat) (f : Bus → Bus) :
    busAt (modBus s n f) k = if k = n then f (busAt s n) else busAt s k := tabGet_tabMod ..
theorem riserAt_putRiser (n k : Nat) (x : Riser) :
    riserAt (putRiser s n x) k = if k = n then x else riserAt s k := tabGet_tabPut ..
theorem sessionAt_putSession (n k : Nat) (x : Option Session) :
    sessionAt (putSession s n x) k = if k = n then x else sessionAt s k := tabGet_tabPut ..
theorem sessionAt_modSession (n k : Nat) (f : Session → Session) :
    sessionAt (modSession s n f) k = if k = n then (sessionAt s n).map f else sessionAt s k := tabGet_tabMod ..
theorem windowAt_putWindow (n k : Nat) (x : Option Window) :
    windowAt (putWindow s n x) k = if k = n then x else windowAt s k := tabGet_tabPut ..
theorem collectorAt_putCollector (n k : Nat) (x : Collector) :
    collectorAt (putCollector s n x) k = if k = n then x else collectorAt s k := tabGet_tabPut ..
theorem checkerAt_putChecker (n k : Nat) (x : Checker) :
    checkerAt (putChecker s n x) k = if k = n then x else checkerAt s k := tabGet_tabPut ..
theorem groupAt_putGroup (n k : Nat) (x : CableGroup) :
    groupAt (putGroup s n x) k = if k = n then x else groupAt s k := tabGet_tabPut ..
theorem scheduleAt_putSchedule (n k : Nat) (x : Schedule) :
    scheduleAt (putSchedule s n x) k = if k = n then x else scheduleAt s k := tabGet_tabPut ..
theorem slotAt_putSlot (n k : Nat) (x : Slot) :
    slotAt (putSlot s n x) k = if k = n then x else slotAt s k := tabGet_tabPut ..
theorem unitAt_putUnit (n k : Nat) (x : NoticeUnit) :
    unitAt (putUnit s n x) k = if k = n then x else unitAt s k := tabGet_tabPut ..

theorem runAt_modRun (n k : Nat) (f : SweepRun → SweepRun) :
    (scheduleAt (modRun s n f) k).run = if k = n then f (scheduleAt s n).run else (scheduleAt s k).run := by
  rw [scheduleAt, modRun, tabGet_tabMod]
  split <;> rfl
theorem configAt_modRun (n k : Nat) (f : SweepRun → SweepRun) :
    (scheduleAt (modRun s n f) k).config = (scheduleAt s k).config := by
  rw [scheduleAt, modRun, tabGet_tabMod]
  split
  · subst_vars; rfl
  · rfl

end Sys2Proof.Machine
end

