-- ==== Sys2Proof/Laws/Slots.lean ====
section
/-! SUPPORT. The law of the result slots (`SlotsAgreeBut`, R204): what each change of the queue, the session table and
the result store does to it. -/

namespace Sys2Proof.Machine

set_option Elab.async false

variable {l l' : List Nat} {s : State}

/-! ### One table changed -/

/-- The law looks at the session table, the queue, the slots and the filling order alone. -/
theorem slots_congr {t : State} (h : SlotsAgreeBut l s) (h1 : t.engine.sessions = s.engine.sessions)
    (h2 : t.arbiter.queue = s.arbiter.queue) (h3 : t.interp.slots = s.interp.slots)
    (h4 : t.interp.fillingOrder = s.interp.fillingOrder) : SlotsAgreeBut l t := by
  unfold SlotsAgreeBut slotHolders sessionAt slotAt at *
  simp only [h1, h2, h3, h4]
  exact h

/-- The loose slots count, in whatever order. -/
theorem slots_perm (h : SlotsAgreeBut l s) (hl : ∀ n, l'.count n = l.count n) : SlotsAgreeBut l' s := by
  obtain ⟨h1, h2, h3⟩ := h
  exact ⟨h1, fun n => by rw [hl]; exact h2 n, h3⟩

/-- An entry of the session table replaced; the slots it held and holds are exchanged with the loose ones. -/
theorem slots_putSession (h : SlotsAgreeBut l s) (id : Nat) (x : Option Session) (h8 : x.isSome = true → id < 8)
    (hx : ∀ y, x = some y → y.slot.isSome = decide (y.cls = .demand))
    (hl : ∀ n, l'.count n + (if x.bind (·.slot) = some n then 1 else 0) =
      l.count n + (if (sessionAt s id).bind (·.slot) = some n then 1 else 0)) :
    SlotsAgreeBut l' (putSession s id x) := by
  obtain ⟨⟨hr, hid⟩, hc, hf, h32, hq, hs⟩ := h
  refine ⟨⟨tabPut_rising _ _ _ _ hr, fun j hj => ?_⟩, fun n => ?_, hf, h32, hq, fun j y hj => ?_⟩
  · rw [sessionAt_putSession] at hj
    split at hj
    · subst_vars; exact h8 hj
    · exact hid j hj
  · have h1 := countP_tabPut (none : Option Session) (fun y => decide (y.2.bind (·.slot) = some n)) s.engine.sessions
      id x hr (by simp)
    have h2 := hc n
    have h3 := hl n
    have h4 : l'.count n + (tabPut none s.engine.sessions id x).countP (fun y => decide (y.2.bind (·.slot) = some n)) =
        l.count n + s.engine.sessions.countP (fun y => decide (y.2.bind (·.slot) = some n)) := by
      simp only [sessionAt] at h3
      by_cases e1 : (tabGet none s.engine.sessions id).bind (·.slot) = some n <;>
        by_cases e2 : x.bind (·.slot) = some n <;>
        simp only [e1, e2, if_true, if_false, decide_true, decide_false, Bool.false_eq_true] at h1 h3 <;> omega
    simp only [slotHolders] at h2 ⊢
    show l'.count n + (s.arbiter.queue.countP _ +
      (tabPut none s.engine.sessions id x).countP (fun y => decide (y.2.bind (·.slot) = some n))) = _
    show _ = if slotAt s n = .reserved then 1 else 0
    omega
  · rw [sessionAt_putSession] at hj
    split at hj
    · exact hx y hj
    · exact hs j y hj

/-- A session changed in neither its slot nor its class. -/
theorem slots_modSession (h : SlotsAgreeBut l s) (id : Nat) (f : Session → Session)
    (hf : ∀ x, (f x).slot = x.slot) (hc : ∀ x, (f x).cls = x.cls) : SlotsAgreeBut l (modSession s id f) := by
  show SlotsAgreeBut l (putSession s id ((sessionAt s id).map f))
  refine slots_putSession h id _ (fun h8 => h.1.2 id (by simpa using h8)) (fun y hy => ?_) fun n => ?_
  · obtain ⟨z, hz, rfl⟩ := Option.map_eq_some_iff.1 hy
    rw [hf, hc]
    exact h.2.2.2.2.2 id z hz
  · cases sessionAt s id <;> simp [hf]

/-- The queue replaced; the slots that leave it and join it are exchanged with the loose ones. -/
theorem slots_putQueue (h : SlotsAgreeBut l s) (q : List Entry)
    (hq : q.Pairwise (fun x y => sameRequest x y = false) ∧ ∀ x ∈ q, x.slot.isSome = true → x.cls = .demand)
    (hl : ∀ n, l'.count n + q.countP (fun x => x.slot = some n) =
      l.count n + s.arbiter.queue.countP (fun x => x.slot = some n)) : SlotsAgreeBut l' (putQueue s q) := by
  obtain ⟨h1, hc, hf, h32, _, hs⟩ := h
  refine ⟨h1, fun n => ?_, hf, h32, hq, hs⟩
  have h2 := hc n
  have h3 := hl n
  simp only [slotHolders] at h2 ⊢
  show l'.count n + (q.countP _ + s.engine.sessions.countP (fun x => decide (x.2.bind (·.slot) = some n))) =
    if slotAt s n = .reserved then 1 else 0
  omega

theorem sameRequest_symm (x y : Entry) : sameRequest x y = sameRequest y x := by
  simp only [sameRequest, eq_comm]

theorem sameRequest_refl (x : Entry) : sameRequest x x = true := by simp [sameRequest]

theorem sameRequest_trans {x y z : Entry} (h : sameRequest x y = true) (k : sameRequest y z = true) :
    sameRequest x z = true := by
  simp only [sameRequest, Bool.decide_and, Bool.and_eq_true, decide_eq_true_eq] at *
  exact ⟨h.1.trans k.1, h.2.1.trans k.2.1, h.2.2.trans k.2.2⟩

/-- Of two waiting entries of one request there is one. -/
theorem SlotsAgreeBut.eq_of_same (h : SlotsAgreeBut l s) {x y : Entry} (hx : x ∈ s.arbiter.queue)
    (hy : y ∈ s.arbiter.queue) (hs : sameRequest x y = true) : x = y := by
  have hp := h.2.2.2.2.1.1
  generalize s.arbiter.queue = q at hx hy hp
  induction q with
  | nil => cases hx
  | cons z rest ih =>
    rw [List.pairwise_cons] at hp
    rcases List.mem_cons.1 hx with e | hx'
    · rcases List.mem_cons.1 hy with e' | hy'
      · rw [e, e']
      · have := hp.1 y hy'; rw [← e, hs] at this; cases this
    · rcases List.mem_cons.1 hy with e' | hy'
      · have := hp.1 x hx'; rw [← e', sameRequest_symm, hs] at this; cases this
      · exact ih hx' hy' hp.2

/-- Entries changed in neither request, class nor slot. -/
theorem slots_mapQueue (h : SlotsAgreeBut l s) (f : Entry → Entry)
    (hf : ∀ x ∈ s.arbiter.queue, (f x).line = x.line ∧ (f x).program = x.program ∧ (f x).cls = x.cls ∧
      (f x).slot = x.slot) : SlotsAgreeBut l (putQueue s (s.arbiter.queue.map f)) := by
  refine slots_putQueue h _ ⟨?_, fun y hy => ?_⟩ fun n => ?_
  · rw [List.pairwise_map]
    refine h.2.2.2.2.1.1.imp_of_mem fun {a b} ha hb hab => ?_
    obtain ⟨a1, a2, a3, _⟩ := hf a ha
    obtain ⟨b1, b2, b3, _⟩ := hf b hb
    have : sameRequest (f a) (f b) = sameRequest a b := by
      simp only [sameRequest, isDemand, a1, a2, a3, b1, b2, b3]
      exact decide_eq_decide.2 Iff.rfl
    rw [this]; exact hab
  · obtain ⟨x, hx, rfl⟩ := List.mem_map.1 hy
    obtain ⟨_, _, h3, h4⟩ := hf x hx
    rw [h3, h4]
    exact h.2.2.2.2.1.2 x hx
  · rw [List.countP_map]
    refine congrArg _ (List.countP_congr fun x hx => ?_)
    simp [(hf x hx).2.2.2]

/-- A waiting entry replaced by one of its line, program, class and slot. -/
theorem slots_replaceEntry (h : SlotsAgreeBut l s) {x y : Entry} (hx : x ∈ s.arbiter.queue)
    (hy : y.line = x.line ∧ y.program = x.program ∧ y.cls = x.cls ∧ y.slot = x.slot) :
    SlotsAgreeBut l (replaceEntry s y) := by
  refine slots_mapQueue h _ fun z hz => ?_
  split
  · rename_i hs
    have : x = z := h.eq_of_same hx hz (by
      simp only [sameRequest, isDemand, hy.1, hy.2.1, hy.2.2.1] at hs ⊢; exact hs)
    rw [← this]; exact hy
  · exact ⟨rfl, rfl, rfl, rfl⟩

/-- The entry that replaced one waits. -/
theorem mem_replaceEntry {x y : Entry} (hx : x ∈ s.arbiter.queue) (hs : sameRequest y x = true) :
    y ∈ (replaceEntry s y).arbiter.queue :=
  List.mem_map.2 ⟨x, hx, by rw [if_pos hs]⟩

/-! ### Entries leave and join -/

theorem leaveQueue_queue (s : State) (x : Entry) :
    (leaveQueue s x).arbiter.queue = s.arbiter.queue.filter (fun y => ! sameRequest x y) := by
  unfold leaveQueue; dsimp only; split <;> rfl

/-- What leaves with an entry, and what an examination adds, is not the law's. -/
theorem slots_leaveQueue_of (h : SlotsAgreeBut l (putQueue s (s.arbiter.queue.filter (fun y => ! sameRequest x y)))) :
    SlotsAgreeBut l (leaveQueue s x) := by
  unfold leaveQueue
  dsimp only
  split
  · exact slots_congr h rfl rfl rfl rfl
  · exact h

theorem pairwise_filter (h : SlotsAgreeBut l s) (p : Entry → Bool) :
    (s.arbiter.queue.filter p).Pairwise (fun x y => sameRequest x y = false) ∧
      ∀ x ∈ s.arbiter.queue.filter p, x.slot.isSome = true → x.cls = .demand :=
  ⟨h.2.2.2.2.1.1.filter _, fun x hx => h.2.2.2.2.1.2 x (List.mem_filter.1 hx).1⟩

/-- An entry without a slot leaves. -/
theorem slots_leaveQueue_none (h : SlotsAgreeBut l s) {x : Entry}
    (hx : ∀ y ∈ s.arbiter.queue, sameRequest x y = true → y.slot = none) : SlotsAgreeBut l (leaveQueue s x) := by
  refine slots_leaveQueue_of (slots_putQueue h _ (pairwise_filter h _) fun n => ?_)
  have : ∀ q : List Entry, (∀ y ∈ q, sameRequest x y = true → y.slot = none) →
      (q.filter (fun y => ! sameRequest x y)).countP (fun x => decide (x.slot = some n)) =
        q.countP (fun x => decide (x.slot = some n)) := by
    intro q
    induction q with
    | nil => exact fun _ => rfl
    | cons z rest ih =>
      intro hq
      have := ih fun y hy => hq y (List.mem_cons_of_mem _ hy)
      by_cases hs : sameRequest x z = true
      · simp only [List.filter_cons, hs, List.countP_cons, hq z (List.mem_cons_self ..) hs]
        simp [this]
      · simp only [List.filter_cons, hs, List.countP_cons, Bool.not_false, if_true, this]
  rw [this _ hx]

/-- A routine entry leaves. -/
theorem slots_leaveQueue_routine (h : SlotsAgreeBut l s) {x : Entry} (hx : isRoutine x = true) :
    SlotsAgreeBut l (leaveQueue s x) := by
  refine slots_leaveQueue_none h fun y hy hs => ?_
  have hd := h.2.2.2.2.1.2 y hy
  cases hsl : y.slot with
  | none => rfl
  | some n =>
    exfalso
    have hc := hd (by simp [hsl])
    simp only [sameRequest, Bool.decide_and, Bool.and_eq_true, decide_eq_true_eq] at hs
    simp only [isRoutine, hs.2.2] at hx
    simp [isDemand, hc] at hx

/-- A waiting entry leaves: its slot becomes loose. -/
theorem slots_leaveQueue (h : SlotsAgreeBut l s) {x : Entry} (hx : x ∈ s.arbiter.queue) :
    SlotsAgreeBut (x.slot.toList ++ l) (leaveQueue s x) := by
  refine slots_leaveQueue_of (slots_putQueue h _ (pairwise_filter h _) fun n => ?_)
  have : ∀ q : List Entry, q.Pairwise (fun x y => sameRequest x y = false) → x ∈ q →
      (q.filter (fun y => ! sameRequest x y)).countP (fun x => decide (x.slot = some n)) +
        (if x.slot = some n then 1 else 0) = q.countP (fun x => decide (x.slot = some n)) := by
    intro q
    induction q with
    | nil => exact fun _ h => nomatch h
    | cons z rest ih =>
      intro hp hm
      rw [List.pairwise_cons] at hp
      rcases List.mem_cons.1 hm with e | hm'
      · subst e
        have hrest : rest.filter (fun y => ! sameRequest x y) = rest :=
          List.filter_eq_self.2 fun y hy => by simp [hp.1 y hy]
        simp [sameRequest_refl, hrest, List.countP_cons]
      · have hs : sameRequest x z = false := by rw [sameRequest_symm]; exact hp.1 x hm'
        have := ih hp.2 hm'
        simp only [List.filter_cons, hs, Bool.not_false, if_true, List.countP_cons]
        omega
  have := this _ h.2.2.2.2.1.1 hx
  rw [List.count_append]
  have hsl : x.slot.toList.count n = if x.slot = some n then 1 else 0 := by
    cases x.slot <;> simp [List.count_cons, beq_iff_eq]
  omega

/-- An entry joins, of no waiting request; its slot was loose. -/
theorem slots_joinQueue {x : Entry} (h : SlotsAgreeBut (x.slot.toList ++ l) s)
    (hno : ∀ y ∈ s.arbiter.queue, sameRequest x y = false) (hd : x.slot.isSome = true → x.cls = .demand) :
    SlotsAgreeBut l (joinQueue s x) := by
  refine slots_congr (t := joinQueue s x)
    (slots_putQueue (q := insertEntry s.arbiter.queue x) h ⟨?_, fun y hy => ?_⟩ fun n => ?_) rfl rfl rfl rfl
  · unfold insertEntry
    have hp := h.2.2.2.2.1.1
    rw [List.append_assoc, List.pairwise_append]
    refine ⟨hp.filter _, ?_, fun a ha b hb => ?_⟩
    · rw [List.singleton_append, List.pairwise_cons]
      exact ⟨fun y hy => hno y (List.mem_filter.1 hy).1, hp.filter _⟩
    · have ha' := (List.mem_filter.1 ha).1
      rcases List.mem_append.1 hb with hb | hb
      · rw [List.mem_singleton.1 hb, sameRequest_symm]; exact hno a ha'
      · have hb' := (List.mem_filter.1 hb).1
        by_cases hs : sameRequest a b = true
        · have := h.eq_of_same ha' hb' hs
          subst this
          have h1 := (List.mem_filter.1 ha).2
          have h2 := (List.mem_filter.1 hb).2
          simp only [decide_eq_true_eq] at h1 h2
          omega
        · simpa using hs
  · unfold insertEntry at hy
    rcases List.mem_append.1 hy with hy | hy
    · rcases List.mem_append.1 hy with hy | hy
      · exact h.2.2.2.2.1.2 y (List.mem_filter.1 hy).1
      · rw [List.mem_singleton.1 hy]; exact hd
    · exact h.2.2.2.2.1.2 y (List.mem_filter.1 hy).1
  · have : ∀ q : List Entry, (q.filter (fun y => decide (placeRank y ≤ placeRank x))).countP (fun x => decide (x.slot = some n)) +
        (q.filter (fun y => decide (placeRank x < placeRank y))).countP (fun x => decide (x.slot = some n)) =
          q.countP (fun x => decide (x.slot = some n)) := by
      intro q
      induction q with
      | nil => rfl
      | cons y rest ih =>
        simp only [List.filter_cons]
        by_cases hle : placeRank y ≤ placeRank x
        · simp [hle, Nat.not_lt.2 hle, List.countP_cons]; omega
        · simp [hle, Nat.lt_of_not_le hle, List.countP_cons]; omega
    have := this s.arbiter.queue
    unfold insertEntry
    simp only [List.countP_append, List.countP_cons, List.countP_nil, List.count_append]
    have hsl : x.slot.toList.count n = if x.slot = some n then 1 else 0 := by
      cases x.slot <;> simp [List.count_cons, beq_iff_eq]
    simp only [decide_eq_true_eq]
    omega

/-! ### Slots change -/

theorem SlotsAgreeBut.reserved_of_loose {n : Nat} (h : SlotsAgreeBut (n :: l) s) : slotAt s n = .reserved := by
  have := h.2.1 n
  rw [List.count_cons_self] at this
  split at this
  · assumption
  · omega

theorem SlotsAgreeBut.unlisted {n : Nat} (h : SlotsAgreeBut l s) (hn : isFilled (slotAt s n) = false) :
    s.interp.fillingOrder.count n = 0 := by
  have := h.2.2.1 n
  simpa [hn] using this

/-- A loose slot becomes FREE. -/
theorem slots_releaseSlot {n : Nat} (h : SlotsAgreeBut (n :: l) s) : SlotsAgreeBut l (releaseSlot s n) := by
  have hr := h.reserved_of_loose
  have hu := h.unlisted (n := n) (by rw [hr]; rfl)
  obtain ⟨h1, hc, hf, h32, hq, hs⟩ := h
  refine ⟨h1, fun k => ?_, fun k => ?_, fun k hk => ?_, hq, hs⟩
  · have := hc k
    show l.count k + slotHolders s k = if slotAt (putSlot s n .free) k = .reserved then 1 else 0
    rw [slotAt_putSlot]
    by_cases hk : k = n
    · subst hk; rw [List.count_cons_self, hr] at this; simp at this ⊢; omega
    · rw [List.count_cons_of_ne (fun e => hk e.symm)] at this; rw [if_neg hk]; exact this
  · show s.interp.fillingOrder.count k = if isFilled (slotAt (putSlot s n .free) k) = true then 1 else 0
    rw [slotAt_putSlot]
    by_cases hk : k = n
    · subst hk; rw [if_pos rfl]; exact hu
    · rw [if_neg hk]; exact hf k
  · show slotAt (putSlot s n .free) k = .free
    rw [slotAt_putSlot]
    split
    · rfl
    · exact h32 k hk

/-- A slot that no one else holds is filled: one that was loose, or one that was FREE. -/
theorem slots_fill {n : Nat} {r : ResultRecord} {rs : List Recipient} (hrs : rs ≠ [])
    (h : SlotsAgreeBut (n :: l) s ∨ (SlotsAgreeBut l s ∧ slotAt s n = .free ∧ n < 32)) :
    SlotsAgreeBut l (fillSlot s n r rs) := by
  have hfill : isFilled (.filled r rs 0) = true := by simp [isFilled, hrs]
  have hn : n < 32 := by
    rcases h with h | h
    · by_cases hn : n < 32
      · exact hn
      · have := h.2.2.2.1 n (by omega); rw [h.reserved_of_loose] at this; cases this
    · exact h.2.2
  have hu : s.interp.fillingOrder.count n = 0 := by
    rcases h with h | h
    · exact h.unlisted (by rw [h.reserved_of_loose]; rfl)
    · exact h.1.unlisted (by rw [h.2.1]; rfl)
  have hheld : l.count n + slotHolders s n = 0 := by
    rcases h with h | h
    · have := h.2.1 n; rw [List.count_cons_self, h.reserved_of_loose] at this; simp at this; omega
    · have := h.1.2.1 n; rw [h.2.1] at this; simpa using this
  have hc : ∀ k, k ≠ n → l.count k + slotHolders s k = if slotAt s k = .reserved then 1 else 0 := fun k hk => by
    rcases h with h | h
    · have := h.2.1 k; rwa [List.count_cons_of_ne (fun e => hk e.symm)] at this
    · exact h.1.2.1 k
  have hrest : ((tabRising s.engine.sessions ∧ ∀ id, (sessionAt s id).isSome = true → id < 8) ∧
      (∀ n : Nat, s.interp.fillingOrder.count n = if isFilled (slotAt s n) = true then 1 else 0) ∧
      (∀ n : Nat, 32 ≤ n → slotAt s n = .free)) ∧
      (s.arbiter.queue.Pairwise (fun x y => sameRequest x y = false) ∧
        ∀ x ∈ s.arbiter.queue, x.slot.isSome = true → x.cls = .demand) ∧
      (∀ id x, sessionAt s id = some x → x.slot.isSome = decide (x.cls = .demand)) := by
    rcases h with h | h
    · exact ⟨⟨h.1, h.2.2.1, h.2.2.2.1⟩, h.2.2.2.2.1, h.2.2.2.2.2⟩
    · exact ⟨⟨h.1.1, h.1.2.2.1, h.1.2.2.2.1⟩, h.1.2.2.2.2.1, h.1.2.2.2.2.2⟩
  obtain ⟨⟨h1, hf, h32⟩, hq, hs⟩ := hrest
  unfold fillSlot
  rw [if_neg hrs]
  refine ⟨h1, fun k => ?_, fun k => ?_, fun k hk => ?_, hq, hs⟩
  · show l.count k + slotHolders s k = if slotAt (putSlot s n (.filled r rs 0)) k = .reserved then 1 else 0
    rw [slotAt_putSlot]
    by_cases hk : k = n
    · subst hk; rw [if_pos rfl]; simpa using hheld
    · rw [if_neg hk]; exact hc k hk
  · show (s.interp.fillingOrder ++ [n]).count k = if isFilled (slotAt (putSlot s n (.filled r rs 0)) k) = true then 1 else 0
    rw [slotAt_putSlot, List.count_append]
    by_cases hk : k = n
    · subst hk; rw [if_pos rfl, hu, hfill]; simp
    · rw [if_neg hk, List.count_eq_zero_of_not_mem (a := k) (l := [n]) (by simpa using hk)]; exact hf k
  · show slotAt (putSlot s n (.filled r rs 0)) k = .free
    rw [slotAt_putSlot, if_neg (by omega)]
    exact h32 k hk

theorem freeSlot_spec {n : Nat} (h : freeSlot s = some n) : slotAt s n = .free ∧ n < 32 := by
  unfold freeSlot at h
  exact ⟨by simpa using List.find?_some h, List.mem_range.1 (List.mem_of_find?_eq_some h)⟩

/-- A record goes to a slot (R205). -/
theorem slots_fillRecord {held : Option Nat} (h : SlotsAgreeBut (held.toList ++ l) s) (r : ResultRecord)
    (rs : List Recipient) : SlotsAgreeBut l (fillRecord s held r rs) := by
  unfold fillRecord
  split
  · by_cases hrs : rs = []
    · subst hrs
      exact slots_releaseSlot h
    · exact slots_fill hrs (.inl h)
  · split
    · rename_i n hn
      obtain ⟨h1, h2⟩ := freeSlot_spec hn
      by_cases hrs : rs = []
      · subst hrs
        have hk : SlotsAgreeBut l s := h
        unfold fillSlot releaseSlot
        rw [if_pos rfl]
        have hsame : ∀ k, slotAt (putSlot s n .free) k = slotAt s k := fun k => by
          rw [slotAt_putSlot]; split
          · subst_vars; exact h1.symm
          · rfl
        obtain ⟨a1, hc, hf, h32, hq, hs⟩ := hk
        exact ⟨a1, fun k => (hc k).trans (by show _ = if slotAt (putSlot s n .free) k = .reserved then 1 else 0; rw [hsame]),
          fun k => (hf k).trans (by
            show _ = if isFilled (slotAt (putSlot s n .free) k) = true then 1 else 0; rw [hsame]),
          fun k hk => (hsame k).trans (h32 k hk), hq, hs⟩
      · exact slots_fill hrs (.inr ⟨h, h1, h2⟩)
    · exact h

/-- A demand request ends without a session (R205). -/
theorem slots_endWithoutSession {held : Option Nat} (h : SlotsAgreeBut (held.toList ++ l) s) (line program : Nat)
    (rs : List Requester) (o : EndOutcome) : SlotsAgreeBut l (endWithoutSession s held line program rs o) :=
  slots_fillRecord h _ _

/-- The next RESULT cell leaves the store (R206). -/
theorem slots_deliverResult (h : SlotsAgreeBut l s) : SlotsAgreeBut l (deliverResult s) := by
  unfold deliverResult
  split
  · exact h
  · split
    · exact h
    · rename_i n order ho
      have hin : isFilled (slotAt s n) = true := by
        have := h.2.2.1 n
        rw [ho, List.count_cons_self] at this
        split at this
        · assumption
        · omega
      have hnr : slotAt s n ≠ .reserved := fun e => by rw [e] at hin; cases hin
      have hn : n < 32 := by
        by_cases hn : n < 32
        · exact hn
        · have := h.2.2.2.1 n (by omega); rw [this] at hin; cases hin
      obtain ⟨a1, hc, hf, h32, hq, hs⟩ := h
      have stay : ∀ (c : Option Cell) (v : Slot), isFilled v = true →
          SlotsAgreeBut l (putSlot (joinNormal s c.toList) n v) := fun c v hv => by
        have hget : ∀ k, slotAt (putSlot (joinNormal s c.toList) n v) k = if k = n then v else slotAt s k :=
          fun k => tabGet_tabPut ..
        refine ⟨a1, fun k => (hc k).trans ?_, fun k => (hf k).trans ?_, fun k hk => ?_, hq, hs⟩
        · rw [hget]
          by_cases hk : k = n
          · subst hk; rw [if_pos rfl, if_neg hnr, if_neg]; intro e; rw [e] at hv; cases hv
          · rw [if_neg hk]
        · rw [hget]
          by_cases hk : k = n
          · subst hk; rw [if_pos rfl, hin, hv]
          · rw [if_neg hk]
        · rw [hget, if_neg (by omega)]; exact h32 k hk
      split
      · rename_i r y rest sent hslot
        dsimp only
        split
        · exact stay _ _ rfl
        · split
          · rename_i hrest
            exact stay _ _ (by simp [isFilled, hrest])
          · have hget : ∀ k, slotAt (releaseSlot (onInterp (joinNormal s
                ((resultCells (own s) r y)[sent]?).toList) (fun i => { i with fillingOrder := order })) n) k =
                if k = n then .free else slotAt s k := fun k => slotAt_putSlot ..
            refine ⟨a1, fun k => (hc k).trans ?_, fun k => ?_, fun k hk => ?_, hq, hs⟩
            · rw [hget]
              by_cases hk : k = n
              · subst hk; rw [if_pos rfl, if_neg hnr]; rfl
              · rw [if_neg hk]
            · show order.count k = _
              have := hf k
              rw [hget]
              rw [ho] at this
              by_cases hk : k = n
              · subst hk; rw [List.count_cons_self, hin] at this; rw [if_pos rfl]; simp [isFilled] at this ⊢
                simpa using this
              · rw [if_neg hk]; rwa [List.count_cons_of_ne (fun e => hk e.symm)] at this
            · rw [hget]
              split
              · rfl
              · exact h32 k hk
      · rename_i hno
        exfalso
        revert hin hno
        cases slotAt s n with
        | free => intro e; cases e
        | reserved => intro e; cases e
        | filled r rs sent =>
          cases rs with
          | nil => intro e; cases e
          | cons y rest => intro _ e; exact e _ _ _ _ rfl

/-- A slot is reserved: one that was FREE becomes loose. -/
theorem slots_reserve {n : Nat} (h : SlotsAgreeBut l s) (hn : slotAt s n = .free) (h32 : n < 32) :
    SlotsAgreeBut (n :: l) (putSlot s n .reserved) := by
  have hu := h.unlisted (n := n) (by rw [hn]; rfl)
  obtain ⟨a1, hc, hf, hh, hq, hs⟩ := h
  refine ⟨a1, fun k => ?_, fun k => ?_, fun k hk => ?_, hq, hs⟩
  · show (n :: l).count k + slotHolders s k = _
    have := hc k
    rw [slotAt_putSlot]
    by_cases hk : k = n
    · subst hk; rw [hn] at this; rw [if_pos rfl, List.count_cons_self]; simp at this ⊢; omega
    · rw [if_neg hk, List.count_cons_of_ne (fun e => hk e.symm)]; exact this
  · show s.interp.fillingOrder.count k = _
    rw [slotAt_putSlot]
    by_cases hk : k = n
    · subst hk; rw [if_pos rfl]; exact hu
    · rw [if_neg hk]; exact hf k
  · rw [slotAt_putSlot, if_neg (by omega)]
    exact hh k hk

/-- A loose slot, already RESERVED, is written RESERVED. -/
theorem slots_rereserve {n : Nat} (h : SlotsAgreeBut (n :: l) s) : SlotsAgreeBut (n :: l) (putSlot s n .reserved) := by
  have hr := h.reserved_of_loose
  have hsame : ∀ k, slotAt (putSlot s n .reserved) k = slotAt s k := fun k => by
    rw [slotAt_putSlot]; split
    · subst_vars; exact hr.symm
    · rfl
  obtain ⟨a1, hc, hf, h32, hq, hs⟩ := h
  exact ⟨a1, fun k => (hc k).trans (by rw [hsame]), fun k => (hf k).trans (by rw [hsame]),
    fun k hk => (hsame k).trans (h32 k hk), hq, hs⟩

/-! ### The request queue (section 4.3) -/

theorem slots_reportRoutine (h : SlotsAgreeBut l s) (c : RequestClass) (line : Nat) (r : SweepReport) :
    SlotsAgreeBut l (reportRoutine s c line r) := by
  unfold reportRoutine
  split
  · exact slots_congr h rfl rfl rfl rfl
  · exact h

theorem slots_displaceRoutine (h : SlotsAgreeBut l s) :
    SlotsAgreeBut l (displaceRoutine s) ∧ ∀ y ∈ (displaceRoutine s).arbiter.queue, y ∈ s.arbiter.queue := by
  unfold displaceRoutine
  split
  · rename_i x hx
    have hr : isRoutine x = true := (List.mem_filter.1 (List.mem_of_getLast? hx)).2
    refine ⟨slots_reportRoutine (slots_leaveQueue_routine h hr) _ _ _, fun y hy => ?_⟩
    have : (reportRoutine (leaveQueue s x) x.cls x.line .handedBack).arbiter.queue = (leaveQueue s x).arbiter.queue := by
      unfold reportRoutine; split <;> rfl
    rw [this, leaveQueue_queue] at hy
    exact (List.mem_filter.1 hy).1
  · exact ⟨h, fun _ => id⟩

theorem slots_mergeRequest (h : SlotsAgreeBut l s) {x : Entry} (hx : x ∈ s.arbiter.queue) (r : Requester)
    (waitMs : Nat) : SlotsAgreeBut l (mergeRequest s x r waitMs).1 := by
  unfold mergeRequest
  dsimp only
  repeat' split
  all_goals first | exact h | exact slots_replaceEntry h hx ⟨rfl, rfl, rfl, rfl⟩

theorem find_none {x : Entry} (h : s.arbiter.queue.find? (sameRequest x) = none) :
    ∀ y ∈ s.arbiter.queue, sameRequest x y = false := fun y hy => by
  simpa using List.find?_eq_none.1 h y hy

theorem slots_submitDemand (h : SlotsAgreeBut l s) (line program : Nat) (r : Requester) (waitMs : Nat) :
    SlotsAgreeBut l (submitDemand s line program r waitMs).1 := by
  unfold submitDemand
  dsimp only
  split
  · rename_i hf
    exact slots_mergeRequest h (List.mem_of_find?_eq_some hf) _ _
  · rename_i hno
    have hno := find_none hno
    repeat' split
    · exact slots_joinQueue (x := demandEntry line program r waitMs) h hno fun e => nomatch e
    · exact h
    · exact slots_joinQueue (x := demandEntry line program r waitMs) (slots_displaceRoutine h).1
        (fun y hy => hno y ((slots_displaceRoutine h).2 y hy)) fun e => nomatch e

theorem slots_submitRoutine (h : SlotsAgreeBut l s) (schedule line program : Nat) :
    SlotsAgreeBut l (submitRoutine s schedule line program).1 := by
  unfold submitRoutine
  dsimp only
  repeat' split
  all_goals first
    | exact h
    | rename_i hd _
      exact slots_joinQueue (x := routineEntry schedule line program) h (fun y hy => by
        simpa using fun e => hd (List.any_eq_true.2 ⟨y, hy, e⟩)) fun e => nomatch e

/-- A returned entry merges (R83): the waiting entry's slot is freed, its own is kept. -/
theorem slots_mergeReturned {new w : Entry} (h : SlotsAgreeBut (new.slot.toList ++ l) s) (hw : w ∈ s.arbiter.queue)
    (hs : sameRequest new w = true) (hd : new.slot.isSome = true → new.cls = .demand) :
    SlotsAgreeBut l (mergeReturned s new w) := by
  have h1 := slots_leaveQueue h hw
  have hgone : ∀ y ∈ (leaveQueue s w).arbiter.queue, sameRequest new y = false := fun y hy => by
    rw [leaveQueue_queue] at hy
    have := (List.mem_filter.1 hy).2
    cases he : sameRequest new y with
    | false => rfl
    | true => rw [sameRequest_trans (by rw [sameRequest_symm]; exact hs) he] at this; cases this
  have key : ∀ s2 : State, SlotsAgreeBut (new.slot.toList ++ l) s2 →
      s2.arbiter.queue = (leaveQueue s w).arbiter.queue → SlotsAgreeBut l
      (joinQueue (if (new.requesters ++ w.requesters).drop 4 = [] then reportRoutine s2 w.cls w.line .handedBack
        else endWithoutSession (reportRoutine s2 w.cls w.line .handedBack) none w.line w.program
          ((new.requesters ++ w.requesters).drop 4) .noResource)
        { new with requesters := (new.requesters ++ w.requesters).take 4, waitMs := max new.waitMs w.waitMs }) := by
    intro s2 h2 q2
    have h3 := slots_reportRoutine h2 w.cls w.line .handedBack
    have q3 : (reportRoutine s2 w.cls w.line .handedBack).arbiter.queue = (leaveQueue s w).arbiter.queue := by
      rw [← q2]; unfold reportRoutine; split <;> rfl
    have join : ∀ t : State, SlotsAgreeBut (new.slot.toList ++ l) t → t.arbiter.queue = (leaveQueue s w).arbiter.queue →
        SlotsAgreeBut l (joinQueue t { new with
          requesters := (new.requesters ++ w.requesters).take 4, waitMs := max new.waitMs w.waitMs }) := fun t ht hq =>
      slots_joinQueue (x := { new with
        requesters := (new.requesters ++ w.requesters).take 4, waitMs := max new.waitMs w.waitMs }) ht
        (fun y hy => hgone y (hq ▸ hy)) hd
    split
    · exact join _ h3 q3
    · refine join _ (slots_endWithoutSession (held := none) h3 _ _ _ _) (Eq.trans ?_ q3)
      unfold endWithoutSession fillRecord fillSlot
      repeat' split
      all_goals rfl
  unfold mergeReturned
  dsimp only
  cases hsl : w.slot with
  | none =>
    rw [hsl] at h1
    exact key _ h1 rfl
  | some n =>
    rw [hsl] at h1
    exact key _ (slots_releaseSlot h1) rfl

/-- A request given back rejoins with its slot, or gives it up (R83). -/
theorem slots_giveBack {new : Entry} (h : SlotsAgreeBut (new.slot.toList ++ l) s)
    (hd : new.slot.isSome = true → new.cls = .demand) : SlotsAgreeBut l (giveBack s new) := by
  unfold giveBack
  split
  · rename_i w hw
    exact slots_mergeReturned h (List.mem_of_find?_eq_some hw) (List.find?_some hw) hd
  · rename_i hno
    have hno := find_none hno
    split
    · repeat' split
      · exact slots_joinQueue h hno hd
      · exact slots_endWithoutSession h _ _ _ _
      · exact slots_joinQueue (slots_displaceRoutine h).1
          (fun y hy => hno y ((slots_displaceRoutine h).2 y hy)) hd
    · rename_i hr
      split
      · exact slots_joinQueue h hno hd
      · have hs : new.slot = none := by
          cases e : new.slot with
          | none => rfl
          | some n => exfalso; exact hr (by simp [isDemand, hd (by simp [e])])
        rw [hs] at h
        exact slots_reportRoutine h _ _ _

theorem slots_satisfyRoutine (h : SlotsAgreeBut l s) (line program : Nat) (failed : Bool) :
    SlotsAgreeBut l (satisfyRoutine s line program failed) := by
  unfold satisfyRoutine
  have : ∀ (q : List Entry) (s : State), (∀ y ∈ q, isRoutine y = true) → SlotsAgreeBut l s →
      SlotsAgreeBut l (q.foldl (fun s y => reportRoutine (leaveQueue s y) y.cls y.line (.satisfied failed)) s) := by
    intro q
    induction q with
    | nil => exact fun s _ h => h
    | cons y rest ih =>
      intro s hq h
      exact ih _ (fun z hz => hq z (List.mem_cons_of_mem _ hz))
        (slots_reportRoutine (slots_leaveQueue_routine h (hq y (List.mem_cons_self ..))) _ _ _)
  refine this _ _ (fun y hy => ?_) h
  have := (List.mem_filter.1 hy).2
  simp only [Bool.decide_and, Bool.and_eq_true, decide_eq_true_eq] at this
  exact this.1

/-- A cancelled entry leaves and frees its slot, or stays with fewer requesters (R82); the other entries wait on. -/
theorem slots_cancelEntry (h : SlotsAgreeBut l s) (r : Requester) {x : Entry} (hx : x ∈ s.arbiter.queue) :
    SlotsAgreeBut l (cancelEntry s r x) ∧
      ∀ y ∈ s.arbiter.queue, sameRequest x y = false → y ∈ (cancelEntry s r x).arbiter.queue := by
  unfold cancelEntry
  dsimp only
  split
  · have h1 := slots_leaveQueue h hx
    have hq : ∀ y ∈ s.arbiter.queue, sameRequest x y = false → y ∈ (leaveQueue s x).arbiter.queue := fun y hy e => by
      rw [leaveQueue_queue]
      exact List.mem_filter.2 ⟨hy, by simp [e]⟩
    cases hsl : x.slot with
    | none => rw [hsl] at h1; exact ⟨h1, hq⟩
    | some n => rw [hsl] at h1; exact ⟨slots_releaseSlot h1, hq⟩
  · exact ⟨slots_replaceEntry h hx ⟨rfl, rfl, rfl, rfl⟩, fun y hy e => List.mem_map.2 ⟨y, hy, by
      rw [if_neg]; intro e'
      rw [show sameRequest { x with requesters := x.requesters.filter (· ≠ r) } y = sameRequest x y from rfl, e] at e'
      cases e'⟩⟩

theorem slots_cancelEntries (r : Requester) (q : List Entry) (h : SlotsAgreeBut l s)
    (hq : ∀ x ∈ q, x ∈ s.arbiter.queue) (hp : q.Pairwise (fun x y => sameRequest x y = false)) :
    SlotsAgreeBut l (q.foldl (fun s x => cancelEntry s r x) s) := by
  induction q generalizing s with
  | nil => exact h
  | cons x rest ih =>
    rw [List.pairwise_cons] at hp
    have h1 := slots_cancelEntry h r (hq x (List.mem_cons_self ..))
    exact ih h1.1 (fun y hy => h1.2 y (hq y (List.mem_cons_of_mem _ hy)) (hp.1 y hy)) hp.2

theorem slots_waitExpired (h : SlotsAgreeBut l s) {x : Entry} (hx : x ∈ s.arbiter.queue) :
    SlotsAgreeBut l (waitExpired s x) := slots_endWithoutSession (slots_leaveQueue h hx) _ _ _ _

/-! ### Warm restart (R209) -/

/-- What a table lists is what it holds. -/
theorem tabGet_of_mem {α : Type} (d : α) {t : Tab α} {k : Nat} {v : α} (ht : tabRising t) (h : (k, v) ∈ t) :
    tabGet d t k = v := by
  induction t with
  | nil => cases h
  | cons x rest ih =>
    obtain ⟨j, w⟩ := x
    unfold tabRising at ht
    rw [List.map_cons, List.pairwise_cons] at ht
    rcases List.mem_cons.1 h with e | h'
    · cases e; simp [tabGet]
    · have : j < k := ht.1 k (List.mem_map.2 ⟨(k, v), h', rfl⟩)
      simp only [tabGet, if_neg (Nat.ne_of_lt this)]
      exact ih ht.2 h'

theorem mem_of_tabGet {α : Type} {d : α} {t : Tab α} {k : Nat} (h : tabGet d t k ≠ d) : (k, tabGet d t k) ∈ t := by
  induction t with
  | nil => exact absurd rfl h
  | cons x rest ih =>
    obtain ⟨j, w⟩ := x
    simp only [tabGet] at h ⊢
    split
    · subst_vars; exact List.mem_cons_self ..
    · rename_i hj
      rw [if_neg hj] at h
      exact List.mem_cons_of_mem _ (ih h)

/-- The slots a session holds are those kept. -/
theorem slotKept_iff (h : SlotsAgreeBut l s) (n : Nat) :
    slotKept s n = true ↔ 0 < s.engine.sessions.countP (fun x => x.2.bind (·.slot) = some n) := by
  rw [List.countP_pos_iff]
  unfold slotKept liveSessions
  simp only [List.any_eq_true, List.mem_filterMap, decide_eq_true_eq]
  constructor
  · rintro ⟨⟨id, y⟩, ⟨j, _, hj⟩, hn⟩
    obtain ⟨z, hz, e⟩ := Option.map_eq_some_iff.1 hj
    cases e
    have hm := mem_of_tabGet (d := (none : Option Session)) (t := s.engine.sessions) (k := id) (by
      show sessionAt s id ≠ none; rw [hz]; nofun)
    refine ⟨_, hm, ?_⟩
    show (sessionAt s id).bind (·.slot) = some n
    rw [hz]; exact hn
  · rintro ⟨⟨id, v⟩, hm, hn⟩
    obtain ⟨y, rfl, hy⟩ := Option.bind_eq_some_iff.1 hn
    have hg : sessionAt s id = some y := tabGet_of_mem none h.1.1 hm
    refine ⟨(id, y), ⟨id, List.mem_range.2 (h.1.2 id (by simp [hg])), by simp [hg]⟩, hy⟩

theorem tabGet_putAll {α : Type} [DecidableEq α] (d : α) (f : Nat → α) (ns : List Nat) (t : Tab α) (k : Nat) :
    tabGet d (ns.foldl (fun t n => tabPut d t n (f n)) t) k = if k ∈ ns then f k else tabGet d t k := by
  induction ns generalizing t with
  | nil => simp
  | cons n rest ih =>
    rw [List.foldl_cons, ih, tabGet_tabPut]
    by_cases hk : k = n
    · subst hk; simp
    · simp [hk]

/-- The slots after warm restart: those of the sessions stay, and the queue is empty (R87, R209). -/
theorem slots_restart {t : State} (h : SlotsAgree s) (h1 : t.engine.sessions = s.engine.sessions)
    (h2 : t.arbiter.queue = []) (h3 : t.interp.slots = (interpRestart s).interp.slots)
    (h4 : t.interp.fillingOrder = []) : SlotsAgree t := by
  have hslot : ∀ n, slotAt t n = if n ∈ List.range 32 then restartSlot s n else slotAt s n := fun n => by
    show tabGet .free t.interp.slots n = _
    rw [h3]; exact tabGet_putAll .free (restartSlot s) (List.range 32) s.interp.slots n
  have hk := slotKept_iff h
  obtain ⟨hr, hc, hf, h32, hq, hs⟩ := h
  have hres : ∀ n, slotAt t n = .reserved ↔ slotAt s n = .reserved ∧ slotKept s n = true := fun n => by
    rw [hslot]
    split
    · unfold restartSlot
      split
      · rename_i e; exact iff_of_true rfl e
      · rename_i e; exact iff_of_false nofun e
    · rename_i hn
      have := h32 n (by simpa using hn)
      simp [this]
  have hfill : ∀ n, isFilled (slotAt t n) = false := fun n => by
    rw [hslot]
    split
    · unfold restartSlot; split <;> rfl
    · rename_i hn
      rw [h32 n (by simpa using hn)]; rfl
  have hsess : ∀ id, sessionAt t id = sessionAt s id := fun id => by unfold sessionAt; rw [h1]
  refine ⟨⟨h1 ▸ hr.1, fun id => hsess id ▸ hr.2 id⟩, fun n => ?_, fun n => ?_, fun n hn => ?_, ?_, fun id => hsess id ▸ hs id⟩
  · have hn := hc n
    have hkn := hk n
    simp only [slotHolders, h1, h2, List.countP_nil, List.count_nil] at hn ⊢
    by_cases hreserved : slotAt s n = .reserved
    · rw [if_pos hreserved] at hn
      by_cases hkept : slotKept s n = true
      · have := hkn.1 hkept
        rw [if_pos ((hres n).2 ⟨hreserved, hkept⟩)]; omega
      · rw [if_neg fun e => hkept ((hres n).1 e).2]
        have : ¬ 0 < s.engine.sessions.countP (fun x => decide (x.2.bind (·.slot) = some n)) := fun e => hkept (hkn.2 e)
        omega
    · rw [if_neg hreserved] at hn
      rw [if_neg fun e => hreserved ((hres n).1 e).1]; omega
  · rw [h4, hfill]; rfl
  · rw [hslot, if_neg (by simpa using hn)]; exact h32 n hn
  · rw [h2]; exact ⟨List.Pairwise.nil, fun _ h => nomatch h⟩

end Sys2Proof.Machine
end

