-- ==== Sys2Proof/Laws/Tickets.lean ====
section
/-! SUPPORT. The laws of the ticket table and the cable groups (`TicketsAgree`): what each ticket operation does to
them, and that every one keeps them. `TicketsAmid` is what holds of them in the middle of an operation. -/

namespace Sys2Proof.Machine

set_option Elab.async false

/-! ### Notices leave the tickets alone -/

theorem offerToUnit_tickets (s : State) (u : Nat) (n : Notice) :
    (offerToUnit s u n).tickets = s.tickets ∧ (offerToUnit s u n).tables = s.tables := by
  unfold offerToUnit
  dsimp only
  repeat' split
  all_goals exact ⟨rfl, rfl⟩

theorem notify_tickets (s : State) (n : Notice) :
    (notify s n).tickets = s.tickets ∧ (notify s n).tables = s.tables := by
  unfold notify
  induction (List.range 9) generalizing s with
  | nil => exact ⟨rfl, rfl⟩
  | cons u rest ih =>
    simp only [List.foldl_cons]
    split
    · have h := offerToUnit_tickets s u n
      exact ⟨(ih _).1.trans h.1, (ih _).2.trans h.2⟩
    · exact ih s

theorem ticketNotice_tickets (s : State) (t : Ticket) (st : NoticeState) :
    (ticketNotice s t st).tickets = s.tickets ∧ (ticketNotice s t st).tables = s.tables := notify_tickets s _

theorem cableNotice_tickets (s : State) (g : Nat) (b : Bool) :
    (cableNotice s g b).tickets = s.tickets ∧ (cableNotice s g b).tables = s.tables := notify_tickets s _

/-! ### Members -/

/-- The members of a group in the table. -/
abbrev members (s : State) (g : Nat) : Nat := s.tickets.tickets.countP (isMember s g)

theorem wetGroup_congr {s t : State} (h : t.tables.directory = s.tables.directory) : wetGroup t = wetGroup s := by
  funext x
  simp only [wetGroup, directoryAt, h]

theorem isMember_congr {s t : State} (h : t.tables.directory = s.tables.directory) : isMember t = isMember s := by
  funext g x
  simp only [isMember, wetGroup_congr h]

/-- Membership looks at a ticket's subject, class and state alone. -/
theorem wetGroup_same (s : State) {t u : Ticket} (hs : u.subject = t.subject) (hc : u.cls = t.cls) :
    wetGroup s u = wetGroup s t := by
  simp only [wetGroup, hs, hc]

theorem isMember_same (s : State) (g : Nat) {t u : Ticket} (hs : u.subject = t.subject) (hc : u.cls = t.cls)
    (hst : u.state = t.state) : isMember s g u = isMember s g t := by
  unfold isMember isStanding
  rw [wetGroup_same s hs hc, hst]

/-- A ticket of a cable group is no member. -/
theorem not_isMember_of_cable (s : State) (g : Nat) {t : Ticket} (h : isCableSubject t.subject = true) :
    isMember s g t = false := by
  have : wetGroup s t = none := by
    unfold wetGroup
    split
    · rename_i hs; rw [hs] at h; cases h
    · rfl
  simp [isMember, this]

/-- A standing ticket is a member of the group its line names. -/
theorem isMember_of_standing (s : State) (g : Nat) {t : Ticket} (h : t.state ≠ .cleared) :
    isMember s g t = decide (wetGroup s t = some g) := by
  simp [isMember, isStanding, h]

theorem not_isMember_of_cleared (s : State) (g : Nat) {t : Ticket} (h : t.state = .cleared) :
    isMember s g t = false := by
  simp [isMember, isStanding, h]

/-! ### Lists of distinct tickets -/

theorem TicketsDistinct.eq_of_id {ts : List Ticket} (h : TicketsDistinct ts) {t u : Ticket} (ht : t ∈ ts)
    (hu : u ∈ ts) (hid : t.id = u.id) : t = u := by
  replace h := h.1
  induction ts with
  | nil => cases ht
  | cons x rest ih =>
    rw [List.pairwise_cons] at h
    rcases List.mem_cons.1 ht with e | ht'
    · rcases List.mem_cons.1 hu with e' | hu'
      · rw [e, e']
      · exact absurd (e ▸ hid) (h.1 u hu').1
    · rcases List.mem_cons.1 hu with e' | hu'
      · exact absurd (e' ▸ hid.symm) (h.1 t ht').1
      · exact ih ht' hu' h.2

/-- Two tickets of one subject differ in class. -/
theorem TicketsDistinct.cls_ne {ts : List Ticket} (h : TicketsDistinct ts) {t u : Ticket} (ht : t ∈ ts)
    (hu : u ∈ ts) (hne : t ≠ u) (hs : t.subject = u.subject) : t.cls ≠ u.cls := by
  replace h := h.1
  induction ts with
  | nil => cases ht
  | cons x rest ih =>
    rw [List.pairwise_cons] at h
    rcases List.mem_cons.1 ht with e | ht'
    · rcases List.mem_cons.1 hu with e' | hu'
      · exact absurd (e.trans e'.symm) hne
      · rw [e]
        exact (h.1 u hu').2 (e ▸ hs)
    · rcases List.mem_cons.1 hu with e' | hu'
      · rw [e']
        exact fun e => (h.1 t ht').2 (e' ▸ hs.symm) e.symm
      · exact ih ht' hu' h.2

/-- Changes that keep slot, subject and class keep the tickets distinct. -/
theorem TicketsDistinct.map {ts : List Ticket} (h : TicketsDistinct ts) (f : Ticket → Ticket)
    (hf : ∀ t ∈ ts, (f t).id = t.id ∧ (f t).subject = t.subject ∧ (f t).cls = t.cls) : TicketsDistinct (ts.map f) := by
  refine ⟨?_, fun u hu => ?_⟩
  · rw [List.pairwise_map]
    refine h.1.imp_of_mem fun {a b} ha hb hab => ?_
    obtain ⟨a1, a2, a3⟩ := hf a ha
    obtain ⟨b1, b2, b3⟩ := hf b hb
    rw [a1, a2, a3, b1, b2, b3]
    exact hab
  · obtain ⟨t, ht, rfl⟩ := List.mem_map.1 hu
    obtain ⟨h1, h2, h3⟩ := hf t ht
    rw [h1, h2, h3]
    exact h.2 t ht

theorem TicketsDistinct.filter {ts : List Ticket} (h : TicketsDistinct ts) (p : Ticket → Bool) :
    TicketsDistinct (ts.filter p) :=
  ⟨h.1.filter _, fun t ht => h.2 t ((List.mem_filter.1 ht).1)⟩

theorem TicketsDistinct.append {ts : List Ticket} (h : TicketsDistinct ts) (n : Ticket)
    (hn : ∀ t ∈ ts, t.id ≠ n.id ∧ (t.subject = n.subject → t.cls ≠ n.cls))
    (hb : n.id < 256 ∧ (isCableSubject n.subject = true → n.cls = .cableStorm)) : TicketsDistinct (ts ++ [n]) := by
  refine ⟨?_, fun t ht => ?_⟩
  · rw [List.pairwise_append]
    refine ⟨h.1, List.pairwise_singleton _ _, fun t ht u hu => ?_⟩
    rw [List.mem_singleton.1 hu]
    exact hn t ht
  · rcases List.mem_append.1 ht with ht | ht
    · exact h.2 t ht
    · rw [List.mem_singleton.1 ht]; exact hb

/-- The ticket of a slot taken out of the table is taken out of a count. -/
theorem countP_freed {ts : List Ticket} (h : TicketsDistinct ts) (p : Ticket → Bool) {e : Ticket} (he : e ∈ ts) :
    (ts.filter (fun t => t.id ≠ e.id)).countP p + (if p e = true then 1 else 0) = ts.countP p := by
  induction ts with
  | nil => cases he
  | cons x rest ih =>
    have hr : TicketsDistinct rest := ⟨(List.pairwise_cons.1 h.1).2, fun t ht => h.2 t (List.mem_cons_of_mem _ ht)⟩
    have hx := (List.pairwise_cons.1 h.1).1
    by_cases hid : x.id = e.id
    · have hxe : x = e := h.eq_of_id (List.mem_cons_self ..) he hid
      have hrest : rest.filter (fun t => decide (t.id ≠ e.id)) = rest :=
        List.filter_eq_self.2 fun t ht => by
          have := (hx t ht).1
          simp only [decide_eq_true_eq]
          omega
      simp only [List.filter_cons, hid, ne_eq, not_true_eq_false, decide_false, Bool.false_eq_true, if_false]
      simp only [ne_eq] at hrest
      rw [hrest, List.countP_cons, hxe]
    · have he' : e ∈ rest := by
        rcases List.mem_cons.1 he with rfl | h
        · exact absurd rfl hid
        · exact h
      have := ih hr he'
      simp only [List.filter_cons, ne_eq, hid, not_false_eq_true, decide_true, if_true, List.countP_cons] at this ⊢
      omega

/-- The ticket of a slot replaced by another is replaced in a count. -/
theorem countP_replaced {ts : List Ticket} (h : TicketsDistinct ts) (p : Ticket → Bool) {e : Ticket} (he : e ∈ ts)
    (n : Ticket) : (ts.map (fun t => if t.id = e.id then n else t)).countP p + (if p e = true then 1 else 0) =
      ts.countP p + (if p n = true then 1 else 0) := by
  induction ts with
  | nil => cases he
  | cons x rest ih =>
    have hr : TicketsDistinct rest := ⟨(List.pairwise_cons.1 h.1).2, fun t ht => h.2 t (List.mem_cons_of_mem _ ht)⟩
    have hx := (List.pairwise_cons.1 h.1).1
    by_cases hid : x.id = e.id
    · have hxe : x = e := h.eq_of_id (List.mem_cons_self ..) he hid
      have hrest : rest.map (fun t => if t.id = e.id then n else t) = rest := by
        refine (List.map_congr_left fun t ht => ?_).trans (List.map_id _)
        have := (hx t ht).1
        rw [if_neg (by omega)]
        rfl
      simp only [List.map_cons, if_true, hrest, List.countP_cons, hxe]
      omega
    · have he' : e ∈ rest := by
        rcases List.mem_cons.1 he with rfl | h
        · exact absurd rfl hid
        · exact h
      have := ih hr he'
      simp only [List.map_cons, hid, if_false, List.countP_cons]
      omega

/-! ### The laws amid an operation -/

/-- `k` at the group that `o` names, 0 elsewhere. -/
def share (o : Option Nat) (k g : Nat) : Nat := if o = some g then k else 0

@[simp] theorem share_none (k g : Nat) : share none k g = 0 := rfl

/-- What holds of the tickets and groups amid an operation. `plus` is what the groups' counts still lack, `minus` what
they hold too much, and `new` the slot and group of a ticket whose joining is still to be counted, which no eviction
chooses; `but` is a group whose cable ticket is being replaced. -/
structure TicketsAmid (base : TicketBase) (new : Option (Nat × Nat)) (but : Option Nat) (plus minus : Nat → Nat)
    (s : State) : Prop where
  distinct : TicketsDistinct s.tickets.tickets
  stands : ∀ g : Nat, but ≠ some g → (groupAt s g).storm = (groupAt s g).ticket.isSome ∧
    ∀ id, (groupAt s g).ticket = some id → ∃ t ∈ s.tickets.tickets,
      t.id = id ∧ t.subject = .cableGroup g ∧ (t.state = .opened ∨ t.state = .dispatched)
  count : ∀ g : Nat, (groupAt s g).count + plus g = members s g + minus g
  kept : ∀ i g, new = some (i, g) → ∃ t ∈ s.tickets.tickets,
    t.id = i ∧ isMember s g t = true ∧ (t.state = .suspect → isEvictable base t = false)

/-- Nothing of a change is left to be counted. -/
abbrev none0 : Nat → Nat := fun _ => 0

theorem ticketsAgree_amid {s : State} (h : TicketsAgree s) (base : TicketBase) :
    TicketsAmid base none none none0 none0 s :=
  ⟨h.1, fun g _ => h.2.1 g, h.2.2, fun _ _ h => nomatch h⟩

theorem amid_agree {s : State} {base : TicketBase} (h : TicketsAmid base none none none0 none0 s) :
    TicketsAgree s :=
  ⟨h.distinct, fun g => h.stands g (fun h => nomatch h), h.count⟩

/-- What no operation on other state changes. -/
theorem amid_congr {s t : State} {base new but plus minus} (h : TicketsAmid base new but plus minus s)
    (ht : t.tickets = s.tickets) (hd : t.tables.directory = s.tables.directory) :
    TicketsAmid base new but plus minus t := by
  have hm := isMember_congr hd
  refine ⟨ht ▸ h.distinct, fun g hg => ?_, fun g => ?_, fun i g hn => ?_⟩
  · simp only [groupAt, ht]; exact h.stands g hg
  · simp only [members, groupAt, ht, hm]; exact h.count g
  · rw [ht, hm]; exact h.kept i g hn

theorem ticketsAgree_congr {s t : State} (h : TicketsAgree s) (ht : t.tickets = s.tickets)
    (hd : t.tables.directory = s.tables.directory) : TicketsAgree t :=
  amid_agree (amid_congr (ticketsAgree_amid h none) ht hd)

section
variable {base : TicketBase} {new : Option (Nat × Nat)} {but : Option Nat} {plus minus : Nat → Nat} {s : State}

theorem amid_notify (h : TicketsAmid base new but plus minus s) (n : Notice) :
    TicketsAmid base new but plus minus (notify s n) :=
  amid_congr h (notify_tickets s n).1 (by rw [(notify_tickets s n).2])

theorem amid_ticketNotice (h : TicketsAmid base new but plus minus s) (t : Ticket) (st : NoticeState) :
    TicketsAmid base new but plus minus (ticketNotice s t st) := amid_notify h _

theorem amid_cableNotice (h : TicketsAmid base new but plus minus s) (g : Nat) (b : Bool) :
    TicketsAmid base new but plus minus (cableNotice s g b) := amid_notify h _

theorem amid_forget (h : TicketsAmid base new but plus minus s) (base' : TicketBase) :
    TicketsAmid base' none but plus minus s :=
  ⟨h.distinct, h.stands, h.count, fun _ _ h => nomatch h⟩

/-- Tickets changed in what neither slot, subject, class nor state is. -/
theorem amid_map (h : TicketsAmid base new but plus minus s) (f : Ticket → Ticket)
    (hf : ∀ t, (f t).id = t.id ∧ (f t).subject = t.subject ∧ (f t).cls = t.cls ∧ (f t).state = t.state)
    (he : new = none ∨ ∀ t, isEvictable base (f t) = isEvictable base t) :
    TicketsAmid base new but plus minus (onTickets s (fun m => { m with tickets := m.tickets.map f })) := by
  have hm : ∀ g t, isMember s g (f t) = isMember s g t := fun g t =>
    isMember_same s g (hf t).2.1 (hf t).2.2.1 (hf t).2.2.2
  refine ⟨h.distinct.map f fun t _ => ⟨(hf t).1, (hf t).2.1, (hf t).2.2.1⟩, fun g hg => ?_, fun g => ?_, fun i g hn => ?_⟩
  · refine ⟨(h.stands g hg).1, fun id hid => ?_⟩
    obtain ⟨t, ht, h1, h2, h3⟩ := (h.stands g hg).2 id hid
    obtain ⟨f1, f2, _, f4⟩ := hf t
    exact ⟨f t, List.mem_map_of_mem ht, f1.trans h1, f2.trans h2, by rw [f4]; exact h3⟩
  · show (groupAt s g).count + plus g = (s.tickets.tickets.map f).countP (isMember s g) + minus g
    rw [List.countP_map]
    have : s.tickets.tickets.countP (isMember s g ∘ f) = members s g :=
      List.countP_congr fun t _ => by simp only [Function.comp_apply, hm]
    rw [this]
    exact h.count g
  · obtain ⟨t, ht, h1, h2, h3⟩ := h.kept i g hn
    refine ⟨f t, List.mem_map_of_mem ht, (hf t).1.trans h1, (hm g t).trans h2, fun hs => ?_⟩
    rcases he with he | he
    · rw [he] at hn; cases hn
    · rw [he]; exact h3 ((hf t).2.2.2 ▸ hs)

/-- An attachment does not bear on eviction. -/
theorem isEvictable_attached (base : TicketBase) (t : Ticket) (a : Option Nat) :
    isEvictable base { t with attached := a } = isEvictable base t := by
  unfold isEvictable
  split
  · rfl
  · refine congrArg (List.any _) (funext fun b => ?_)
    refine decide_eq_decide.2 ⟨fun h => ?_, fun h => ?_⟩
    · cases b; cases t; simp only [Ticket.mk.injEq] at h ⊢; simp [h]
    · cases b; cases t; simp only [Ticket.mk.injEq] at h ⊢; simp [h]

/-- Only attachments changed. -/
theorem amid_attach (h : TicketsAmid base new but plus minus s) (f : Ticket → Ticket)
    (hf : ∀ t, ∃ a, f t = { t with attached := a }) :
    TicketsAmid base new but plus minus (onTickets s (fun m => { m with tickets := m.tickets.map f })) := by
  refine amid_map h f (fun t => ?_) (.inr fun t => ?_)
  · obtain ⟨a, ha⟩ := hf t; rw [ha]; exact ⟨rfl, rfl, rfl, rfl⟩
  · obtain ⟨a, ha⟩ := hf t; rw [ha]; exact isEvictable_attached _ _ _

theorem amid_attachMembers (h : TicketsAmid base new but plus minus s) (g : Nat) :
    TicketsAmid base new but plus minus (attachMembers s g) :=
  amid_attach h _ fun t => by split <;> exact ⟨_, rfl⟩

theorem amid_detachMembers (h : TicketsAmid base new but plus minus s) (g : Nat) :
    TicketsAmid base new but plus minus (detachMembers s g) :=
  amid_attach h _ fun t => by split <;> exact ⟨_, rfl⟩

theorem amid_attachLine (h : TicketsAmid base new but plus minus s) (len : Nat) (g : Option Nat) :
    TicketsAmid base new but plus minus (attachLine s len g) :=
  amid_attach h _ fun t => by split <;> exact ⟨_, rfl⟩

theorem amid_attachOne (h : TicketsAmid base new but plus minus s) (id : Nat) (f : Ticket → Ticket)
    (hf : ∀ t, ∃ a, f t = { t with attached := a }) : TicketsAmid base new but plus minus (modTicket s id f) :=
  amid_attach h _ fun t => by
    split
    · exact hf t
    · exact ⟨_, rfl⟩

/-! ### The groups -/

/-- A group's count written, its state and cable ticket kept. -/
theorem amid_putCount (h : TicketsAmid base new but plus minus s) (g n : Nat) (plus' minus' : Nat → Nat)
    (hg : n + plus' g = members s g + minus' g)
    (ho : ∀ j, j ≠ g → plus' j = plus j ∧ minus' j = minus j) :
    TicketsAmid base new but plus' minus' (putGroup s g { groupAt s g with count := n }) := by
  refine ⟨h.distinct, fun j hj => ?_, fun j => ?_, h.kept⟩
  · rw [groupAt_putGroup]
    split
    · subst_vars; exact h.stands _ hj
    · exact h.stands j hj
  · rw [groupAt_putGroup]
    show _ = members s j + minus' j
    split
    · subst_vars; exact hg
    · rename_i hj
      rw [(ho j hj).1, (ho j hj).2]
      exact h.count j

/-- A group's entry written as it is. -/
theorem amid_putSame (h : TicketsAmid base new but plus minus s) (g : Nat) :
    TicketsAmid base new but plus minus (putGroup s g (groupAt s g)) :=
  amid_putCount h g (groupAt s g).count plus minus (h.count g) fun _ _ => ⟨rfl, rfl⟩

/-- A group is in STORM with a cable ticket that stands. -/
theorem amid_beginStorm (h : TicketsAmid base new but plus minus s) (g : Nat) {t : Ticket}
    (ht : t ∈ s.tickets.tickets) (hs : t.subject = .cableGroup g) (hst : t.state = .opened ∨ t.state = .dispatched)
    (hb : but = none ∨ but = some g) : TicketsAmid base new none plus minus (beginStorm s g t.id) := by
  refine amid_attachMembers (s := putGroup s g _) ⟨h.distinct, fun j _ => ?_, fun j => ?_, h.kept⟩ g
  · rw [groupAt_putGroup]
    split
    · rename_i hj
      refine ⟨rfl, fun id hid => ⟨t, ht, ?_, hj ▸ hs, hst⟩⟩
      simpa using hid
    · rename_i hj
      refine h.stands j fun hbj => ?_
      rcases hb with hb | hb <;> rw [hb] at hbj
      · cases hbj
      · cases hbj; exact hj rfl
  · rw [groupAt_putGroup]
    split
    · subst_vars; exact h.count _
    · exact h.count j

/-- A group leaves STORM (R173). -/
theorem amid_exitStorm (h : TicketsAmid base new none plus minus s) (g : Nat) :
    TicketsAmid base new none plus minus (exitStorm s g) := by
  have hx : ∀ s1 : State, TicketsAmid base new none plus minus
      (putGroup s1 g { groupAt s1 g with storm := false, ticket := none }) →
      TicketsAmid base new none plus minus (detachMembers
        (putGroup s1 g { groupAt s1 g with storm := false, ticket := none }) g) := fun _ h => amid_detachMembers h g
  have fin : ∀ s2 : State, TicketsAmid base new none plus minus s2 → TicketsAmid base new none plus minus
      (cableNotice (match (groupAt s g).ticket.bind (ticketAt s2) with
        | some t => ticketNotice s2 t .cleared
        | none => s2) g false) := by
    intro s2 h2
    split
    · exact amid_cableNotice (amid_ticketNotice h2 _ _) _ _
    · exact amid_cableNotice h2 _ _
  unfold exitStorm
  dsimp only
  refine fin _ (hx _ ?_)
  cases hid : (groupAt s g).ticket with
  | none =>
    dsimp only
    refine ⟨h.distinct, fun j hj => ?_, fun j => ?_, h.kept⟩
    · rw [groupAt_putGroup]
      split
      · exact ⟨rfl, fun _ h => nomatch h⟩
      · exact h.stands j hj
    · rw [groupAt_putGroup]
      split
      · subst_vars; exact h.count _
      · exact h.count j
  | some id =>
    dsimp only
    obtain ⟨c, hc, c1, c2, _⟩ := (h.stands g (fun h => nomatch h)).2 id hid
    have only : ∀ t ∈ s.tickets.tickets, t.id = id → t = c := fun t ht e =>
      h.distinct.eq_of_id ht hc (e.trans c1.symm)
    have hm : ∀ j, ∀ t ∈ s.tickets.tickets,
        isMember s j (if t.id = id then { t with state := .cleared } else t) = isMember s j t := by
      intro j t ht
      split
      · rename_i e
        have : isCableSubject t.subject = true := by rw [only t ht e, c2]; rfl
        rw [not_isMember_of_cable s j this, not_isMember_of_cable s j (t := { t with state := .cleared }) this]
      · rfl
    refine ⟨?_, fun j hj => ?_, fun j => ?_, fun i j hn => ?_⟩
    · exact h.distinct.map _ fun t _ => by split <;> exact ⟨rfl, rfl, rfl⟩
    · rw [groupAt_putGroup]
      split
      · exact ⟨rfl, fun _ h => nomatch h⟩
      · rename_i hne
        refine ⟨(h.stands j hj).1, fun id' hid' => ?_⟩
        obtain ⟨t, ht, t1, t2, t3⟩ := (h.stands j hj).2 id' hid'
        have : t.id ≠ id := fun e => by
          have := only t ht e
          rw [this, c2] at t2
          cases t2
          exact hne rfl
        exact ⟨t, List.mem_map.2 ⟨t, ht, if_neg this⟩, t1, t2, t3⟩
    · rw [groupAt_putGroup]
      show _ = (s.tickets.tickets.map _).countP (isMember s j) + minus j
      rw [List.countP_map]
      have : s.tickets.tickets.countP (isMember s j ∘ fun t => if t.id = id then { t with state := .cleared } else t) =
          members s j := List.countP_congr fun t ht => by simp only [Function.comp_apply, hm j t ht]
      rw [this]
      split
      · subst_vars; exact h.count _
      · exact h.count j
    · obtain ⟨t, ht, t1, t2, t3⟩ := h.kept i j hn
      have : t.id ≠ id := fun e => by
        have hcab : isCableSubject t.subject = true := by rw [only t ht e, c2]; rfl
        rw [not_isMember_of_cable s j hcab] at t2
        cases t2
      exact ⟨t, List.mem_map.2 ⟨t, ht, if_neg this⟩, t1, t2, t3⟩

/-! ### One ticket changed, freed or added -/

/-- A ticket replaced by one of its slot, subject and class: what that does to the counts. -/
theorem amid_replace (h : TicketsAmid base none but plus minus s) {t : Ticket} (ht : t ∈ s.tickets.tickets)
    (n : Ticket) (hid : n.id = t.id) (hs : n.subject = t.subject) (hc : n.cls = t.cls)
    (hst : isCableSubject t.subject = true → n.state = .opened ∨ n.state = .dispatched) (new' : Option (Nat × Nat))
    (plus' minus' : Nat → Nat)
    (hcount : ∀ g, plus' g + minus g + (if isMember s g t = true then 1 else 0) =
      plus g + minus' g + (if isMember s g n = true then 1 else 0))
    (hnew : ∀ i g, new' = some (i, g) → n.id = i ∧ isMember s g n = true ∧
      (n.state = .suspect → isEvictable base n = false)) :
    TicketsAmid base new' but plus' minus' (modTicket s t.id (fun _ => n)) := by
  have only : ∀ u ∈ s.tickets.tickets, u.id = t.id → u = t := fun u hu e => h.distinct.eq_of_id hu ht e
  have there : n ∈ s.tickets.tickets.map (fun u => if u.id = t.id then n else u) :=
    List.mem_map.2 ⟨t, ht, if_pos rfl⟩
  refine ⟨?_, fun g hg => ?_, fun g => ?_, fun i g hn => ?_⟩
  · refine h.distinct.map _ fun u hu => ?_
    split
    · rename_i e
      rw [only u hu e]
      exact ⟨hid, hs, hc⟩
    · exact ⟨rfl, rfl, rfl⟩
  · refine ⟨(h.stands g hg).1, fun id hi => ?_⟩
    obtain ⟨u, hu, u1, u2, u3⟩ := (h.stands g hg).2 id hi
    by_cases e : u.id = t.id
    · have eu := only u hu e
      refine ⟨n, there, hid.trans (e.symm.trans u1), ?_, hst ?_⟩
      · rw [hs, ← eu]; exact u2
      · rw [← eu, u2]; rfl
    · exact ⟨u, List.mem_map.2 ⟨u, hu, if_neg e⟩, u1, u2, u3⟩
  · have h1 := countP_replaced h.distinct (isMember s g) ht n
    have h2 := h.count g
    have h3 := hcount g
    show (groupAt s g).count + plus' g =
      (s.tickets.tickets.map (fun u => if u.id = t.id then n else u)).countP (isMember s g) + minus' g
    simp only [members] at h2
    omega
  · exact ⟨n, there, hnew i g hn⟩

/-- A cable ticket replaced while another ticket's joining is still to be counted. -/
theorem amid_replaceCable (h : TicketsAmid base new but plus minus s) {t : Ticket}
    (ht : t ∈ s.tickets.tickets) (hcab : isCableSubject t.subject = true) (n : Ticket) (hid : n.id = t.id)
    (hs : n.subject = t.subject) (hc : n.cls = t.cls) (hst : n.state = .opened ∨ n.state = .dispatched) :
    TicketsAmid base new but plus minus (modTicket s t.id (fun _ => n)) := by
  have h0 : TicketsAmid base none but plus minus (modTicket s t.id (fun _ => n)) :=
    amid_replace (amid_forget h base) ht n hid hs hc (fun _ => hst) none plus minus (fun g => by
      rw [not_isMember_of_cable s g hcab, not_isMember_of_cable s g (hs ▸ hcab)]) (fun _ _ h => nomatch h)
  refine ⟨h0.distinct, h0.stands, h0.count, fun i g hn => ?_⟩
  obtain ⟨u, hu, u1, u2, u3⟩ := h.kept i g hn
  refine ⟨u, List.mem_map.2 ⟨u, hu, if_neg fun e => ?_⟩, u1, u2, u3⟩
  have := h.distinct.eq_of_id hu ht e
  rw [this, not_isMember_of_cable s g hcab] at u2
  cases u2

/-- A ticket's slot freed: what that does to the counts. -/
theorem amid_free (h : TicketsAmid base new but plus minus s) {e : Ticket} (he : e ∈ s.tickets.tickets)
    (hb : ∀ g, but ≠ some g → (groupAt s g).ticket ≠ some e.id)
    (hn : ∀ i g, new = some (i, g) → i ≠ e.id) (minus' : Nat → Nat)
    (hcount : ∀ g, minus' g = minus g + (if isMember s g e = true then 1 else 0)) :
    TicketsAmid base new but plus minus' (freeTicket s e.id) := by
  refine ⟨h.distinct.filter _, fun g hg => ?_, fun g => ?_, fun i g hi => ?_⟩
  · refine ⟨(h.stands g hg).1, fun id hid => ?_⟩
    obtain ⟨t, ht, t1, t2, t3⟩ := (h.stands g hg).2 id hid
    refine ⟨t, List.mem_filter.2 ⟨ht, ?_⟩, t1, t2, t3⟩
    simp only [decide_eq_true_eq]
    intro e1
    exact hb g hg (hid.trans (congrArg some (t1.symm.trans e1)))
  · have h1 := countP_freed h.distinct (isMember s g) he
    have h2 := h.count g
    have h3 := hcount g
    show (groupAt s g).count + plus g =
      (s.tickets.tickets.filter (fun t => t.id ≠ e.id)).countP (isMember s g) + minus' g
    simp only [members] at h2
    omega
  · obtain ⟨t, ht, t1, t2, t3⟩ := h.kept i g hi
    refine ⟨t, List.mem_filter.2 ⟨ht, ?_⟩, t1, t2, t3⟩
    simp only [decide_eq_true_eq]
    intro e1
    exact hn i g hi (t1.symm.trans e1)

/-- A ticket added: what that does to the counts. -/
theorem amid_add (h : TicketsAmid base new but plus minus s) (n : Ticket)
    (hn : ∀ t ∈ s.tickets.tickets, t.id ≠ n.id ∧ (t.subject = n.subject → t.cls ≠ n.cls))
    (hb : n.id < 256 ∧ (isCableSubject n.subject = true → n.cls = .cableStorm)) (new' : Option (Nat × Nat))
    (plus' : Nat → Nat) (hcount : ∀ g, plus' g = plus g + (if isMember s g n = true then 1 else 0))
    (hnew : new' = new ∨ ∀ i g, new' = some (i, g) → n.id = i ∧ isMember s g n = true ∧
      (n.state = .suspect → isEvictable base n = false)) :
    TicketsAmid base new' but plus' minus (addTicket s n) := by
  refine ⟨h.distinct.append n hn hb, fun g hg => ?_, fun g => ?_, fun i g hi => ?_⟩
  · refine ⟨(h.stands g hg).1, fun id hid => ?_⟩
    obtain ⟨t, ht, t1, t2, t3⟩ := (h.stands g hg).2 id hid
    exact ⟨t, List.mem_append_left _ ht, t1, t2, t3⟩
  · have h2 := h.count g
    have h3 := hcount g
    show (groupAt s g).count + plus' g = (s.tickets.tickets ++ [n]).countP (isMember s g) + minus g
    simp only [List.countP_append, List.countP_cons, List.countP_nil, members] at h2 ⊢
    omega
  · rcases hnew with e | hnew
    · obtain ⟨t, ht, t1, t2, t3⟩ := h.kept i g (e ▸ hi)
      exact ⟨t, List.mem_append_left _ ht, t1, t2, t3⟩
    · exact ⟨n, by simp [addTicket, onTickets], hnew i g hi⟩

end

/-! ### Slots sought (R157, R158) -/

/-- A ticket the search for a slot evicts: CLEARED or SUSPECT, and none that the record has created or changed. -/
structure Evicted (base : TicketBase) (s : State) (n : Nat) (e : Ticket) : Prop where
  mem : e ∈ s.tickets.tickets
  id : e.id = n
  state : e.state = .cleared ∨ e.state = .suspect
  evictable : isEvictable base e = true

/-- What a slot sought for may be: a free one, or an evicted ticket's. -/
def SlotSought (base : TicketBase) (s : State) (n : Nat) : Option Ticket → Prop
  | none => n < 256 ∧ ∀ t ∈ s.tickets.tickets, t.id ≠ n
  | some e => Evicted base s n e

theorem lowestFree_spec {s : State} {lo n : Nat} {bar : Option Nat} {k : Nat}
    (h : lowestFree s lo n bar = some k) : k < lo + n ∧ ∀ t ∈ s.tickets.tickets, t.id ≠ k := by
  have hm := List.mem_of_find?_eq_some h
  have hp := List.find?_some h
  simp only [List.mem_map, List.mem_range] at hm
  obtain ⟨a, ha, rfl⟩ := hm
  have hp := (of_decide_eq_true hp).1
  refine ⟨by omega, fun t ht e => ?_⟩
  have := List.any_eq_false.1 hp t ht
  simp [e] at this

theorem slotFor_spec {s : State} {w : Want} {base : TicketBase} {barGroup barSlot : Option Nat} {n : Nat}
    {ev : Option Ticket} (h : slotFor s w base barGroup barSlot = some (n, ev)) :
    SlotSought base s n ev := by
  unfold slotFor at h
  dsimp only at h
  split at h
  · rename_i k hk
    simp only [Option.some.injEq, Prod.mk.injEq] at h
    obtain ⟨rfl, rfl⟩ := h
    have hg : ∀ k, lowestFree s 0 Config.generalSlots barSlot = some k →
        k < 256 ∧ ∀ t ∈ s.tickets.tickets, t.id ≠ k := fun k hk => by
      obtain ⟨h1, h2⟩ := lowestFree_spec hk
      refine ⟨?_, h2⟩
      simp only [Config.generalSlots] at h1
      omega
    split at hk
    · rcases Option.or_eq_some_iff.1 hk with hk | ⟨_, hk⟩
      · obtain ⟨h1, h2⟩ := lowestFree_spec hk
        refine ⟨?_, h2⟩
        simp only [Config.generalSlots, Config.ticketSlots] at h1
        omega
      · exact hg _ hk
    · exact hg _ hk
  · simp only [Option.map_eq_some_iff, Prod.mk.injEq] at h
    obtain ⟨e, he, rfl, rfl⟩ := h
    have key : ∀ p : Ticket → Bool,
        s.tickets.tickets.find? (fun t => decide (p t = true ∧ isEvictable base t = true)) = some e →
        (p e = true → e.state = .cleared ∨ e.state = .suspect) → Evicted base s e.id e := fun p hp hs => by
      have h2 := List.find?_some hp
      simp only [Bool.decide_and, Bool.decide_eq_true, Bool.and_eq_true] at h2
      exact ⟨List.mem_of_find?_eq_some hp, rfl, hs h2.1, h2.2⟩
    split at he
    · exact key _ he fun hp => by
        simp only [Bool.decide_and, Bool.decide_eq_true, Bool.and_eq_true, decide_eq_true_eq] at hp
        exact .inl hp.1
    · rcases Option.or_eq_some_iff.1 he with he | ⟨_, he⟩
      · exact key _ he fun hp => by
          simp only [Bool.decide_and, Bool.and_eq_true, decide_eq_true_eq] at hp
          exact .inl hp.1
      · exact key _ he fun hp => by
          simp only [Bool.and_eq_true, decide_eq_true_eq] at hp
          exact .inr hp.1
    · rcases Option.or_eq_some_iff.1 he with he | ⟨_, he⟩
      · exact key _ he fun hp => by
          exact .inl (of_decide_eq_true hp)
      · exact key _ he fun hp => by
          simp only [Bool.and_eq_true, decide_eq_true_eq] at hp
          exact .inr hp.1

/-! ### Storms (R169, R170, R172, R173) -/

/-- What the groups' counts lack while a ticket's joining is still to be counted. -/
def lack (new : Option (Nat × Nat)) : Nat → Nat := share (new.map (·.2)) 1

@[simp] theorem lack_none : lack none = none0 := rfl

/-- `test` keeps the laws amid an operation. -/
def KeepsAmid (base : TicketBase) (new : Option (Nat × Nat)) (test : State → Ticket → State) : Prop :=
  ∀ s t, TicketsAmid base new none (lack new) none0 s → TicketsAmid base new none (lack new) none0 (test s t)

section
variable {base : TicketBase} {new : Option (Nat × Nat)} {but : Option Nat} {s : State}

theorem evicted_not_storm {plus minus : Nat → Nat} (h : TicketsAmid base new but plus minus s) {n : Nat} {e : Ticket}
    (he : Evicted base s n e) (g : Nat) (hg : but ≠ some g) : (groupAt s g).ticket ≠ some e.id := by
  intro hid
  obtain ⟨t, ht, t1, _, t3⟩ := (h.stands g hg).2 _ hid
  have := h.distinct.eq_of_id ht he.mem t1
  rw [this] at t3
  rcases he.state with e1 | e1 <;> rw [e1] at t3 <;> rcases t3 with t3 | t3 <;> cases t3

theorem evicted_not_new {plus minus : Nat → Nat} (h : TicketsAmid base new but plus minus s) {n : Nat} {e : Ticket}
    (he : Evicted base s n e) (i g : Nat) (hn : new = some (i, g)) : i ≠ e.id := by
  intro hi
  obtain ⟨t, ht, t1, t2, t3⟩ := h.kept i g hn
  have := h.distinct.eq_of_id ht he.mem (t1.trans hi)
  rw [this] at t2 t3
  rcases he.state with e1 | e1
  · rw [not_isMember_of_cleared s g e1] at t2; cases t2
  · rw [he.evictable] at t3; cases t3 e1

/-- The slot of an evicted ticket freed, or a free slot as it is: no ticket holds it, and only an evicted SUSPECT
ticket is still counted. -/
theorem amid_slotTaken {plus : Nat → Nat} (h : TicketsAmid base new but plus none0 s) {n : Nat} {ev : Option Ticket}
    (hs : SlotSought base s n ev) :
    let s1 := evictTicket s ev
    TicketsAmid base new but plus
      (share (ev.bind (fun e => if e.state = .suspect then wetGroup s e else none)) 1) s1 ∧
    n < 256 ∧ (∀ t ∈ s1.tickets.tickets, t.id ≠ n) ∧ (∀ t ∈ s1.tickets.tickets, t ∈ s.tickets.tickets) ∧
    s1.tables = s.tables := by
  cases ev with
  | none => exact ⟨h, hs.1, hs.2, fun _ h => h, rfl⟩
  | some e =>
    have hs : Evicted base s n e := hs
    dsimp only [evictTicket]
    refine ⟨amid_free h hs.mem (evicted_not_storm h hs) (evicted_not_new h hs) _ fun g => ?_, ?_, ?_, ?_, rfl⟩
    · simp only [Option.bind_some, share]
      rcases hs.state with e1 | e1
      · simp [e1, not_isMember_of_cleared s g e1]
      · rw [isMember_of_standing s g (by rw [e1]; decide)]
        simp [e1]
    · rw [← hs.id]; exact (h.distinct.2 e hs.mem).1
    · intro t ht
      have := (List.mem_filter.1 ht).2
      simpa [hs.id] using this
    · exact fun t ht => (List.mem_filter.1 ht).1

theorem kept_members {plus minus : Nat → Nat} (h : TicketsAmid base new but plus minus s) (g : Nat) :
    lack new g ≤ members s g := by
  unfold lack share
  split
  · rename_i hg
    obtain ⟨⟨i, j⟩, hn, rfl⟩ := Option.map_eq_some_iff.1 hg
    obtain ⟨t, ht, _, t2, _⟩ := h.kept i j hn
    exact List.countP_pos_iff.2 ⟨t, ht, t2⟩
  · exact Nat.zero_le _

/-- The leaving of a ticket is counted (R167). -/
theorem amid_changeNoticed_leaves (t : Ticket) (st : NoticeState)
    (h : TicketsAmid base new none (lack new) (share (wetGroup s t) 1) s) :
    TicketsAmid base new none (lack new) none0 (changeNoticed s t st .leaves) := by
  unfold changeNoticed
  split
  · rename_i hw
    rw [hw] at h
    exact amid_ticketNotice h _ _
  · rename_i g hw
    rw [hw] at h
    have hput : ∀ s' : State, s'.tickets = s.tickets → s'.tables = s.tables →
        TicketsAmid base new none (lack new) none0 (putGroup s' g { groupAt s g with count := (groupAt s g).count - 1 }) := by
      intro s' e1 e2
      have h' := amid_congr (t := s') h e1 (by rw [e2])
      have e3 : groupAt s' g = groupAt s g := by simp only [groupAt, e1]
      rw [← e3]
      refine amid_putCount h' g _ _ _ ?_ fun j hj => ⟨rfl, ?_⟩
      · have hc := h'.count g
        have hm := kept_members h' g
        simp only [share, if_true] at hc
        simp only [none0]
        omega
      · simp only [share, none0]
        rw [if_neg]
        exact fun e => hj (Option.some.inj e).symm
    dsimp only
    split
    · have h1 := amid_attachOne (hput s rfl rfl) t.id
        (fun y => if y.subject = t.subject ∧ y.cls = t.cls then { y with attached := none } else y)
        (fun y => by split <;> exact ⟨_, rfl⟩)
      split
      · exact amid_exitStorm h1 _
      · exact amid_cableNotice h1 _ _
    · exact hput (ticketNotice s t st) (ticketNotice_tickets s t st).1 (ticketNotice_tickets s t st).2

/-- The evicted ticket's change, once the new ticket has taken its slot. -/
theorem amid_evictedNoticed (before : State) {ev : Option Ticket} (hd : s.tables.directory = before.tables.directory)
    (h : TicketsAmid base new none (lack new)
      (share (ev.bind (fun e => if e.state = .suspect then wetGroup before e else none)) 1) s) :
    TicketsAmid base new none (lack new) none0 (evictedNoticed before s ev) := by
  unfold evictedNoticed
  cases ev with
  | none => exact h
  | some e =>
    dsimp only
    simp only [Option.bind_some] at h
    split
    · rename_i e1
      rw [if_pos e1, ← wetGroup_congr hd] at h
      exact amid_changeNoticed_leaves e .evicted h
    · rename_i e1
      rw [if_neg e1] at h
      repeat' split
      · exact amid_cableNotice h _ _
      · exact amid_ticketNotice h _ _
      · exact amid_ticketNotice h _ _

theorem amid_evictedTested {test : State → Ticket → State} (hh : KeepsAmid base new test) (ev : Option Ticket)
    (h : TicketsAmid base new none (lack new) none0 s) :
    TicketsAmid base new none (lack new) none0 (evictedTested test s ev) := by
  unfold evictedTested
  repeat' split
  · exact h
  · exact hh _ _ h
  · exact h

/-- A new cable ticket for a group takes a slot (R169, R170, R176). -/
theorem amid_raiseCableTicket {test : State → Ticket → State} {failed : State → State} {g : Nat}
    {barSlot : Option Nat} (hh : KeepsAmid base new test)
    (h : TicketsAmid base new but (lack new) none0 s) (hb : but = none ∨ but = some g)
    (hno : ∀ t ∈ s.tickets.tickets, t.subject ≠ .cableGroup g)
    (hf : TicketsAmid base new none (lack new) none0 (failed s)) :
    TicketsAmid base new none (lack new) none0 (raiseCableTicket test failed s g base barSlot) := by
  unfold raiseCableTicket
  split
  · exact hf
  · rename_i slot ev hs
    obtain ⟨h1, hlt, hfree, hsub, htab⟩ := amid_slotTaken h (slotFor_spec hs)
    dsimp only at h1 hfree hsub htab ⊢
    generalize evictTicket s ev = s1 at h1 hfree hsub htab ⊢
    have h2 := amid_add h1 (newCableTicket s1 g slot)
      (fun t ht => ⟨hfree t ht, fun e => absurd e (hno t (hsub t ht))⟩) ⟨hlt, fun _ => rfl⟩ new (lack new)
      (fun j => by rw [not_isMember_of_cable s1 j rfl]; simp) (.inl rfl)
    have h3 := amid_beginStorm h2 g (t := newCableTicket s1 g slot) (by simp [addTicket, onTickets]) rfl (.inl rfl) hb
    refine amid_evictedTested hh _ (amid_cableNotice (amid_ticketNotice (amid_evictedNoticed s ?_ h3) _ _) _ _)
    show s1.tables.directory = _
    rw [htab]

theorem findTicket_spec {s : State} {u : Subject} {c : FaultClass} {t : Ticket} (h : findTicket s u c = some t) :
    t ∈ s.tickets.tickets ∧ t.subject = u ∧ t.cls = c := by
  have h2 := List.find?_some h
  simp only [Bool.decide_and, Bool.and_eq_true, decide_eq_true_eq] at h2
  exact ⟨List.mem_of_find?_eq_some h, h2⟩

theorem findTicket_none {s : State} {u : Subject} {c : FaultClass} (h : findTicket s u c = none) :
    ∀ t ∈ s.tickets.tickets, t.subject = u → t.cls ≠ c := by
  intro t ht e1 e2
  have := List.find?_eq_none.1 h t ht
  simp [e1, e2] at this

/-- A group enters STORM, or stays CALM without a slot (R169, R170). -/
theorem amid_enterStorm {test : State → Ticket → State} (g : Nat) (hh : KeepsAmid base new test)
    (h : TicketsAmid base new none (lack new) none0 s) :
    TicketsAmid base new none (lack new) none0 (enterStorm test s g base) := by
  unfold enterStorm
  split
  · rename_i t ht
    obtain ⟨hm, hs, hc⟩ := findTicket_spec ht
    refine amid_cableNotice (amid_ticketNotice ?_ _ _) _ _
    have h1 := amid_replaceCable h hm (by rw [hs]; rfl) { t with
      state := .opened, recurrences := count16 t.recurrences, occurrences := count16 t.occurrences,
      lastSeen := stampNow s, acknowledged := false } rfl rfl rfl (.inl rfl)
    exact amid_beginStorm h1 g (t := { t with
      state := .opened, recurrences := count16 t.recurrences, occurrences := count16 t.occurrences,
      lastSeen := stampNow s, acknowledged := false }) (List.mem_map.2 ⟨t, hm, if_pos rfl⟩) hs (.inl rfl) (.inl rfl)
  · rename_i hnone
    refine amid_raiseCableTicket hh h (.inl rfl) (fun t ht e => ?_) (amid_cableNotice h _ _)
    exact findTicket_none hnone t ht e ((h.distinct.2 t ht).2 (by rw [e]; rfl))

/-- Entry tests keep the laws, with all the evictions nested in them (R159, R169). -/
theorem keepsAmid_entryAfter (base : TicketBase) (new : Option (Nat × Nat)) (n : Nat) :
    KeepsAmid base new (entryAfter n base) := by
  induction n with
  | zero => exact fun s t h => h
  | succ n ih =>
    intro s t h
    unfold entryAfter
    repeat' split
    · exact h
    · exact amid_enterStorm _ ih h
    · exact h

theorem keepsAmid_entryTested (base : TicketBase) (new : Option (Nat × Nat)) :
    KeepsAmid base new (entryTested base) := fun s t h => keepsAmid_entryAfter base new _ s t h

/-- The leaving of a ticket is handed over (R167). -/
theorem amid_handChange_leaves (t : Ticket) (st : NoticeState)
    (h : TicketsAmid base new none (lack new) (share (wetGroup s t) 1) s) :
    TicketsAmid base new none (lack new) none0 (handChange s t st .leaves base) :=
  keepsAmid_entryTested base new _ t (amid_changeNoticed_leaves t st h)

/-- A change that is no joining and no leaving (R164, R172). -/
theorem amid_handChange_stays (t : Ticket) (st : NoticeState) (h : TicketsAmid base new none (lack new) none0 s) :
    TicketsAmid base new none (lack new) none0 (handChange s t st .stays base) := by
  unfold handChange
  rw [if_pos rfl]
  unfold changeNoticed
  split
  · exact amid_ticketNotice h _ _
  · rename_i g hw
    dsimp only
    split
    · rw [if_neg (by simp)]
      exact amid_cableNotice (amid_putSame h g) _ _
    · have h1 := amid_ticketNotice h t st
      have e : groupAt (ticketNotice s t st) g = groupAt s g := by
        simp only [groupAt]
        rw [(ticketNotice_tickets s t st).1]
      rw [← e]
      exact amid_putSame h1 g

/-- The joining of a ticket is counted (R167). -/
theorem amid_handChange_joins (t : Ticket) (st : NoticeState)
    (h : TicketsAmid base ((wetGroup s t).map (fun g => (t.id, g))) none (share (wetGroup s t) 1) none0 s) :
    TicketsAmid base none none none0 none0 (handChange s t st .joins base) := by
  refine keepsAmid_entryTested base none _ t ?_
  unfold changeNoticed
  split
  · rename_i hw
    rw [hw] at h
    exact amid_ticketNotice h _ _
  · rename_i g hw
    rw [hw] at h
    have hput : ∀ s' : State, s'.tickets = s.tickets → s'.tables = s.tables →
        TicketsAmid base none none none0 none0 (putGroup s' g { groupAt s g with count := (groupAt s g).count + 1 }) := by
      intro s' e1 e2
      have h' := amid_congr (t := s') (amid_forget h base) e1 (by rw [e2])
      have e3 : groupAt s' g = groupAt s g := by simp only [groupAt, e1]
      rw [← e3]
      refine amid_putCount h' g _ _ _ ?_ fun j hj => ⟨?_, rfl⟩
      · have hc := h'.count g
        simp only [share, if_true, none0] at hc ⊢
        omega
      · simp only [share, none0]
        rw [if_neg]
        exact fun e => hj (Option.some.inj e).symm
    dsimp only
    split
    · rw [if_neg (by simp)]
      refine amid_cableNotice (amid_attachOne (hput s rfl rfl) _ _ fun y => ⟨_, rfl⟩) _ _
    · exact hput (ticketNotice s t st) (ticketNotice_tickets s t st).1 (ticketNotice_tickets s t st).2

end

/-! ### No ticket operation writes a table -/

theorem modTicket_tables (s : State) (id : Nat) (f : Ticket → Ticket) : (modTicket s id f).tables = s.tables := rfl
theorem detachMembers_tables (s : State) (g : Nat) : (detachMembers s g).tables = s.tables := rfl
theorem beginStorm_tables (s : State) (g id : Nat) : (beginStorm s g id).tables = s.tables := rfl
theorem addTicket_tables (s : State) (t : Ticket) : (addTicket s t).tables = s.tables := rfl
theorem evictTicket_tables (s : State) (ev : Option Ticket) : (evictTicket s ev).tables = s.tables := by
  cases ev <;> rfl
theorem cableNotice_tables (s : State) (g : Nat) (b : Bool) : (cableNotice s g b).tables = s.tables :=
  (cableNotice_tickets s g b).2
theorem ticketNotice_tables (s : State) (t : Ticket) (st : NoticeState) : (ticketNotice s t st).tables = s.tables :=
  (ticketNotice_tickets s t st).2

theorem exitStorm_tables (s : State) (g : Nat) : (exitStorm s g).tables = s.tables := by
  unfold exitStorm
  simp only [cableNotice_tables]
  split
  · rw [ticketNotice_tables, detachMembers_tables, putGroup_tables]; split <;> rfl
  · rw [detachMembers_tables, putGroup_tables]; split <;> rfl

theorem changeNoticed_tables (s : State) (t : Ticket) (st : NoticeState) (d : Membership) :
    (changeNoticed s t st d).tables = s.tables := by
  unfold changeNoticed
  split
  · exact ticketNotice_tables _ _ _
  · cases d <;> dsimp only <;> repeat' split
    all_goals simp only [exitStorm_tables, cableNotice_tables, ticketNotice_tables, putGroup_tables, modTicket_tables]

theorem evictedNoticed_tables (before s : State) (ev : Option Ticket) :
    (evictedNoticed before s ev).tables = s.tables := by
  unfold evictedNoticed
  repeat' split
  · rfl
  · exact changeNoticed_tables _ _ _ _
  · exact cableNotice_tables _ _ _
  · exact ticketNotice_tables _ _ _
  · exact ticketNotice_tables _ _ _

theorem evictedTested_tables {test : State → Ticket → State} (hh : ∀ s t, (test s t).tables = s.tables) (s : State)
    (ev : Option Ticket) : (evictedTested test s ev).tables = s.tables := by
  unfold evictedTested
  repeat' split
  · rfl
  · exact hh _ _
  · rfl

theorem enterStorm_tables {test : State → Ticket → State} (hh : ∀ s t, (test s t).tables = s.tables) (s : State)
    (g : Nat) (base : TicketBase) : (enterStorm test s g base).tables = s.tables := by
  unfold enterStorm raiseCableTicket
  repeat' split
  · simp only [cableNotice_tables, ticketNotice_tables, beginStorm_tables, modTicket_tables]
  · exact cableNotice_tables _ _ _
  · simp only [evictedTested_tables hh, cableNotice_tables, ticketNotice_tables, evictedNoticed_tables,
      beginStorm_tables, addTicket_tables, evictTicket_tables]

theorem entryAfter_tables (n : Nat) (base : TicketBase) (s : State) (t : Ticket) :
    (entryAfter n base s t).tables = s.tables := by
  induction n generalizing s t with
  | zero => rfl
  | succ n ih =>
    unfold entryAfter
    repeat' split
    · rfl
    · exact enterStorm_tables ih _ _ _
    · rfl

theorem entryTested_tables (base : TicketBase) (s : State) (t : Ticket) : (entryTested base s t).tables = s.tables :=
  entryAfter_tables _ _ _ _

/-! ### The lifecycle (R151 to R155, R162, R163) -/

section
variable {s : State}

/-- A record's new ticket is no candidate for the slots the record still seeks (R157). -/
theorem not_isEvictable_new (found : List Ticket) (t : Ticket) :
    isEvictable (baseWithout (some found) t.id) t = false := by
  simp only [baseWithout, Option.map_some, isEvictable, List.any_eq_false]
  intro u hu h
  have := (List.mem_filter.1 hu).2
  simp only [decide_eq_true_eq, ne_eq] at this
  have h := of_decide_eq_true h
  exact this (by rw [← h])

theorem isEvictable_baseWithout {base : TicketBase} {slot : Nat} {t : Ticket}
    (h : isEvictable base t = false) : isEvictable (baseWithout base slot) t = false := by
  cases base with
  | none => exact absurd h (by simp [isEvictable])
  | some found =>
    simp only [baseWithout, Option.map_some, isEvictable, List.any_eq_false] at h ⊢
    exact fun u hu => h u (List.mem_filter.1 hu).1

/-- A failure with no ticket (R152, R157, R158). -/
theorem ticketsAgree_createTicket (h : TicketsAgree s) (u : Subject) (c : FaultClass) (o : Origin)
    (value : Option Int) (base : TicketBase) (hu : isCableSubject u = false)
    (hb : base ≠ none ∨ isLineSubject u = false) (hno : findTicket s u c = none) :
    TicketsAgree (createTicket s u c o value base).1 := by
  unfold createTicket
  split
  · exact h
  · rename_i slot ev hs
    have h0 := ticketsAgree_amid h base
    obtain ⟨h1, hlt, hfree, hsub, htab⟩ := amid_slotTaken h0 (slotFor_spec hs)
    dsimp only at h1 hfree hsub htab ⊢
    generalize evictTicket s ev = s1 at h1 hfree hsub htab ⊢
    have hst : (newTicket s1 slot u c o value).state ≠ .cleared := by
      simp only [newTicket]; split <;> simp
    have h2 := amid_add (amid_forget h1 (baseWithout base slot)) (newTicket s1 slot u c o value)
      (fun t ht => ⟨hfree t ht, fun e => findTicket_none hno t (hsub t ht) e⟩)
      ⟨hlt, fun hcab => absurd hcab (by show ¬ isCableSubject u = true; rw [hu]; simp)⟩
      ((wetGroup s1 (newTicket s1 slot u c o value)).map (fun g => (slot, g)))
      (share (wetGroup s1 (newTicket s1 slot u c o value)) 1)
      (fun g => by
        rw [isMember_of_standing s1 g hst]
        simp [share])
      (.inr fun i g hi => by
        obtain ⟨g', hg', e⟩ := Option.map_eq_some_iff.1 hi
        cases e
        refine ⟨rfl, by rw [isMember_of_standing s1 _ hst, hg']; simp, fun hsus => ?_⟩
        cases base with
        | some found => exact not_isEvictable_new found (newTicket s1 slot u c o value)
        | none =>
          rcases hb with hb | hb
          · exact absurd rfl hb
          · simp [newTicket, failureWant, hb] at hsus)
    have hplus : share (wetGroup s1 (newTicket s1 slot u c o value)) 1 =
        lack ((wetGroup s1 (newTicket s1 slot u c o value)).map (fun g => (slot, g))) := by
      unfold lack
      cases wetGroup s1 (newTicket s1 slot u c o value) <;> rfl
    rw [hplus] at h2
    have h3 := amid_evictedTested (keepsAmid_entryTested (baseWithout base slot) _) ev
      (amid_evictedNoticed s (by show s1.tables.directory = _; rw [htab]) h2)
    rw [← hplus] at h3
    refine amid_agree (amid_handChange_joins _ _ ?_)
    have hdir : wetGroup (evictedTested (entryTested (baseWithout base slot))
        (evictedNoticed s (addTicket s1 (newTicket s1 slot u c o value)) ev) ev) = wetGroup s1 := by
      refine (wetGroup_congr (s := s1) ?_)
      rw [evictedTested_tables fun s t => entryTested_tables _ s t, evictedNoticed_tables]
      rfl
    rw [hdir]
    exact h3

/-- A ticket changed without a change of membership. -/
theorem ticketsAgree_modTicket (h : TicketsAgree s) {t : Ticket} (ht : t ∈ s.tickets.tickets) (n : Ticket)
    (hid : n.id = t.id) (hs : n.subject = t.subject) (hc : n.cls = t.cls)
    (hst : n.state ≠ .cleared ∧ t.state ≠ .cleared)
    (hcab : isCableSubject t.subject = true → n.state = .opened ∨ n.state = .dispatched) :
    TicketsAgree (modTicket s t.id (fun _ => n)) :=
  amid_agree (amid_replace (ticketsAgree_amid h none) ht n hid hs hc hcab none none0 none0 (fun g => by
    rw [isMember_of_standing s g hst.1, isMember_of_standing s g hst.2, wetGroup_same s hs hc]) (fun _ _ h => nomatch h))

/-- A change that is no joining and no leaving is handed over. -/
theorem ticketsAgree_stays (h : TicketsAgree s) (t : Ticket) (st : NoticeState) (base : TicketBase) :
    TicketsAgree (handChange s t st .stays base) :=
  amid_agree (amid_handChange_stays (new := none) t st (ticketsAgree_amid h base))

/-- A failure of a subject and class (R152, R154, R155). -/
theorem ticketsAgree_failTicket (h : TicketsAgree s) (u : Subject) (c : FaultClass) (o : Origin)
    (value : Option Int) (base : TicketBase) (hu : isCableSubject u = false)
    (hb : base ≠ none ∨ isLineSubject u = false) : TicketsAgree (failTicket s u c o value base).1 := by
  unfold failTicket
  split
  · rename_i hno
    exact ticketsAgree_createTicket h u c o value base hu hb hno
  · rename_i t ht
    obtain ⟨hm, hs, hc⟩ := findTicket_spec ht
    have hcab : ∀ P : Prop, isCableSubject t.subject = true → P := fun P e => by rw [hs, hu] at e; cases e
    have hsame : t.state ≠ .cleared → TicketsAgree (modTicket s t.id (fun _ => updateTicket s value t)) := fun e =>
      ticketsAgree_modTicket h hm (updateTicket s value t) rfl rfl rfl ⟨e, e⟩ (hcab _)
    dsimp only
    split
    · rename_i e
      have h1 := ticketsAgree_modTicket h hm { updateTicket s value t with state := .opened } rfl rfl rfl
        ⟨by simp, by simp [e]⟩ (hcab _)
      exact ticketsAgree_stays h1 { updateTicket s value t with state := .opened } .opened base
    · rename_i e; exact hsame (by simp [e])
    · rename_i e; exact hsame (by simp [e])
    · rename_i e
      let new : Ticket := { updateTicket s value t with state := .opened, recurrences := count16 t.recurrences }
      have hw : wetGroup s new = wetGroup s t := wetGroup_same s rfl rfl
      refine amid_agree (amid_handChange_joins (base := base) new .opened ?_)
      refine amid_replace (ticketsAgree_amid h base) hm new rfl rfl rfl (hcab _) _ _ none0 (fun g => ?_)
        (fun i g hi => ?_)
      · rw [not_isMember_of_cleared s g e, isMember_of_standing s g (t := new) (by simp [new])]
        show share (wetGroup s new) 1 g + 0 + _ = 0 + 0 + _
        simp [share]
      · obtain ⟨g', hg', e'⟩ := Option.map_eq_some_iff.1 hi
        cases e'
        refine ⟨rfl, ?_, fun h => nomatch h⟩
        rw [isMember_of_standing s _ (t := new) (by simp [new])]
        exact decide_eq_true hg'

/-- A pass of a subject and class (R153). -/
theorem ticketsAgree_passTicket (h : TicketsAgree s) (u : Subject) (c : FaultClass) (base : TicketBase)
    (hu : isCableSubject u = false) : TicketsAgree (passTicket s u c base).1 := by
  unfold passTicket
  split
  · exact h
  · rename_i t ht
    obtain ⟨hm, hs, hc⟩ := findTicket_spec ht
    have hcab : ∀ P : Prop, isCableSubject t.subject = true → P := fun P e => by rw [hs, hu] at e; cases e
    have notStorm : ∀ g, (groupAt s g).ticket ≠ some t.id := fun g hg => by
      obtain ⟨v, hv, v1, v2, _⟩ := (h.2.1 g).2 _ hg
      have := h.1.eq_of_id hv hm v1
      exact hcab False (by rw [← this, v2]; rfl)
    split
    · rename_i e
      refine amid_agree (amid_handChange_leaves (new := none) (base := base) t .closed ?_)
      refine amid_free (ticketsAgree_amid h base) hm (fun g _ => notStorm g) (fun _ _ h => nomatch h) _ fun g => ?_
      rw [isMember_of_standing s g (by rw [e]; decide)]
      show share (wetGroup s t) 1 g = 0 + _
      simp [share]
    · exact h
    · rename_i e1 e2
      let new : Ticket := { t with state := .cleared }
      refine amid_agree (amid_handChange_leaves (new := none) (base := base) new .cleared ?_)
      refine amid_replace (ticketsAgree_amid h base) hm new rfl rfl rfl (hcab _) none none0 _ (fun g => ?_)
        (fun _ _ h => nomatch h)
      rw [not_isMember_of_cleared s g (t := new) rfl, isMember_of_standing s g e2]
      show 0 + 0 + _ = 0 + share (wetGroup s t) 1 g + _
      simp [share]

/-! ### Commands on tickets (R162, R163, R175, R176) -/

theorem ticketAt_spec {id : Nat} {t : Ticket} (h : ticketAt s id = some t) : t ∈ s.tickets.tickets ∧ t.id = id :=
  ⟨List.mem_of_find?_eq_some h, by simpa using List.find?_some h⟩

/-- A ticket that is no storm's cable ticket is closed (R163, R164). -/
theorem ticketsAgree_closeTicket (h : TicketsAgree s) {t : Ticket} (hm : t ∈ s.tickets.tickets)
    (hn : ∀ g, (groupAt s g).ticket ≠ some t.id) : TicketsAgree (closeTicket s t) := by
  unfold closeTicket
  split
  · rename_i hst
    refine amid_agree (amid_handChange_leaves (new := none) (base := none) t .closed ?_)
    refine amid_free (ticketsAgree_amid h none) hm (fun g _ => hn g) (fun _ _ h => nomatch h) _ fun g => ?_
    rw [isMember_of_standing s g (by simpa [isStanding] using hst)]
    show share (wetGroup s t) 1 g = 0 + _
    simp [share]
  · rename_i hst
    refine ticketsAgree_stays (amid_agree (base := none) ?_) _ _ _
    refine amid_free (ticketsAgree_amid h none) hm (fun g _ => hn g) (fun _ _ h => nomatch h) _ fun g => ?_
    rw [not_isMember_of_cleared s g (by simpa [isStanding] using hst)]
    rfl

/-- A storm's cable ticket is closed by force (R176). -/
theorem ticketsAgree_replaceCableTicket (h : TicketsAgree s) {t : Ticket} (hm : t ∈ s.tickets.tickets) {g : Nat}
    (hs : t.subject = .cableGroup g) : TicketsAgree (replaceCableTicket s t g) := by
  have hcab : isCableSubject t.subject = true := by rw [hs]; rfl
  have h1 : TicketsAmid none none (some g) none0 none0 s :=
    ⟨h.1, fun j _ => h.2.1 j, h.2.2, fun _ _ h => nomatch h⟩
  have h2 : TicketsAmid none none (some g) none0 none0 (freeTicket s t.id) := by
    refine amid_free h1 hm (fun j hj hid => ?_) (fun _ _ h => nomatch h) _ fun j => ?_
    · obtain ⟨v, hv, v1, v2, _⟩ := (h.2.1 j).2 _ hid
      have := h.1.eq_of_id hv hm v1
      rw [this, hs] at v2
      cases v2
      exact hj rfl
    · rw [not_isMember_of_cable s j hcab]; rfl
  have h3 := amid_ticketNotice h2 t .closed
  have hgone : ∀ u ∈ (ticketNotice (freeTicket s t.id) t .closed).tickets.tickets, u.subject ≠ .cableGroup g := by
    intro u hu e
    rw [(ticketNotice_tickets _ _ _).1] at hu
    obtain ⟨hu1, hu2⟩ := List.mem_filter.1 hu
    simp only [decide_eq_true_eq] at hu2
    have hcu : isCableSubject u.subject = true := by rw [e]; rfl
    have : u = t := by
      rcases Decidable.em (u = t) with h0 | h0
      · exact h0
      · exfalso
        exact h.1.cls_ne hu1 hm h0 (e.trans hs.symm) (((h.1.2 u hu1).2 hcu).trans ((h.1.2 t hm).2 hcab).symm)
    exact hu2 (congrArg Ticket.id this)
  unfold replaceCableTicket
  generalize ticketNotice (freeTicket s t.id) t .closed = x at h3 hgone
  have h4 : TicketsAmid none none none none0 none0 (putGroup x g { groupAt x g with storm := false, ticket := none }) := by
    refine ⟨h3.distinct, fun j _ => ?_, fun j => ?_, fun _ _ h => nomatch h⟩
    · rw [groupAt_putGroup]
      split
      · exact ⟨rfl, fun _ h => nomatch h⟩
      · rename_i hj
        exact h3.stands j fun e => hj (Option.some.inj e).symm
    · rw [groupAt_putGroup]
      split
      · subst_vars; exact h3.count _
      · exact h3.count j
  have h5 := amid_cableNotice (amid_detachMembers h4 g) g true
  have hlack : lack none = none0 := rfl
  rw [← hlack] at h3 h5
  have h6 := amid_raiseCableTicket (new := none)
    (failed := fun s => cableNotice (detachMembers (putGroup s g { groupAt s g with storm := false, ticket := none }) g)
      g true) (barSlot := some t.id) (keepsAmid_entryTested none none) h3 (.inr rfl) hgone h5
  rw [hlack] at h6
  exact amid_agree h6

/-- TICKET_DISPATCH (R162). -/
theorem ticketsAgree_ticketDispatch (h : TicketsAgree s) (id : Octet) (tag : Half) :
    TicketsAgree (ticketDispatch s id tag).1 := by
  unfold ticketDispatch
  split
  · exact h
  · rename_i t ht
    obtain ⟨hm, _⟩ := ticketAt_spec ht
    have h1 : t.state ≠ .cleared →
        TicketsAgree (modTicket s t.id (fun _ => { t with state := .dispatched, dispatch := some tag })) := fun e =>
      ticketsAgree_modTicket h hm { t with state := .dispatched, dispatch := some tag } rfl rfl rfl ⟨by simp, e⟩
        fun _ => .inr rfl
    dsimp only
    split
    · rename_i e
      exact ticketsAgree_stays (h1 (by simp [e])) { t with state := .dispatched, dispatch := some tag } .dispatched none
    · rename_i e; exact h1 (by simp [e])
    · exact h

/-- TICKET_CLOSE (R163, R176). -/
theorem ticketsAgree_ticketClose (h : TicketsAgree s) (src id : Octet) (force : Bool) :
    TicketsAgree (ticketClose s src id force).1 := by
  unfold ticketClose
  split
  · exact h
  · rename_i t ht
    obtain ⟨hm, _⟩ := ticketAt_spec ht
    have stands : ∀ g, (groupAt s g).ticket = some t.id → stormOf s t = some g ∧ t.state ≠ .cleared := fun g hg => by
      obtain ⟨v, hv, v1, v2, v3⟩ := (h.2.1 g).2 _ hg
      have e := h.1.eq_of_id hv hm v1
      subst e
      have hst : v.state ≠ .cleared := by rcases v3 with e | e <;> simp [e]
      refine ⟨?_, hst⟩
      have hstorm : (groupAt s g).storm = true := by rw [(h.2.1 g).1, hg]; rfl
      simp [stormOf, v2, isStanding, hst, hstorm]
    split
    · split
      · exact h
      · split
        · rename_i g hg
          have hsub : t.subject = .cableGroup g := by
            unfold stormOf at hg
            split at hg
            · rename_i hs
              split at hg
              · cases hg; exact hs
              · cases hg
            · cases hg
          have h1 := ticketsAgree_replaceCableTicket h hm hsub
          dsimp only
          exact h1
        · rename_i hg
          exact ticketsAgree_closeTicket h hm fun g hgt => by
            rw [(stands g hgt).1] at hg; cases hg
    · split
      · rename_i e
        exact ticketsAgree_closeTicket h hm fun g hgt => (stands g hgt).2 e
      · exact h

/-- CABLE_ACK (R175). -/
theorem ticketsAgree_cableAck (h : TicketsAgree s) (group : Octet) : TicketsAgree (cableAck s group).1 := by
  unfold cableAck
  dsimp only
  repeat' split
  · exact h
  · exact h
  · refine amid_agree (base := none) (amid_map (ticketsAgree_amid h none) _ (fun t => ?_) (.inl rfl))
    split <;> exact ⟨rfl, rfl, rfl, rfl⟩
  · exact h

/-! ### Events from the table store (R168, R174) -/

/-- A threshold-change event (R174). -/
theorem ticketsAgree_thresholdChanged (h : TicketsAgree s) (g : Nat) : TicketsAgree (thresholdChanged s g) := by
  have h0 := ticketsAgree_amid h none
  unfold thresholdChanged
  repeat' split
  · exact amid_agree (amid_exitStorm h0 _)
  · exact amid_agree (amid_cableNotice h0 _ _)
  · exact amid_agree (amid_enterStorm (new := none) g (keepsAmid_entryTested none none) h0)
  · exact h

/-- The new group of a move (R168). -/
theorem amid_moveIn {k g len : Nat} (h : TicketsAmid none none none (share (some g) k) none0 s) :
    TicketsAgree (moveIn s g k len) := by
  have h2 : TicketsAmid none none none none0 none0
      (putGroup s g { groupAt s g with count := (groupAt s g).count + k }) := by
    refine amid_putCount h g _ _ _ ?_ fun j hj => ⟨?_, rfl⟩
    · have := h.count g
      simp only [share, if_true, none0] at this ⊢
      omega
    · simp only [share, none0]
      rw [if_neg]
      exact fun e => hj (Option.some.inj e).symm
  unfold moveIn
  dsimp only
  repeat' split
  · exact amid_agree (amid_cableNotice (amid_attachLine h2 _ _) _ _)
  · exact amid_agree (amid_enterStorm (new := none) g (keepsAmid_entryTested none none) h2)
  · exact amid_agree h2

/-- The old group of a move (R168). -/
theorem amid_moveOut {k g len : Nat} {plus : Nat → Nat} (h : TicketsAmid none none none plus (share (some g) k) s)
    (hk : k ≤ (groupAt s g).count) (hg : plus g = 0) : TicketsAmid none none none plus none0 (moveOut s g k len) := by
  have h2 : TicketsAmid none none none plus none0
      (putGroup s g { groupAt s g with count := (groupAt s g).count - k }) := by
    refine amid_putCount h g _ _ _ ?_ fun j hj => ⟨rfl, ?_⟩
    · have := h.count g
      simp only [share, if_true, none0] at this ⊢
      omega
    · simp only [share, none0]
      rw [if_neg]
      exact fun e => hj (Option.some.inj e).symm
  unfold moveOut
  dsimp only
  repeat' split
  · exact amid_exitStorm (amid_attachLine h2 _ _) _
  · exact amid_cableNotice (amid_attachLine h2 _ _) _ _
  · exact amid_attachLine h2 _ _

/-- A group-move event, the members of the line counted in the old group and not yet in the new (R168). -/
theorem groupMoved_agree {k len : Nat} {old new : Option Nat} (hk : (lineMembers s len).length = k)
    (h : TicketsAmid none none none (share new k) (share old k) s)
    (ho : ∀ g, old = some g → new ≠ some g → k ≤ (groupAt s g).count) :
    TicketsAgree (groupMoved s len old new) := by
  unfold groupMoved
  rw [hk]
  dsimp only
  split
  · rename_i e
    refine amid_agree (base := none) ⟨h.distinct, h.stands, fun g => ?_, fun _ _ h => nomatch h⟩
    have := h.count g
    rcases e with e | e
    · simp only [share, e] at this
      split at this <;> split at this <;> exact this
    · rw [e] at this; exact Nat.add_right_cancel this
  · rename_i e
    have hne : old ≠ new := fun e' => e (.inr e')
    cases old with
    | none =>
      cases new with
      | none => exact absurd rfl hne
      | some g => exact amid_moveIn h
    | some g =>
      have hg : new ≠ some g := fun e' => hne e'.symm
      have h1 := amid_moveOut (len := len) h (ho g rfl hg) (by simp [share, hg])
      cases new with
      | none => exact amid_agree h1
      | some g' => exact amid_moveIn h1

/-- A directory write moves the line's members from its old group to its new (R47, R168). -/
theorem ticketsAgree_groupMoved (h : TicketsAgree s) (len : Nat) (d : Option DirectoryEntry) :
    TicketsAgree (groupMoved (onTables s (fun t => { t with directory := tabPut none t.directory len d })) len
      ((directoryAt s len).bind (·.group)) (d.bind (·.group))) := by
  generalize hs1 : onTables s (fun t => { t with directory := tabPut none t.directory len d }) = s1
  have ht : s1.tickets = s.tickets := by rw [← hs1]; rfl
  have hd : ∀ n, directoryAt s1 n = if n = len then d else directoryAt s n := fun n => by
    rw [← hs1]; exact tabGet_tabPut ..
  generalize ho : (directoryAt s len).bind (·.group) = old
  generalize hn : d.bind (·.group) = new
  let mine : Ticket → Bool := fun t => t.subject = .line len ∧ isWet t.cls ∧ isStanding t
  have hwet : ∀ t : Ticket, t.subject = .line len → isWet t.cls = true → wetGroup s t = old ∧ wetGroup s1 t = new :=
    fun t h1 h2 => by simp [wetGroup, h1, h2, hd, ho, hn]
  have hsame : ∀ t : Ticket, ¬ (t.subject = .line len ∧ isWet t.cls = true) → wetGroup s1 t = wetGroup s t :=
    fun t h1 => by
      unfold wetGroup
      split
      · rename_i k hk
        split
        · rename_i hw
          rw [hd, if_neg]
          intro e; exact h1 ⟨by rw [hk, e], hw⟩
        · rfl
      · rfl
  have hcount : ∀ (g : Nat) (ts : List Ticket), ts.countP (isMember s1 g) + share old ((ts.filter mine).length) g =
      ts.countP (isMember s g) + share new ((ts.filter mine).length) g := by
    intro g ts
    induction ts with
    | nil => simp [share]
    | cons t rest ih =>
      by_cases hm : mine t = true
      · have hm' : t.subject = .line len ∧ isWet t.cls = true ∧ isStanding t = true := of_decide_eq_true hm
        obtain ⟨w1, w2⟩ := hwet t hm'.1 hm'.2.1
        have e1 : isMember s g t = decide (old = some g) := by simp [isMember, hm'.2.2, w1]
        have e2 : isMember s1 g t = decide (new = some g) := by simp [isMember, hm'.2.2, w2]
        simp only [List.countP_cons, List.filter_cons, hm, if_true, List.length_cons, e1, e2, share,
          decide_eq_true_eq] at ih ⊢
        split <;> split <;> simp_all <;> omega
      · have hsm : isMember s1 g t = isMember s g t := by
          by_cases hst : isStanding t = true
          · unfold isMember
            rw [hsame t fun e => hm (decide_eq_true ⟨e.1, e.2, hst⟩)]
          · simp [isMember, hst]
        simp only [List.countP_cons, List.filter_cons, hm, hsm] at ih ⊢
        simp only [Bool.false_eq_true, if_false]
        omega
  have hk : (lineMembers s1 len).length = (s.tickets.tickets.filter mine).length := by
    unfold lineMembers; rw [ht]
  refine groupMoved_agree (k := (s.tickets.tickets.filter mine).length) hk ⟨ht ▸ h.1, fun g _ => ?_, fun g => ?_,
    fun _ _ e => nomatch e⟩ fun g hg hne => ?_
  · have := h.2.1 g
    unfold groupAt at this ⊢
    rw [ht]; exact this
  · have h1 := hcount g s.tickets.tickets
    have h2 := h.2.2 g
    have h3 : groupAt s1 g = groupAt s g := by unfold groupAt; rw [ht]
    simp only [members, ht]
    rw [h3]
    omega
  · have h1 := hcount g s.tickets.tickets
    have h2 := h.2.2 g
    have h3 : groupAt s1 g = groupAt s g := by unfold groupAt; rw [ht]
    rw [h3]
    simp only [share, if_pos hg, if_neg hne] at h1
    omega

/-- A directory write (R45, R46). -/
theorem ticketsAgree_putDirectory (h : TicketsAgree s) (len : Nat) (d : Option DirectoryEntry) :
    TicketsAgree (putDirectory s len d) := by
  have h1 := ticketsAgree_groupMoved h len d
  unfold putDirectory directoryWritten
  dsimp only
  split
  · exact ticketsAgree_congr h1 rfl rfl
  · exact h1

end

end Sys2Proof.Machine
end

