-- ==== Sys2Proof/Laws/Keeps.lean ====
section
/-! SUPPORT. What every operation inside a step keeps (`Keeps`): the queue of commands, the clock, the straps, the
RESET pin and the places reserved in the NORMAL queue; and the laws of a state, each kept where it holds.
This file proves it of the operations that change one block; the files after it of every operation built from
them. -/

namespace Sys2Proof.Machine

set_option Elab.async false

/-- `t` keeps, from `s`, all that no operation inside a step but a warm restart changes, and the laws that hold of
`s`; the law of the tickets where `tk` claims it, and that of the result slots where `sl` does, whichever slots are
loose. -/
structure Keeps (tk sl : Bool) (s t : State) : Prop where
  pending : t.pending = s.pending
  clock : t.clock = s.clock
  straps : t.ports.straps = s.ports.straps
  asserted : t.ports.resetAsserted = s.ports.resetAsserted
  calendar : CalendarValid s.calendar → CalendarValid t.calendar
  levels : HazardLevelsValid s.tables → HazardLevelsValid t.tables
  ports : PortsBounded s.ports → PortsBounded t.ports
  hooks : HookCountsAgree s.tracker → HookCountsAgree t.tracker
  queue : QueueBounded s.arbiter.queue → QueueBounded t.arbiter.queue
  normal : NormalBounded s → NormalBounded t
  reserved : t.ports.reserved = s.ports.reserved
  blocks : BlocksMatch s → BlocksMatch t
  tickets : tk = true → TicketsAgree s → TicketsAgree t
  slots : sl = true → ∀ l, SlotsAgreeBut l s → SlotsAgreeBut l t

theorem Keeps.refl {tk sl : Bool} (s : State) : Keeps tk sl s s :=
  ⟨rfl, rfl, rfl, rfl, id, id, id, id, id, id, rfl, id, fun _ => id, fun _ _ => id⟩

theorem Keeps.trans {tk sl : Bool} {a b c : State} (h : Keeps tk sl a b) (k : Keeps tk sl b c) : Keeps tk sl a c :=
  ⟨k.pending.trans h.pending, k.clock.trans h.clock, k.straps.trans h.straps, k.asserted.trans h.asserted,
    k.calendar ∘ h.calendar, k.levels ∘ h.levels, k.ports ∘ h.ports, k.hooks ∘ h.hooks, k.queue ∘ h.queue,
    k.normal ∘ h.normal, k.reserved.trans h.reserved, k.blocks ∘ h.blocks, fun e => k.tickets e ∘ h.tickets e,
    fun e l => k.slots e l ∘ h.slots e l⟩

/-- What is kept without a claim on the tickets. -/
theorem Keeps.noTickets {tk sl : Bool} {a b : State} (h : Keeps tk sl a b) : Keeps false sl a b :=
  ⟨h.pending, h.clock, h.straps, h.asserted, h.calendar, h.levels, h.ports, h.hooks, h.queue, h.normal, h.reserved,
    h.blocks, fun e => (nomatch e), h.slots⟩

/-- What is kept without a claim on the result slots. -/
theorem Keeps.noSlots {tk sl : Bool} {a b : State} (h : Keeps tk sl a b) : Keeps tk false a b :=
  ⟨h.pending, h.clock, h.straps, h.asserted, h.calendar, h.levels, h.ports, h.hooks, h.queue, h.normal, h.reserved,
    h.blocks, h.tickets, fun e => nomatch e⟩

/-- The law of the tickets, shown by itself. -/
theorem Keeps.withTickets {tk sl : Bool} {a b c : State} (h : Keeps tk sl a b) (k : Keeps false sl a c)
    (ht : TicketsAgree b → TicketsAgree c) : Keeps tk sl a c :=
  ⟨k.pending, k.clock, k.straps, k.asserted, k.calendar, k.levels, k.ports, k.hooks, k.queue, k.normal, k.reserved,
    k.blocks, fun e => ht ∘ h.tickets e, k.slots⟩

/-- The law of the result slots, shown by itself. -/
theorem Keeps.withSlots {tk sl : Bool} {a b c : State} (h : Keeps tk sl a b) (k : Keeps tk false a c)
    (hs : ∀ l, SlotsAgreeBut l b → SlotsAgreeBut l c) : Keeps tk sl a c :=
  ⟨k.pending, k.clock, k.straps, k.asserted, k.calendar, k.levels, k.ports, k.hooks, k.queue, k.normal, k.reserved,
    k.blocks, k.tickets, fun e l => hs l ∘ h.slots e l⟩

/-- `t` keeps, from `s`, what `Keeps` says but for the number of places reserved, which a warm restart releases
(R21). -/
structure Follows (s t : State) : Prop where
  pending : t.pending = s.pending
  clock : t.clock = s.clock
  straps : t.ports.straps = s.ports.straps
  asserted : t.ports.resetAsserted = s.ports.resetAsserted
  calendar : CalendarValid s.calendar → CalendarValid t.calendar
  levels : HazardLevelsValid s.tables → HazardLevelsValid t.tables
  ports : PortsBounded s.ports → PortsBounded t.ports
  hooks : HookCountsAgree s.tracker → HookCountsAgree t.tracker
  queue : QueueBounded s.arbiter.queue → QueueBounded t.arbiter.queue
  normal : NormalBounded s → NormalBounded t
  blocks : BlocksMatch s → BlocksMatch t
  tickets : TicketsAgree s → TicketsAgree t
  slots : SlotsAgree s → SlotsAgree t

theorem Keeps.follows {s t : State} (h : Keeps true true s t) : Follows s t :=
  ⟨h.pending, h.clock, h.straps, h.asserted, h.calendar, h.levels, h.ports, h.hooks, h.queue, h.normal, h.blocks,
    h.tickets rfl, h.slots rfl []⟩

theorem Follows.trans {a b c : State} (h : Follows a b) (k : Follows b c) : Follows a c :=
  ⟨k.pending.trans h.pending, k.clock.trans h.clock, k.straps.trans h.straps, k.asserted.trans h.asserted,
    k.calendar ∘ h.calendar, k.levels ∘ h.levels, k.ports ∘ h.ports, k.hooks ∘ h.hooks, k.queue ∘ h.queue,
    k.normal ∘ h.normal, k.blocks ∘ h.blocks, k.tickets ∘ h.tickets, k.slots ∘ h.slots⟩

theorem keeps_foldl {α : Type} {tk sl : Bool} {s0 : State} (f : State → α → State)
    (hf : ∀ s x, Keeps tk sl s0 s → Keeps tk sl s0 (f s x)) (l : List α) {s : State} (h : Keeps tk sl s0 s) :
    Keeps tk sl s0 (l.foldl f s) := by
  induction l generalizing s with
  | nil => exact h
  | cons x rest ih => exact ih (hf s x h)

variable {tk sl : Bool} {s0 s : State}

/-! ### One block changed -/

theorem keeps_onEngine (h : Keeps tk sl s0 s) (f : Engine → Engine)
    (hs : (f s.engine).sessions = s.engine.sessions) : Keeps tk sl s0 (onEngine s f) :=
  ⟨h.pending, h.clock, h.straps, h.asserted, h.calendar, h.levels, h.ports, h.hooks, h.queue,
    h.normal, h.reserved, h.blocks, h.tickets, fun e l hl => slots_congr (h.slots e l hl) hs rfl rfl rfl⟩

theorem keeps_onMeas (h : Keeps tk sl s0 s) (f : Measurement → Measurement) : Keeps tk sl s0 (onMeas s f) :=
  ⟨h.pending, h.clock, h.straps, h.asserted, h.calendar, h.levels, h.ports, h.hooks, h.queue,
    h.normal, h.reserved, h.blocks, h.tickets, h.slots⟩

theorem keeps_onTickets (h : Keeps false sl s0 s) (f : TicketManager → TicketManager) :
    Keeps false sl s0 (onTickets s f) :=
  ⟨h.pending, h.clock, h.straps, h.asserted, h.calendar, h.levels, h.ports, h.hooks, h.queue,
    h.normal, h.reserved, h.blocks, fun e => (nomatch e), h.slots⟩

theorem keeps_onInterp (h : Keeps tk sl s0 s) (f : Interpreter → Interpreter)
    (hs : (f s.interp).slots = s.interp.slots) (ho : (f s.interp).fillingOrder = s.interp.fillingOrder) :
    Keeps tk sl s0 (onInterp s f) :=
  ⟨h.pending, h.clock, h.straps, h.asserted, h.calendar, h.levels, h.ports, h.hooks, h.queue,
    h.normal, h.reserved, h.blocks, h.tickets, fun e l hl => slots_congr (h.slots e l hl) rfl rfl hs ho⟩

/-- A change of the result store. -/
theorem keeps_store (h : Keeps tk false s0 s) (f : Interpreter → Interpreter) : Keeps tk false s0 (onInterp s f) :=
  ⟨h.pending, h.clock, h.straps, h.asserted, h.calendar, h.levels, h.ports, h.hooks, h.queue,
    h.normal, h.reserved, h.blocks, h.tickets, fun e => nomatch e⟩

theorem keeps_schedules (h : Keeps tk sl s0 s) (x : Tab Schedule) (hx : (∀ n, (scheduleAt s n).run.deferredLines.length ≤ 32) →
    ∀ n, (tabGet scheduleZero x n).run.deferredLines.length ≤ 32) : Keeps tk sl s0 { s with schedules := x } :=
  ⟨h.pending, h.clock, h.straps, h.asserted, h.calendar, h.levels, h.ports, h.hooks, h.queue,
    fun hb => ⟨(h.normal hb).1, hx (h.normal hb).2⟩, h.reserved, h.blocks, h.tickets, h.slots⟩

theorem keeps_agenda (h : Keeps tk sl s0 s) (x : List Todo) : Keeps tk sl s0 { s with agenda := x } :=
  ⟨h.pending, h.clock, h.straps, h.asserted, h.calendar, h.levels, h.ports, h.hooks, h.queue,
    h.normal, h.reserved, h.blocks, h.tickets, h.slots⟩

theorem keeps_calendar (h : Keeps tk sl s0 s) (c : Calendar) (hc : CalendarValid s.calendar → CalendarValid c) :
    Keeps tk sl s0 { s with calendar := c } :=
  ⟨h.pending, h.clock, h.straps, h.asserted, hc ∘ h.calendar, h.levels, h.ports, h.hooks, h.queue,
    h.normal, h.reserved, h.blocks, h.tickets, h.slots⟩

theorem keeps_onTables (h : Keeps tk sl s0 s) (f : Tables → Tables)
    (hl : HazardLevelsValid s.tables → HazardLevelsValid (f s.tables))
    (hd : (f s.tables).directory = s.tables.directory) : Keeps tk sl s0 (onTables s f) :=
  ⟨h.pending, h.clock, h.straps, h.asserted, h.calendar, hl ∘ h.levels, h.ports, h.hooks, h.queue,
    h.normal, h.reserved, h.blocks, fun e ht => ticketsAgree_congr (h.tickets e ht) rfl hd, h.slots⟩

theorem keeps_onArbiter (h : Keeps tk sl s0 s) (f : Arbiter → Arbiter)
    (hq : (f s.arbiter).queue = s.arbiter.queue) (hm : (f s.arbiter).marks = s.arbiter.marks) :
    Keeps tk sl s0 (onArbiter s f) :=
  ⟨h.pending, h.clock, h.straps, h.asserted, h.calendar, h.levels, h.ports, h.hooks,
    fun hb => by show QueueBounded (f s.arbiter).queue; rw [hq]; exact h.queue hb, h.normal, h.reserved,
    fun hb len => by
      have := h.blocks hb len
      unfold markOf at this ⊢
      show _ = decide (tabGet .free (f s.arbiter).marks len ≠ .free)
      rw [hm]; exact this,
    h.tickets, fun e l hl => slots_congr (h.slots e l hl) rfl hq rfl rfl⟩

theorem keeps_onTracker (h : Keeps tk sl s0 s) (f : Tracker → Tracker)
    (ht : HookCountsAgree s.tracker → HookCountsAgree (f s.tracker))
    (hb : BlocksMatch s → BlocksMatch (onTracker s f)) : Keeps tk sl s0 (onTracker s f) :=
  ⟨h.pending, h.clock, h.straps, h.asserted, h.calendar, h.levels, h.ports, ht ∘ h.hooks, h.queue,
    h.normal, h.reserved, hb ∘ h.blocks, h.tickets, h.slots⟩

theorem keeps_onPorts (h : Keeps tk sl s0 s) (f : Ports → Ports) (hs : (f s.ports).straps = s.ports.straps)
    (ha : (f s.ports).resetAsserted = s.ports.resetAsserted)
    (hb : PortsBounded s.ports → PortsBounded (f s.ports))
    (hr : (f s.ports).reserved = s.ports.reserved := by rfl)
    (hn : (f s.ports).normal.length ≤ s.ports.normal.length := by exact Nat.le_refl _) : Keeps tk sl s0 (onPorts s f) :=
  ⟨h.pending, h.clock, hs.trans h.straps, ha.trans h.asserted, h.calendar, h.levels, hb ∘ h.ports, h.hooks,
    h.queue, fun hb => ⟨by have := (h.normal hb).1; simp only [onPorts, hr]; omega, (h.normal hb).2⟩,
    hr.trans h.reserved, h.blocks, h.tickets, h.slots⟩

/-! ### Hook counts (R24) -/

/-- A change of lines that leaves every hook state as it is keeps the counts. -/
theorem hookCount_tabMod (t : Tracker) (len n : Nat) (f : Line → Line) (sort : Hook → Bool)
    (ht : tabRising t.lines) (hu : sort .unknown = false)
    (hf : sort (f (tabGet lineZero t.lines len)).hook = sort (tabGet lineZero t.lines len).hook) :
    hookCount { t with lines := tabMod lineZero t.lines len f } n sort = hookCount t n sort := by
  have := countP_tabPut lineZero (fun x => decide (lineShelf x.1 = n) && sort x.2.hook) t.lines len
    (f (tabGet lineZero t.lines len)) ht (by simp [lineZero, hu])
  simp only [hf] at this
  simp only [hookCount, tabMod, Bool.decide_and, Bool.decide_eq_true]
  omega

/-- A hook state written on another shelf's line leaves a shelf's count as it is. -/
theorem hookCount_other (t : Tracker) (len n : Nat) (f : Line → Line) (sort : Hook → Bool)
    (ht : tabRising t.lines) (hn : lineShelf len ≠ n) :
    hookCount { t with lines := tabMod lineZero t.lines len f } n sort = hookCount t n sort := by
  have := countP_tabPut lineZero (fun x => decide (lineShelf x.1 = n) && sort x.2.hook) t.lines len
    (f (tabGet lineZero t.lines len)) ht (by simp [hn])
  simp only [hn, decide_false, Bool.false_and, Bool.false_eq_true, if_false] at this
  simp only [hookCount, tabMod, Bool.decide_and, Bool.decide_eq_true]
  omega

theorem hookCountsAgree_line (t : Tracker) (len : Nat) (f : Line → Line)
    (hf : ∀ l, (f l).hook = l.hook) (h : HookCountsAgree t) :
    HookCountsAgree { t with lines := tabMod lineZero t.lines len f } := by
  refine ⟨tabMod_rising _ _ _ _ h.1, fun n => ?_⟩
  rw [hookCount_tabMod t len n f isRinging h.1 rfl (by rw [hf]),
    hookCount_tabMod t len n f isOff h.1 rfl (by rw [hf])]
  exact h.2 n

theorem hookCountsAgree_shelf (t : Tracker) (n : Nat) (f : Shelf → Shelf)
    (hr : ∀ x, (f x).ringing = x.ringing) (ho : ∀ x, (f x).offHook = x.offHook) (h : HookCountsAgree t) :
    HookCountsAgree { t with shelves := tabMod shelfZero t.shelves n f } := by
  refine ⟨h.1, fun m => ?_⟩
  have := h.2 m
  simp only [tabGet_tabMod]
  split
  · subst_vars; rw [hr, ho]; exact this
  · exact this

/-- The counts agree on every shelf but one. -/
def AgreeBut (t : Tracker) (n : Nat) : Prop :=
  tabRising t.lines ∧ ∀ m, m ≠ n →
    (tabGet shelfZero t.shelves m).ringing = hookCount t m isRinging ∧
    (tabGet shelfZero t.shelves m).offHook = hookCount t m isOff

theorem agreeBut_of_agree {t : Tracker} (n : Nat) (h : HookCountsAgree t) : AgreeBut t n :=
  ⟨h.1, fun m _ => h.2 m⟩

theorem agreeBut_line {t : Tracker} {n : Nat} (len : Nat) (f : Line → Line) (hl : lineShelf len = n)
    (h : AgreeBut t n) : AgreeBut { t with lines := tabMod lineZero t.lines len f } n := by
  refine ⟨tabMod_rising _ _ _ _ h.1, fun m hm => ?_⟩
  rw [hookCount_other t len m f isRinging h.1 (by omega), hookCount_other t len m f isOff h.1 (by omega)]
  exact h.2 m hm

/-- Recounting the one shelf makes the counts agree (R24). -/
theorem agree_recount {s : State} {n : Nat} (h : AgreeBut s.tracker n) :
    HookCountsAgree (recountShelf s n).tracker := by
  refine ⟨h.1, fun m => ?_⟩
  simp only [recountShelf, modShelf, onTracker, tabGet_tabMod]
  split
  · subst_vars
    refine ⟨rfl, ?_⟩
    rfl
  · rename_i hm
    exact h.2 m hm

/-- A change of one line that leaves its block value as it is. -/
theorem blocks_modLine (h : BlocksMatch s) (len : Nat) (f : Line → Line) (hf : (f (lineOf s len)).blocked =
    (lineOf s len).blocked) : BlocksMatch (modLine s len f) := fun n => by
  have h0 := h n
  show (tabGet lineZero (tabMod lineZero s.tracker.lines len f) n).blocked = _
  rw [tabGet_tabMod]
  split
  · subst_vars; exact hf.trans h0
  · exact h0

theorem keeps_modLine (h : Keeps tk sl s0 s) (len : Nat) (f : Line → Line) (hf : ∀ l, (f l).hook = l.hook)
    (hb : ∀ l, (f l).blocked = l.blocked) : Keeps tk sl s0 (modLine s len f) :=
  keeps_onTracker h _ (hookCountsAgree_line _ _ _ hf) fun hm => blocks_modLine hm len f (hb _)

theorem keeps_modShelf (h : Keeps tk sl s0 s) (n : Nat) (f : Shelf → Shelf) (hr : ∀ x, (f x).ringing = x.ringing)
    (ho : ∀ x, (f x).offHook = x.offHook) : Keeps tk sl s0 (modShelf s n f) :=
  keeps_onTracker h _ (hookCountsAgree_shelf _ _ _ hr ho) id

/-! ### The tables that carry no law -/

theorem keeps_modBus (h : Keeps tk sl s0 s) (b : Nat) (f : Bus → Bus) : Keeps tk sl s0 (modBus s b f) :=
  keeps_onEngine h _ rfl
theorem keeps_putRiser (h : Keeps tk sl s0 s) (n : Nat) (r : Riser) : Keeps tk sl s0 (putRiser s n r) :=
  keeps_onEngine h _ rfl
theorem keeps_putSession (h : Keeps tk false s0 s) (id : Nat) (x : Option Session) :
    Keeps tk false s0 (putSession s id x) :=
  ⟨h.pending, h.clock, h.straps, h.asserted, h.calendar, h.levels, h.ports, h.hooks, h.queue,
    h.normal, h.reserved, h.blocks, h.tickets, fun e => nomatch e⟩
theorem keeps_modSession (h : Keeps tk sl s0 s) (id : Nat) (f : Session → Session)
    (hf : ∀ x, (f x).slot = x.slot) (hc : ∀ x, (f x).cls = x.cls) : Keeps tk sl s0 (modSession s id f) :=
  h.withSlots (keeps_putSession h.noSlots id _) fun _ hl => slots_modSession hl id f hf hc
theorem keeps_putWindow (h : Keeps tk sl s0 s) (b : Nat) (w : Option Window) : Keeps tk sl s0 (putWindow s b w) :=
  keeps_onMeas h _
theorem keeps_putCollector (h : Keeps tk sl s0 s) (id : Nat) (c : Collector) : Keeps tk sl s0 (putCollector s id c) :=
  keeps_onMeas h _
theorem keeps_putChecker (h : Keeps tk sl s0 s) (n : Nat) (c : Checker) : Keeps tk sl s0 (putChecker s n c) := keeps_onMeas h _
theorem keeps_putGroup (h : Keeps false sl s0 s) (g : Nat) (x : CableGroup) : Keeps false sl s0 (putGroup s g x) :=
  keeps_onTickets h _
theorem keeps_putSchedule (h : Keeps tk sl s0 s) (n : Nat) (x : Schedule) (hx : x.run.deferredLines.length ≤ 32) :
    Keeps tk sl s0 (putSchedule s n x) :=
  keeps_schedules h _ fun hd k => by
    rw [tabGet_tabPut]
    split
    · exact hx
    · exact hd k
theorem keeps_modRun (h : Keeps tk sl s0 s) (n : Nat) (f : SweepRun → SweepRun)
    (hf : (scheduleAt s n).run.deferredLines.length ≤ 32 → (f (scheduleAt s n).run).deferredLines.length ≤ 32) :
    Keeps tk sl s0 (modRun s n f) :=
  keeps_schedules h _ fun hd k => by
    rw [tabGet_tabMod]
    split
    · subst_vars; exact hf (hd _)
    · exact hd k
theorem keeps_putSlot (h : Keeps tk false s0 s) (n : Nat) (x : Slot) : Keeps tk false s0 (putSlot s n x) :=
  keeps_store h _
theorem keeps_putUnit (h : Keeps tk sl s0 s) (u : Nat) (x : NoticeUnit) : Keeps tk sl s0 (putUnit s u x) :=
  keeps_onInterp h _ rfl rfl
theorem keeps_handOn (h : Keeps tk sl s0 s) (t : Todo) : Keeps tk sl s0 (handOn s t) := keeps_agenda h _
theorem keeps_examineLater (h : Keeps tk sl s0 s) : Keeps tk sl s0 (examineLater s) := keeps_handOn h _

/-! ### Ports -/

theorem keeps_giveSlot (h : Keeps tk sl s0 s) (p : Side) : Keeps tk sl s0 (giveSlot s p) := by
  unfold giveSlot
  cases p <;> exact keeps_onPorts h _ rfl rfl (fun hb => hb)

theorem keeps_transmit (h : Keeps tk sl s0 s) (p : Side) (x : Transmit) : Keeps tk sl s0 (transmit s p x) := by
  unfold transmit
  cases p <;> exact keeps_onPorts h _ rfl rfl (fun hb => hb)

/-- Cells that find room join the NORMAL queue. -/
theorem keeps_joinNormal (h : Keeps tk sl s0 s) (cs : List Cell) (hc : cs.length ≤ normalRoom s) :
    Keeps tk sl s0 (joinNormal s cs) :=
  ⟨h.pending, h.clock, h.straps, h.asserted, h.calendar, h.levels, h.ports, h.hooks, h.queue,
    fun hb => ⟨by
      have := (h.normal hb).1
      simp only [normalRoom, Config.normalCapacity] at hc
      simp only [joinNormal, onPorts, List.length_append]; omega, (h.normal hb).2⟩, h.reserved, h.blocks, h.tickets, h.slots⟩

theorem keeps_modPort (h : Keeps tk sl s0 s) (p : Side) (f : Port → Port) (hf : ∀ x, PortWithin x → PortWithin (f x)) :
    Keeps tk sl s0 (modPort s p f) := by
  unfold modPort
  cases p
  · exact keeps_onPorts h _ rfl rfl (fun hb => ⟨hb.1, hb.2.1, hb.2.2.1, hf _ hb.2.2.2.1, hb.2.2.2.2⟩)
  · exact keeps_onPorts h _ rfl rfl (fun hb => ⟨hb.1, hb.2.1, hb.2.2.1, hb.2.2.2.1, hf _ hb.2.2.2.2⟩)

theorem count32_le (n : Nat) : count32 n ≤ 4294967295 := by
  unfold count32 Config.maxCount32; omega

theorem keeps_countDropped (h : Keeps tk sl s0 s) (p : Side) : Keeps tk sl s0 (countDropped s p) :=
  keeps_modPort h p _ (fun _ hx => ⟨hx.1, count32_le _, hx.2.2⟩)

theorem keeps_offerUrgent (h : Keeps tk sl s0 s) (c : Cell) : Keeps tk sl s0 (offerUrgent s c) := by
  unfold offerUrgent
  split
  · rename_i hr
    refine keeps_onPorts h _ rfl rfl (fun hb => ⟨?_, hb.2⟩)
    have := hr.1
    simp only [Config.urgentCapacity] at this
    simp only [List.length_append, List.length_singleton]
    omega
  · split
    · exact h
    · exact keeps_onPorts h _ rfl rfl id

/-- A TEST BLOCK report is offered with the block value the line's mark gives (R40). -/
theorem keeps_offerTestBlock (h : Keeps tk sl s0 s) (len : Nat) (b : Bool)
    (hb : BlocksMatch s → b = decide (markOf s len ≠ .free)) : Keeps tk sl s0 (offerTestBlock s len b) := by
  have h' : Keeps tk sl s0 (modLine s len (fun l => { l with blocked := b })) :=
    keeps_onTracker h _ (hookCountsAgree_line _ _ _ fun _ => rfl) fun hm =>
      blocks_modLine hm len _ ((hb hm).trans (hm len).symm)
  unfold offerTestBlock
  dsimp only
  split
  · exact keeps_onPorts h' _ rfl rfl (fun hb => ⟨by simpa using hb.1, hb.2⟩)
  · exact keeps_offerUrgent h' _

theorem markOf_writeMark (s : State) (len n : Nat) (m : Mark) :
    markOf (writeMark s len m) n = if n = len then m else markOf s n := tabGet_tabPut ..

/-- A mark is written with its block value (R40). -/
theorem keeps_writeMark (h : Keeps tk sl s0 s) (len : Nat) (m : Mark) : Keeps tk sl s0 (writeMark s len m) :=
  ⟨h.pending, h.clock, h.straps, h.asserted, h.calendar, h.levels, h.ports,
    fun hb => hookCountsAgree_line _ _ _ (fun _ => rfl) (h.hooks hb), h.queue, h.normal, h.reserved,
    fun hb n => by
      have h0 := h.blocks hb n
      rw [markOf_writeMark]
      show (tabGet lineZero (tabMod lineZero s.tracker.lines len (fun l => { l with blocked := m ≠ .free })) n).blocked =
        _
      rw [tabGet_tabMod]
      split
      · rfl
      · exact h0,
    h.tickets, h.slots⟩

theorem keeps_cutLine (h : Keeps tk sl s0 s) (len : Nat) : Keeps tk sl s0 (cutLine s len) :=
  keeps_writeMark (keeps_modLine h len (fun l => { l with cutOff := true }) (fun _ => rfl) fun _ => rfl) len .inSession

theorem keeps_strayOrderJoined (h : Keeps tk sl s0 s) (c : Cell) : Keeps tk sl s0 (strayOrderJoined s c) := by
  unfold strayOrderJoined
  dsimp only
  split
  · exact keeps_modLine h _ (fun l => { l with cutOff := true }) (fun _ => rfl) fun _ => rfl
  · exact h

theorem keeps_relayOrderJoined (h : Keeps tk sl s0 s) (c : Cell) : Keeps tk sl s0 (relayOrderJoined s c) := by
  unfold relayOrderJoined
  dsimp only
  split
  · exact keeps_strayOrderJoined h c
  · split
    · exact keeps_modSession (keeps_cutLine (keeps_onEngine h _ rfl) _) _ _ (fun _ => rfl) fun _ => rfl
    · exact keeps_onEngine (keeps_onEngine h _ rfl) _ rfl
    · exact keeps_onEngine h _ rfl

theorem keeps_auditOrderJoined (h : Keeps tk sl s0 s) (c : Cell) : Keeps tk sl s0 (auditOrderJoined s c) := by
  unfold auditOrderJoined
  split
  · exact h
  · exact keeps_modShelf h _ _ (fun _ => rfl) (fun _ => rfl)

theorem keeps_headOrderJoined (h : Keeps tk sl s0 s) (c : Cell) : Keeps tk sl s0 (headOrderJoined s c) := by
  unfold headOrderJoined
  repeat' split
  all_goals first | exact h | exact keeps_putWindow h _ _

/-- A cell that finds room joins the South queue. -/
theorem keeps_joinSouth (h : Keeps tk sl s0 s) (c : Cell) (hr : s.ports.southQueue.length < 32) :
    Keeps tk sl s0 (joinSouth s c) := by
  have h' : Keeps tk sl s0 (onPorts s (fun p => { p with southQueue := p.southQueue ++ [c] })) :=
    keeps_onPorts h _ rfl rfl (fun hb => ⟨hb.1, by
      simp only [List.length_append, List.length_singleton]; omega, hb.2.2⟩)
  unfold joinSouth
  dsimp only
  repeat' split
  all_goals first
    | exact keeps_relayOrderJoined h' _
    | exact keeps_auditOrderJoined h' _
    | exact keeps_headOrderJoined h' _
    | exact h'

theorem keeps_offerSouth (h : Keeps tk sl s0 s) (c : Cell) : Keeps tk sl s0 (offerSouth s c) := by
  unfold offerSouth
  split
  · rename_i hr
    exact keeps_joinSouth h c hr.1
  · split
    · exact h
    · exact keeps_onPorts h _ rfl rfl id

/-! ### Writing hook states -/

theorem keeps_recountShelf (h : Keeps tk sl s0 s) (n : Nat) : Keeps tk sl s0 (recountShelf s n) :=
  ⟨h.pending, h.clock, h.straps, h.asserted, h.calendar, h.levels, h.ports, fun ht => agree_recount (agreeBut_of_agree n (h.hooks ht)), h.queue,
    h.normal, h.reserved, h.blocks, h.tickets, h.slots⟩

theorem keeps_followRinging (h : Keeps tk sl s0 s) (n : Nat) : Keeps tk sl s0 (followRinging s n) := by
  unfold followRinging
  refine keeps_foldl _ (fun s x hx => ?_) _ h
  repeat' split
  all_goals first | exact hx | exact keeps_putWindow hx _ _

/-- A hook state written with its shelf recounted. -/
theorem keeps_writeRecount (h : Keeps tk sl s0 s) (len : Nat) (f : Line → Line)
    (hb : ∀ l, (f l).blocked = l.blocked) :
    Keeps tk sl s0 (recountShelf (modLine s len f) (lineShelf len)) :=
  ⟨h.pending, h.clock, h.straps, h.asserted, h.calendar, h.levels, h.ports, fun ht => agree_recount (agreeBut_line len f rfl (agreeBut_of_agree _ (h.hooks ht))), h.queue,
    h.normal, h.reserved, fun hm => blocks_modLine (h.blocks hm) len f (hb _), h.tickets, h.slots⟩

theorem keeps_writeHook (h : Keeps tk sl s0 s) (len : Nat) (k : Hook) : Keeps tk sl s0 (writeHook s len k) := by
  have h' := keeps_followRinging
    (keeps_writeRecount h len (fun l => { l with hook := k, writtenAt := s.tracker.ageClock }) fun _ => rfl)
    (lineShelf len)
  unfold writeHook
  dsimp only
  split
  · exact h'
  · exact keeps_examineLater h'

/-! ### The request queue (R68) -/

theorem keeps_putQueue (h : Keeps tk false s0 s) (q : List Entry)
    (hq : QueueBounded s.arbiter.queue → QueueBounded q) : Keeps tk false s0 (putQueue s q) :=
  ⟨h.pending, h.clock, h.straps, h.asserted, h.calendar, h.levels, h.ports, h.hooks, hq ∘ h.queue,
    h.normal, h.reserved, h.blocks, h.tickets, fun e => nomatch e⟩

theorem queueBounded_filter (q : List Entry) (p : Entry → Bool) (h : QueueBounded q) : QueueBounded (q.filter p) := by
  refine ⟨Nat.le_trans (List.length_filter_le _ _) h.1, ?_⟩
  exact Nat.le_trans (List.Sublist.countP_le List.filter_sublist) h.2

/-- Entries changed without a change of class keep the bounds. -/
theorem queueBounded_map (q : List Entry) (f : Entry → Entry) (hf : ∀ x ∈ q, isDemand (f x) = isDemand x)
    (h : QueueBounded q) : QueueBounded (q.map f) := by
  refine ⟨by simpa using h.1, ?_⟩
  unfold routineCount
  rw [List.countP_map]
  refine Nat.le_trans (Nat.le_of_eq (List.countP_congr fun x hx => ?_)) h.2
  simp [isRoutine, hf x hx]

theorem keeps_leaveQueue (h : Keeps tk false s0 s) (x : Entry) : Keeps tk false s0 (leaveQueue s x) := by
  have h' : Keeps tk false s0 (putQueue s (s.arbiter.queue.filter (fun y => ! sameRequest x y))) :=
    keeps_putQueue h _ (queueBounded_filter _ _)
  unfold leaveQueue
  dsimp only
  split
  · exact keeps_examineLater h'
  · exact h'

theorem keeps_replaceEntry (h : Keeps tk false s0 s) (x : Entry) : Keeps tk false s0 (replaceEntry s x) := by
  refine keeps_putQueue h _ (queueBounded_map _ _ fun y _ => ?_)
  split
  · rename_i hs
    simp only [sameRequest, Bool.decide_and, Bool.and_eq_true, decide_eq_true_eq] at hs
    exact hs.2.2
  · rfl

theorem insertEntry_length (q : List Entry) (x : Entry) : (insertEntry q x).length = q.length + 1 := by
  unfold insertEntry
  have : (q.filter (fun y => decide (placeRank y ≤ placeRank x))).length +
      (q.filter (fun y => decide (placeRank x < placeRank y))).length = q.length := by
    induction q with
    | nil => rfl
    | cons y rest ih =>
      simp only [List.filter_cons]
      by_cases hle : placeRank y ≤ placeRank x
      · simp [hle, Nat.not_lt.2 hle]; omega
      · simp [hle, Nat.lt_of_not_le hle]; omega
  simp only [List.length_append, List.length_singleton]
  omega

theorem insertEntry_routine (q : List Entry) (x : Entry) :
    routineCount (insertEntry q x) = routineCount q + (if isRoutine x then 1 else 0) := by
  unfold insertEntry routineCount
  have : (q.filter (fun y => decide (placeRank y ≤ placeRank x))).countP isRoutine +
      (q.filter (fun y => decide (placeRank x < placeRank y))).countP isRoutine = q.countP isRoutine := by
    induction q with
    | nil => rfl
    | cons y rest ih =>
      simp only [List.filter_cons]
      by_cases hle : placeRank y ≤ placeRank x
      · simp [hle, Nat.not_lt.2 hle, List.countP_cons]; omega
      · simp [hle, Nat.lt_of_not_le hle, List.countP_cons]; omega
  simp only [List.countP_append, List.countP_cons, List.countP_nil]
  split <;> omega

theorem keeps_joinQueue (h : Keeps tk false s0 s) (x : Entry)
    (hq : QueueBounded s0.arbiter.queue → s.arbiter.queue.length < 64 ∧
      (isRoutine x = true → routineCount s.arbiter.queue < 48)) : Keeps tk false s0 (joinQueue s x) := by
  refine keeps_examineLater ⟨h.pending, h.clock, h.straps, h.asserted, h.calendar, h.levels, h.ports, h.hooks,
    fun h0 => ?_, h.normal, h.reserved, h.blocks, h.tickets, fun e => nomatch e⟩
  have hb := h.queue h0
  have := hq h0
  show QueueBounded (insertEntry s.arbiter.queue x)
  refine ⟨by rw [insertEntry_length]; omega, ?_⟩
  rw [insertEntry_routine]
  split
  · rename_i hr; have := this.2 hr; omega
  · have := hb.2; omega

theorem sameRequest_self (x : Entry) : sameRequest x x = true := by simp [sameRequest]

/-- An entry that waits is shorter by at least one when it leaves. -/
theorem leaveQueue_shorter (s : State) {x : Entry} (hx : x ∈ s.arbiter.queue) :
    (leaveQueue s x).arbiter.queue.length < s.arbiter.queue.length := by
  have h : (leaveQueue s x).arbiter.queue = s.arbiter.queue.filter (fun y => ! sameRequest x y) := by
    unfold leaveQueue; dsimp only; split <;> rfl
  rw [h, List.length_filter_lt_length_iff_exists]
  exact ⟨x, hx, by simp [sameRequest_self]⟩

theorem countP_filter_lt {α : Type} (P q : α → Bool) {l : List α} {x : α} (hx : x ∈ l) (hp : P x = true)
    (hq : q x = false) : (l.filter q).countP P < l.countP P := by
  induction l with
  | nil => simp at hx
  | cons y rest ih =>
    have hle : (rest.filter q).countP P ≤ rest.countP P := List.Sublist.countP_le List.filter_sublist
    rcases List.mem_cons.1 hx with rfl | hx
    · simp only [List.filter_cons, hq, List.countP_cons, hp, if_true]
      simp only [Bool.false_eq_true, if_false]
      omega
    · have := ih hx
      simp only [List.filter_cons, List.countP_cons]
      split
      · simp only [List.countP_cons]; omega
      · omega

/-- A routine entry that waits makes one routine entry less when it leaves. -/
theorem leaveQueue_routine (s : State) {x : Entry} (hx : x ∈ s.arbiter.queue) (hr : isRoutine x = true) :
    routineCount (leaveQueue s x).arbiter.queue < routineCount s.arbiter.queue := by
  have h : (leaveQueue s x).arbiter.queue = s.arbiter.queue.filter (fun y => ! sameRequest x y) := by
    unfold leaveQueue; dsimp only; split <;> rfl
  rw [h]
  exact countP_filter_lt isRoutine _ hx hr (by simp [sameRequest_self])

theorem displaceRoutine_shorter (s : State) (h : routineCount s.arbiter.queue ≠ 0) :
    (displaceRoutine s).arbiter.queue.length < s.arbiter.queue.length := by
  unfold displaceRoutine
  split
  · rename_i x hx
    have hm : x ∈ s.arbiter.queue := (List.mem_filter.1 (List.mem_of_getLast? hx)).1
    have := leaveQueue_shorter s hm
    unfold reportRoutine
    split <;> exact this
  · rename_i hx
    simp only [List.getLast?_eq_none_iff, List.filter_eq_nil_iff] at hx
    exact absurd (List.countP_eq_zero.2 hx) h

theorem endWithoutSession_queue (s : State) (held : Option Nat) (line program : Nat) (rs : List Requester)
    (o : EndOutcome) : (endWithoutSession s held line program rs o).arbiter.queue = s.arbiter.queue := by
  unfold endWithoutSession fillRecord fillSlot
  repeat' split
  all_goals rfl

theorem reportRoutine_queue (s : State) (c : RequestClass) (line : Nat) (r : SweepReport) :
    (reportRoutine s c line r).arbiter.queue = s.arbiter.queue := by
  unfold reportRoutine; split <;> rfl

end Sys2Proof.Machine
end

