-- ==== Sys2Proof/Laws/KeepsPlant.lean ====
section
/-! SUPPORT. What the notices, orders, tickets, verdicts, results, the tracker, the measurement
unit and the request queue keep (`Keeps`). -/

namespace Sys2Proof.Machine

set_option Elab.async false

variable {tk sl : Bool} {s0 s : State}

/-! ### Machine/Notices.lean -/

theorem keeps_offerToUnit (hk : Keeps tk sl s0 s) (u : Nat) (n : Notice) : Keeps tk sl s0 (offerToUnit s u n) := by
  unfold offerToUnit
  dsimp only
  split
  · rename_i h
    exact keeps_joinNormal hk _ h.2.2
  · repeat' first
      | exact keeps_putUnit hk _ _ | split

theorem keeps_notify (hk : Keeps tk sl s0 s) (n : Notice) : Keeps tk sl s0 (notify s n) := by
  unfold notify
  try dsimp only
  repeat' first
    | with_reducible exact hk | exact fun _ => rfl | exact rfl | with_reducible apply keeps_offerToUnit
    | (with_reducible refine keeps_foldl _ (fun s x hk => ?_) _ ?_) | split

theorem keeps_notifyAll (hk : Keeps tk sl s0 s) (ns : List Notice) : Keeps tk sl s0 (notifyAll s ns) := by
  unfold notifyAll
  try dsimp only
  repeat' first
    | with_reducible exact hk | exact fun _ => rfl | exact rfl | with_reducible apply keeps_notify
    | (with_reducible refine keeps_foldl _ (fun s x hk => ?_) _ ?_)

theorem keeps_deliverNotice (hk : Keeps tk sl s0 s) (u : Nat) : Keeps tk sl s0 (deliverNotice s u) := by
  unfold deliverNotice
  dsimp only
  split
  · exact hk
  · rename_i h
    repeat' split
    · exact keeps_putUnit (keeps_joinNormal hk _ (by simp only [List.length_singleton]; omega)) _ _
    · exact hk
    · exact keeps_putUnit (keeps_joinNormal hk _ (by simp only [List.length_singleton]; omega)) _ _

/-! ### Machine/Orders.lean -/

theorem keeps_tagIssued (hk : Keeps tk sl s0 s) (t : Nat) : Keeps tk sl s0 (tagIssued s t) := by
  unfold tagIssued
  try dsimp only
  repeat' first
    | with_reducible exact hk | exact fun _ => rfl | exact rfl | with_reducible apply keeps_onEngine

theorem keeps_placeOrder (hk : Keeps tk sl s0 s) (o : Order) : Keeps tk sl s0 (placeOrder s o) := by
  unfold placeOrder
  try dsimp only
  repeat' first
    | with_reducible exact hk | exact fun _ => rfl | exact rfl | with_reducible apply keeps_tagIssued
    | with_reducible apply keeps_onEngine | with_reducible apply keeps_offerSouth

theorem keeps_waitOrder (hk : Keeps tk sl s0 s) (o : Order) : Keeps tk sl s0 (waitOrder s o) := by
  unfold waitOrder
  try dsimp only
  repeat' first
    | with_reducible exact hk | exact fun _ => rfl | exact rfl | with_reducible apply keeps_onEngine

theorem keeps_requestOrder (hk : Keeps tk sl s0 s) (o : Order) : Keeps tk sl s0 (requestOrder s o) := by
  unfold requestOrder
  try dsimp only
  repeat' first
    | with_reducible exact hk | exact fun _ => rfl | exact rfl | with_reducible apply keeps_placeOrder
    | with_reducible apply keeps_waitOrder | split

theorem keeps_removeOrder (hk : Keeps tk sl s0 s) (tag : Nat) : Keeps tk sl s0 (removeOrder s tag) := by
  unfold removeOrder
  try dsimp only
  repeat' first
    | with_reducible exact hk | exact fun _ => rfl | exact rfl | with_reducible apply keeps_onEngine

theorem keeps_giveUpOrders (hk : Keeps tk sl s0 s) (w : Owner) : Keeps tk sl s0 (giveUpOrders s w) := by
  unfold giveUpOrders
  try dsimp only
  repeat' first
    | with_reducible exact hk | exact fun _ => rfl | exact rfl | with_reducible apply keeps_onEngine

theorem keeps_lapseReservations (hk : Keeps tk sl s0 s) (b : Nat) : Keeps tk sl s0 (lapseReservations s b) := by
  unfold lapseReservations
  dsimp only
  split
  · refine keeps_examineLater (hk.withSlots (keeps_putQueue hk.noSlots _ (queueBounded_map _ _ fun x _ => ?_))
      fun l hl => slots_mapQueue hl _ fun x _ => ?_)
    · split <;> rfl
    · split <;> exact ⟨rfl, rfl, rfl, rfl⟩
  · exact hk

theorem keeps_setBusState (hk : Keeps tk sl s0 s) (b : Nat) (st : BusState) : Keeps tk sl s0 (setBusState s b st) := by
  unfold setBusState
  try dsimp only
  repeat' first
    | with_reducible exact hk | exact fun _ => rfl | exact rfl | with_reducible apply keeps_modBus
    | with_reducible apply keeps_notify | with_reducible apply keeps_examineLater
    | with_reducible apply keeps_lapseReservations | split

theorem keeps_busToFree (hk : Keeps tk sl s0 s) (b : Nat) : Keeps tk sl s0 (busToFree s b) := by
  unfold busToFree
  try dsimp only
  repeat' first
    | with_reducible exact hk | exact fun _ => rfl | exact rfl | with_reducible apply keeps_setBusState
    | with_reducible apply keeps_modBus | split

theorem keeps_busReleased (hk : Keeps tk sl s0 s) (b : Nat) : Keeps tk sl s0 (busReleased s b) := by
  unfold busReleased
  try dsimp only
  repeat' first
    | with_reducible exact hk | exact fun _ => rfl | exact rfl | with_reducible apply keeps_modBus
    | with_reducible apply keeps_busToFree | split

theorem keeps_freeRiser (hk : Keeps tk sl s0 s) (n : Nat) : Keeps tk sl s0 (freeRiser s n) := by
  unfold freeRiser
  try dsimp only
  repeat' first
    | with_reducible exact hk | exact fun _ => rfl | exact rfl | with_reducible apply keeps_examineLater
    | with_reducible apply keeps_putRiser | split

theorem keeps_stickBus (hk : Keeps tk sl s0 s) (b shelf : Nat) : Keeps tk sl s0 (stickBus s b shelf) := by
  unfold stickBus
  try dsimp only
  repeat' first
    | with_reducible exact hk | exact fun _ => rfl | exact rfl | with_reducible apply keeps_modBus
    | with_reducible apply keeps_setBusState | with_reducible apply keeps_putRiser

theorem keeps_startRetry (hk : Keeps tk sl s0 s) (b : Nat) (p : PendingRelease) : Keeps tk sl s0 (startRetry s b p) := by
  unfold startRetry
  try dsimp only
  repeat' first
    | with_reducible exact hk | exact fun _ => rfl | exact rfl | with_reducible apply keeps_modBus

theorem keeps_startCleanUp (hk : Keeps tk sl s0 s) (b : Nat) (o : Order) : Keeps tk sl s0 (startCleanUp s b o) := by
  unfold startCleanUp
  try dsimp only
  repeat' first
    | with_reducible exact hk | exact fun _ => rfl | exact rfl | with_reducible apply keeps_modBus
    | with_reducible apply keeps_requestOrder

/-! ### Machine/Tickets.lean -/

theorem keeps_modTicket (hk : Keeps false sl s0 s) (id : Nat) (f : Ticket → Ticket) : Keeps false sl s0 (modTicket s id f) := by
  unfold modTicket
  try dsimp only
  repeat' first
    | with_reducible exact hk | exact fun _ => rfl | exact rfl | with_reducible apply keeps_onTickets

theorem keeps_freeTicket (hk : Keeps false sl s0 s) (id : Nat) : Keeps false sl s0 (freeTicket s id) := by
  unfold freeTicket
  try dsimp only
  repeat' first
    | with_reducible exact hk | exact fun _ => rfl | exact rfl | with_reducible apply keeps_onTickets

theorem keeps_evictTicket (hk : Keeps false sl s0 s) (ev : Option Ticket) : Keeps false sl s0 (evictTicket s ev) := by
  unfold evictTicket
  split
  · exact keeps_freeTicket hk _
  · exact hk

theorem keeps_addTicket (hk : Keeps false sl s0 s) (t : Ticket) : Keeps false sl s0 (addTicket s t) := by
  unfold addTicket
  try dsimp only
  repeat' first
    | with_reducible exact hk | exact fun _ => rfl | exact rfl | with_reducible apply keeps_onTickets

theorem keeps_cableNotice (hk : Keeps tk sl s0 s) (g : Nat) (noSlot : Bool) : Keeps tk sl s0 (cableNotice s g noSlot) := by
  unfold cableNotice
  try dsimp only
  repeat' first
    | with_reducible exact hk | exact fun _ => rfl | exact rfl | with_reducible apply keeps_notify

theorem keeps_ticketNotice (hk : Keeps tk sl s0 s) (t : Ticket) (st : NoticeState) : Keeps tk sl s0 (ticketNotice s t st) := by
  unfold ticketNotice
  try dsimp only
  repeat' first
    | with_reducible exact hk | exact fun _ => rfl | exact rfl | with_reducible apply keeps_notify

theorem keeps_attachMembers (hk : Keeps false sl s0 s) (g : Nat) : Keeps false sl s0 (attachMembers s g) := by
  unfold attachMembers
  try dsimp only
  repeat' first
    | with_reducible exact hk | exact fun _ => rfl | exact rfl | with_reducible apply keeps_onTickets

theorem keeps_detachMembers (hk : Keeps false sl s0 s) (g : Nat) : Keeps false sl s0 (detachMembers s g) := by
  unfold detachMembers
  try dsimp only
  repeat' first
    | with_reducible exact hk | exact fun _ => rfl | exact rfl | with_reducible apply keeps_onTickets

theorem keeps_exitStorm (hk : Keeps false sl s0 s) (g : Nat) : Keeps false sl s0 (exitStorm s g) := by
  unfold exitStorm
  try dsimp only
  repeat' first
    | with_reducible exact hk | exact fun _ => rfl | exact rfl | with_reducible apply keeps_modTicket
    | with_reducible apply keeps_putGroup | with_reducible apply keeps_detachMembers
    | with_reducible apply keeps_ticketNotice | with_reducible apply keeps_cableNotice | split

theorem keeps_beginStorm (hk : Keeps false sl s0 s) (g id : Nat) : Keeps false sl s0 (beginStorm s g id) := by
  unfold beginStorm
  try dsimp only
  repeat' first
    | with_reducible exact hk | exact fun _ => rfl | exact rfl | with_reducible apply keeps_attachMembers
    | with_reducible apply keeps_putGroup

theorem keeps_changeNoticed (hk : Keeps false sl s0 s) (t : Ticket) (st : NoticeState)
    (d : Membership) : Keeps false sl s0 (changeNoticed s t st d) := by
  unfold changeNoticed
  try dsimp only
  repeat' first
    | with_reducible exact hk
    | with_reducible apply keeps_ticketNotice
    | with_reducible apply keeps_cableNotice
    | with_reducible apply keeps_putGroup
    | with_reducible apply keeps_modTicket
    | with_reducible apply keeps_exitStorm
    | split

theorem keeps_evictedNoticed (hk : Keeps false sl s0 s) (before : State) (ev : Option Ticket) : Keeps false sl s0
    (evictedNoticed before s ev) := by
  unfold evictedNoticed
  repeat' first
    | with_reducible exact hk
    | with_reducible apply keeps_changeNoticed
    | with_reducible apply keeps_cableNotice
    | with_reducible apply keeps_ticketNotice
    | split

theorem keeps_evictedTested (hk : Keeps false sl s0 s) (test : State → Ticket → State) (ev : Option Ticket)
    (hh : ∀ s t, Keeps false sl s0 s → Keeps false sl s0 (test s t)) : Keeps false sl s0 (evictedTested test s ev) := by
  unfold evictedTested
  repeat' split
  · exact hk
  · exact hh _ _ hk
  · exact hk

theorem keeps_raiseCableTicket (hk : Keeps false sl s0 s) (test : State → Ticket → State) (failed : State → State)
    (g : Nat) (base : TicketBase) (barSlot : Option Nat) (hh : ∀ s t, Keeps false sl s0 s → Keeps false sl s0 (test s t))
    (hf : ∀ s, Keeps false sl s0 s → Keeps false sl s0 (failed s)) : Keeps false sl s0 (raiseCableTicket test failed s g base barSlot)
    := by
  unfold raiseCableTicket
  dsimp only
  split
  · exact hf _ hk
  · refine keeps_evictedTested (keeps_cableNotice (keeps_ticketNotice (keeps_evictedNoticed
      (keeps_beginStorm (keeps_addTicket ?_ _) _ _) _ _) _ _) _ _) _ _ hh
    exact keeps_evictTicket hk _

theorem keeps_enterStorm (hk : Keeps false sl s0 s) (test : State → Ticket → State) (g : Nat) (base : TicketBase)
    (hh : ∀ s t, Keeps false sl s0 s → Keeps false sl s0 (test s t)) : Keeps false sl s0 (enterStorm test s g base) := by
  unfold enterStorm
  split
  · exact keeps_cableNotice (keeps_ticketNotice (keeps_beginStorm (keeps_modTicket hk _ _) _ _) _ _) _ _
  · exact keeps_raiseCableTicket hk _ _ _ _ _ hh (fun s h => keeps_cableNotice h _ _)

theorem keeps_entryAfter (fuel : Nat) (base : TicketBase) (hk : Keeps false sl s0 s) (t : Ticket) :
    Keeps false sl s0 (entryAfter fuel base s t) := by
  induction fuel generalizing s t with
  | zero => exact hk
  | succ n ih =>
    unfold entryAfter
    repeat' split
    · exact hk
    · exact keeps_enterStorm hk _ _ _ fun s t h => ih h t
    · exact hk

theorem keeps_entryTested (hk : Keeps false sl s0 s) (base : TicketBase) (t : Ticket) : Keeps false sl s0
    (entryTested base s t) := keeps_entryAfter _ base hk t

theorem keeps_handChange (hk : Keeps false sl s0 s) (t : Ticket) (st : NoticeState) (d : Membership) (base : TicketBase)
    : Keeps false sl s0 (handChange s t st d base) := by
  unfold handChange
  dsimp only
  split
  · exact keeps_changeNoticed hk _ _ _
  · exact keeps_entryTested (keeps_changeNoticed hk _ _ _) _ _

theorem keeps_createTicket (hk : Keeps false sl s0 s) (u : Subject) (c : FaultClass) (o : Origin) (value : Option Int)
    (base : TicketBase) : Keeps false sl s0 (createTicket s u c o value base).1 := by
  unfold createTicket
  dsimp only
  split
  · exact hk
  · dsimp only
    exact keeps_handChange (keeps_evictedTested (keeps_evictedNoticed (keeps_addTicket (keeps_evictTicket hk _) _) _ _)
      (entryTested _) _ (fun _ _ h => keeps_entryTested h _ _)) _ _ _ _

theorem keeps_failTicket (hk : Keeps false sl s0 s) (u : Subject) (c : FaultClass) (o : Origin) (value : Option Int)
    (base : TicketBase) : Keeps false sl s0 (failTicket s u c o value base).1 := by
  unfold failTicket
  try dsimp only
  repeat' first
    | with_reducible exact hk | exact fun _ => rfl | exact rfl | with_reducible apply keeps_createTicket
    | with_reducible apply keeps_handChange | with_reducible apply keeps_modTicket | split

theorem keeps_passTicket (hk : Keeps false sl s0 s) (u : Subject) (c : FaultClass) (base : TicketBase) : Keeps false sl s0
    (passTicket s u c base).1 := by
  unfold passTicket
  try dsimp only
  repeat' first
    | with_reducible exact hk | exact fun _ => rfl | exact rfl | with_reducible apply keeps_handChange
    | with_reducible apply keeps_freeTicket | with_reducible apply keeps_modTicket | split

theorem keeps_equipmentFail (hk : Keeps tk sl s0 s) (u : Subject) (c : FaultClass) (value : Option Int)
    (hu : (isCableSubject u || isLineSubject u) = false) : Keeps tk sl s0 (equipmentFail s u c value) :=
  hk.withTickets (keeps_failTicket hk.noTickets _ _ _ _ _) fun ht =>
    ticketsAgree_failTicket ht u c _ value none (Bool.or_eq_false_iff.1 hu).1 (.inr (Bool.or_eq_false_iff.1 hu).2)

theorem keeps_equipmentPass (hk : Keeps tk sl s0 s) (u : Subject) (c : FaultClass)
    (hu : isCableSubject u = false) : Keeps tk sl s0 (equipmentPass s u c) :=
  hk.withTickets (keeps_passTicket hk.noTickets _ _ _) fun ht => ticketsAgree_passTicket ht u c none hu

theorem keeps_attachLine (hk : Keeps false sl s0 s) (len : Nat) (g : Option Nat) : Keeps false sl s0 (attachLine s len g) := by
  unfold attachLine
  try dsimp only
  repeat' first
    | with_reducible exact hk | exact fun _ => rfl | exact rfl | with_reducible apply keeps_onTickets

theorem keeps_moveOut (hk : Keeps false sl s0 s) (g k len : Nat) : Keeps false sl s0 (moveOut s g k len) := by
  unfold moveOut
  try dsimp only
  repeat' first
    | with_reducible exact hk | exact fun _ => rfl | exact rfl | with_reducible apply keeps_putGroup
    | with_reducible apply keeps_attachLine | with_reducible apply keeps_exitStorm
    | with_reducible apply keeps_cableNotice | split

theorem keeps_moveIn (hk : Keeps false sl s0 s) (g k len : Nat) : Keeps false sl s0 (moveIn s g k len) := by
  unfold moveIn
  dsimp only
  have h := keeps_putGroup hk g { groupAt s g with count := (groupAt s g).count + k }
  repeat' split
  · exact keeps_cableNotice (keeps_attachLine h _ _) _ _
  · exact keeps_enterStorm h _ _ _ (fun _ _ hs => keeps_entryTested hs none _)
  · exact h

theorem keeps_groupMoved (hk : Keeps false sl s0 s) (len : Nat) (old new : Option Nat) : Keeps false sl s0
    (groupMoved s len old new) := by
  unfold groupMoved
  try dsimp only
  repeat' first
    | with_reducible exact hk | exact fun _ => rfl | exact rfl | with_reducible apply keeps_moveOut
    | with_reducible apply keeps_moveIn | split

theorem keeps_thresholdChanged (h : Keeps tk sl s0 s) (g : Nat) : Keeps tk sl s0 (thresholdChanged s g) := by
  have hk := h.noTickets
  refine h.withTickets ?_ fun ht => ticketsAgree_thresholdChanged ht g
  unfold thresholdChanged
  repeat' split
  · exact keeps_exitStorm hk _
  · exact keeps_cableNotice hk _ _
  · exact keeps_enterStorm hk _ _ _ (fun _ _ hs => keeps_entryTested hs none _)
  · exact hk

theorem keeps_closeTicket (hk : Keeps false sl s0 s) (t : Ticket) : Keeps false sl s0 (closeTicket s t) := by
  unfold closeTicket
  try dsimp only
  repeat' first
    | with_reducible exact hk | exact fun _ => rfl | exact rfl | with_reducible apply keeps_handChange
    | with_reducible apply keeps_freeTicket

theorem keeps_replaceCableTicket (hk : Keeps false sl s0 s) (t : Ticket) (g : Nat) : Keeps false sl s0 (replaceCableTicket s t g)
    := by
  unfold replaceCableTicket
  refine keeps_raiseCableTicket (keeps_ticketNotice (keeps_freeTicket hk _) _ _) _ _ _ _ _
    (fun _ _ hs => keeps_entryTested hs none _) (fun s hs => ?_)
  exact keeps_cableNotice (keeps_detachMembers (keeps_putGroup hs _ _) _) _ _

/-! ### Machine/Classifier.lean -/

theorem keeps_applyHold (hk : Keeps tk sl s0 s) (len : Nat) (x0 : Verdict) : Keeps tk sl s0 (applyHold s len x0) := by
  unfold applyHold
  try dsimp only
  repeat' first
    | with_reducible exact hk | exact fun _ => rfl | exact rfl | with_reducible apply keeps_onArbiter
    | split

/-- The verdicts of a record are applied (R150). -/
theorem ticketsAgree_classify (h : TicketsAgree s) (r : ResultRecord) (settling : SettlingVerdict) :
    TicketsAgree (classify s r settling).1 := by
  have hv : ∀ (found : List Ticket) (a : Applied) (o : Origin) (c : FaultClass) (v : Verdict), TicketsAgree a.state →
      TicketsAgree (applyVerdict found r.line o a c v).state := by
    intro found a o c v ha
    have hf := fun value => ticketsAgree_failTicket ha (.line r.line) c o value (some found) rfl (.inl nofun)
    have hp := ticketsAgree_passTicket ha (.line r.line) c (some found) rfl
    unfold applyVerdict
    split
    · exact ha
    · rename_i value
      have hf := hf value
      split <;> rename_i heq <;> rw [heq] at hf <;> exact hf
    · split <;> rename_i heq <;> rw [heq] at hp <;> exact hp
  have hl : ∀ (found : List Ticket) (l : List FaultClass) (o : Origin) (f : FaultClass → Verdict) (a : Applied),
      TicketsAgree a.state →
        TicketsAgree (l.foldl (fun a c => applyVerdict found r.line o a c (f c)) a).state := by
    intro found l o f
    induction l with
    | nil => exact fun a ha => ha
    | cons c rest ih => exact fun a ha => ih _ (hv _ _ _ _ _ ha)
  have h1 : ∀ (x : State) (v : Verdict), TicketsAgree x → TicketsAgree (applyHold x r.line v) := by
    intro x v hx
    unfold applyHold
    split
    · exact ticketsAgree_congr hx rfl rfl
    · exact ticketsAgree_congr hx rfl rfl
    · exact hx
  exact h1 _ _ (hl _ _ _ _ _ h)

theorem keeps_classify (h : Keeps tk sl s0 s) (r : ResultRecord) (settling : SettlingVerdict) : Keeps tk sl s0
    (classify s r settling).1 := by
  have hk := h.noTickets
  refine h.withTickets ?_ fun ht => ticketsAgree_classify ht r settling
  have hv : ∀ (found : List Ticket) (a : Applied) (o : Origin) (c : FaultClass) (v : Verdict), Keeps false sl s0 a.state →
      Keeps false sl s0 (applyVerdict found r.line o a c v).state := by
    intro found a o c v ha
    have hf := fun value => keeps_failTicket ha (.line r.line) c o value (some found)
    have hp := keeps_passTicket ha (.line r.line) c (some found)
    unfold applyVerdict
    split
    · exact ha
    · rename_i value
      have hf := hf value
      split <;> rename_i heq <;> rw [heq] at hf <;> exact hf
    · split <;> rename_i heq <;> rw [heq] at hp <;> exact hp
  have hl : ∀ (found : List Ticket) (l : List FaultClass) (o : Origin) (f : FaultClass → Verdict) (a : Applied), Keeps false sl s0 a.state →
      Keeps false sl s0 (l.foldl (fun a c => applyVerdict found r.line o a c (f c)) a).state := by
    intro found l o f
    induction l with
    | nil => exact fun a ha => ha
    | cons c rest ih => exact fun a ha => ih _ (hv _ _ _ _ _ ha)
  exact keeps_applyHold (hl _ _ _ _ _ hk) _ _

/-! ### Machine/Results.lean -/

theorem keeps_releaseSlot (hk : Keeps tk false s0 s) (n : Nat) : Keeps tk false s0 (releaseSlot s n) := by
  unfold releaseSlot
  try dsimp only
  repeat' first
    | with_reducible exact hk | exact fun _ => rfl | exact rfl | with_reducible apply keeps_examineLater
    | with_reducible apply keeps_putSlot

theorem keeps_fillSlot (hk : Keeps tk false s0 s) (n : Nat) (r : ResultRecord) (rs : List Recipient) : Keeps tk false s0
    (fillSlot s n r rs) := by
  unfold fillSlot
  try dsimp only
  repeat' first
    | with_reducible exact hk | exact fun _ => rfl | exact rfl | with_reducible apply keeps_releaseSlot
    | with_reducible apply keeps_store | with_reducible apply keeps_putSlot | split

theorem keeps_fillRecord (hk : Keeps tk false s0 s) (held : Option Nat) (r : ResultRecord) (rs : List Recipient) : Keeps tk false s0 (fillRecord s held r rs) := by
  unfold fillRecord
  try dsimp only
  repeat' first
    | with_reducible exact hk | exact fun _ => rfl | exact rfl | with_reducible apply keeps_fillSlot
    | split

theorem keeps_endWithoutSession (hk : Keeps tk false s0 s) (held : Option Nat) (line program : Nat) (rs : List Requester)
    (o : EndOutcome) : Keeps tk false s0 (endWithoutSession s held line program rs o) := by
  unfold endWithoutSession
  try dsimp only
  repeat' first
    | with_reducible exact hk | exact fun _ => rfl | exact rfl | with_reducible apply keeps_fillRecord

theorem keeps_deliverResult (h : Keeps tk sl s0 s) : Keeps tk sl s0 (deliverResult s) := by
  have hk := h.noSlots
  refine h.withSlots ?_ fun l hl => slots_deliverResult hl
  unfold deliverResult
  split
  · exact hk
  · rename_i hn
    have hj : ∀ o : Option Cell, Keeps tk false s0 (joinNormal s o.toList) := fun o =>
      keeps_joinNormal hk _ (by cases o <;> simp only [Option.toList, List.length_nil, List.length_singleton] <;> omega)
    dsimp only
    repeat' first
      | exact hk | exact hj _
      | with_reducible apply keeps_putSlot | with_reducible apply keeps_releaseSlot
      | with_reducible apply keeps_store | split

/-! ### Machine/Tracker.lean -/

theorem keeps_applyReport (hk : Keeps tk sl s0 s) (len : Nat) (r : Report) : Keeps tk sl s0 (applyReport s len r) := by
  unfold applyReport
  try dsimp only
  repeat' first
    | with_reducible exact hk | exact fun _ => rfl | exact rfl | with_reducible apply keeps_writeHook
    | with_reducible apply keeps_modLine | split

theorem keeps_forwardReport (hk : Keeps tk sl s0 s) (len : Nat) (r : Report) : Keeps tk sl s0 (forwardReport s len r) := by
  unfold forwardReport
  try dsimp only
  repeat' first
    | with_reducible exact hk | exact fun _ => rfl | exact rfl | with_reducible apply keeps_modLine
    | split

theorem keeps_offerUnblocked (hk : Keeps tk sl s0 s) (len : Nat) (synthesise : Bool)
    (hm : BlocksMatch s → markOf s len = .free) : Keeps tk sl s0 (offerUnblocked s len synthesise) := by
  have h1 := keeps_offerTestBlock hk len false fun hb => by simp [hm hb]
  unfold offerUnblocked
  dsimp only
  repeat' split
  all_goals first | exact h1 | exact keeps_offerUrgent h1 _

theorem markOf_offerUrgent (s : State) (c : Cell) (len : Nat) : markOf (offerUrgent s c) len = markOf s len := by
  unfold offerUrgent
  repeat' split
  all_goals rfl

theorem markOf_offerTestBlock (s : State) (n : Nat) (b : Bool) (len : Nat) :
    markOf (offerTestBlock s n b) len = markOf s len := by
  unfold offerTestBlock
  dsimp only
  split
  · rfl
  · exact markOf_offerUrgent _ _ _

theorem keeps_setMark (hk : Keeps tk sl s0 s) (len : Nat) (m : Mark) (synthesise : Bool) :
    Keeps tk sl s0 (setMark s len m synthesise) := by
  have h1 := keeps_writeMark hk len m
  have hm : markOf (writeMark s len m) len = m := by rw [markOf_writeMark, if_pos rfl]
  have h2 : ∀ b, b = decide (m ≠ .free) → Keeps tk sl s0 (offerTestBlock (writeMark s len m) len b) := fun b hb =>
    keeps_offerTestBlock h1 len b fun _ => by rw [hb, hm]
  unfold setMark
  dsimp only
  repeat' split
  · rename_i h; exact h2 _ (by simp [h.2])
  · rename_i h
    exact keeps_examineLater (keeps_offerUnblocked h1 len _ fun _ => by rw [hm]; exact h.2)
  · exact h1

theorem keeps_loseSupervision (hk : Keeps tk sl s0 s) (n : Nat) : Keeps tk sl s0 (loseSupervision s n) :=
  keeps_foldl _ (fun s id hk => keeps_modSession hk _ _ (fun x => by split <;> rfl) fun x => by split <;> rfl) _ hk

theorem keeps_distrustShelf (hk : Keeps tk sl s0 s) (n : Nat) (f : Freshness) : Keeps tk sl s0 (distrustShelf s n f) := by
  unfold distrustShelf
  try dsimp only
  repeat' first
    | with_reducible exact hk | exact fun _ => rfl | exact rfl | with_reducible apply keeps_modShelf
    | with_reducible apply keeps_loseSupervision | split

theorem keeps_shelfOpened (hk : Keeps tk sl s0 s) (n : Nat) (before : Bool) : Keeps tk sl s0 (shelfOpened s n before) := by
  unfold shelfOpened
  try dsimp only
  repeat' first
    | with_reducible exact hk | exact fun _ => rfl | exact rfl | with_reducible apply keeps_examineLater
    | split

theorem keeps_setReleased (hk : Keeps tk sl s0 s) (n : Nat) (v : Bool) : Keeps tk sl s0 (setReleased s n v) := by
  unfold setReleased
  try dsimp only
  repeat' first
    | with_reducible exact hk | exact fun _ => rfl | exact rfl | with_reducible apply keeps_shelfOpened
    | with_reducible apply keeps_modShelf

theorem keeps_sendAudit (hk : Keeps tk sl s0 s) (n : Nat) : Keeps tk sl s0 (sendAudit s n) := by
  unfold sendAudit
  try dsimp only
  repeat' first
    | with_reducible exact hk | exact fun _ => rfl | exact rfl | with_reducible apply keeps_tagIssued
    | with_reducible apply keeps_modShelf | with_reducible apply keeps_offerSouth

theorem keeps_startAudit (hk : Keeps tk sl s0 s) (n : Nat) : Keeps tk sl s0 (startAudit s n) := by
  unfold startAudit
  try dsimp only
  repeat' first
    | with_reducible exact hk | exact fun _ => rfl | exact rfl | with_reducible apply keeps_sendAudit
    | with_reducible apply keeps_modShelf

theorem keeps_completeAudit (hk : Keeps tk sl s0 s) (n : Nat) (cards : Tab (List Hook)) : Keeps tk sl s0
    (completeAudit s n cards) := by
  have hl : ∀ (l : List Nat) (s : State), (∀ k ∈ l, k < 256) →
      ∃ L, l.foldl (fun s k => modLine s (n * 256 + k) (fun x =>
        { x with hook := auditedHook cards k, writtenAt := s.tracker.ageClock })) s
          = { s with tracker := { s.tracker with lines := L } } ∧
        (AgreeBut s.tracker n → AgreeBut { s.tracker with lines := L } n) ∧
        (BlocksMatch s → BlocksMatch { s with tracker := { s.tracker with lines := L } }) := by
    intro l
    induction l with
    | nil => exact fun s _ => ⟨s.tracker.lines, rfl, id, id⟩
    | cons k rest ih =>
      intro s hk
      obtain ⟨L, hL, ha, hb⟩ := ih (modLine s (n * 256 + k) (fun x =>
        { x with hook := auditedHook cards k, writtenAt := s.tracker.ageClock })) (fun j hj => hk j (by simp [hj]))
      refine ⟨L, hL, fun h => ha (agreeBut_line _ _ ?_ h), fun h => hb (blocks_modLine h _ _ rfl)⟩
      have := hk k (by simp)
      unfold lineShelf
      omega
  obtain ⟨L, hL, ha, hb⟩ := hl (List.range 256) s (fun k h => List.mem_range.1 h)
  have hr : Keeps tk sl s0 (recountShelf { s with tracker := { s.tracker with lines := L } } n) :=
    ⟨hk.pending, hk.clock, hk.straps, hk.asserted, hk.calendar, hk.levels, hk.ports,
      fun h => agree_recount (ha (agreeBut_of_agree n (hk.hooks h))), hk.queue, hk.normal, hk.reserved,
      fun h => hb (hk.blocks h), hk.tickets, hk.slots⟩
  unfold completeAudit
  dsimp only
  rw [hL]
  refine keeps_shelfOpened ?_ _ _
  refine keeps_foldl _ (fun s x h => keeps_examineLater h) _ ?_
  exact keeps_modShelf (keeps_followRinging hr n) _ _ (fun _ => rfl) (fun _ => rfl)

theorem keeps_takeAuditReport (hk : Keeps tk sl s0 s) (c : Cell) : Keeps tk sl s0 (takeAuditReport s c) := by
  unfold takeAuditReport
  try dsimp only
  repeat' first
    | with_reducible exact hk | exact fun _ => rfl | exact rfl | with_reducible apply keeps_completeAudit
    | with_reducible apply keeps_modShelf | split

theorem keeps_compareSummary (hk : Keeps tk sl s0 s) (n count : Nat) : Keeps tk sl s0 (compareSummary s n count) := by
  unfold compareSummary
  try dsimp only
  repeat' first
    | with_reducible exact hk | exact fun _ => rfl | exact rfl | with_reducible apply keeps_modShelf
    | with_reducible apply keeps_startAudit | with_reducible apply keeps_distrustShelf | split

theorem keeps_freshReleaseAll (hk : Keeps tk sl s0 s) (n : Nat) : Keeps tk sl s0 (freshReleaseAll s n) := by
  unfold freshReleaseAll
  try dsimp only
  repeat' first
    | with_reducible exact hk | exact fun _ => rfl | exact rfl | with_reducible apply keeps_requestOrder
    | split

theorem keeps_readSummary (hk : Keeps tk sl s0 s) (n count : Nat) : Keeps tk sl s0 (readSummary s n count) := by
  unfold readSummary
  try dsimp only
  repeat' first
    | with_reducible exact hk | exact fun _ => rfl | exact rfl | with_reducible apply keeps_modShelf
    | with_reducible apply keeps_compareSummary | with_reducible apply keeps_startAudit
    | with_reducible apply keeps_freshReleaseAll | split

theorem keeps_heartbeatExpired (hk : Keeps tk sl s0 s) (n : Nat) : Keeps tk sl s0 (heartbeatExpired s n) := by
  unfold heartbeatExpired
  try dsimp only
  repeat' first
    | with_reducible exact hk | exact fun _ => rfl | exact rfl | with_reducible apply keeps_modShelf
    | with_reducible apply keeps_distrustShelf | split

theorem keeps_auditExpired (hk : Keeps tk sl s0 s) (n : Nat) : Keeps tk sl s0 (auditExpired s n) := by
  unfold auditExpired
  try dsimp only
  repeat' first
    | with_reducible exact hk | exact fun _ => rfl | exact rfl | with_reducible apply keeps_modShelf
    | with_reducible apply keeps_sendAudit | with_reducible apply keeps_distrustShelf | split

/-! ### Machine/Measure.lean -/

theorem keeps_countLost (hk : Keeps tk sl s0 s) (h lost : Nat) : Keeps tk sl s0 (countLost s h lost) := by
  unfold countLost
  try dsimp only
  repeat' first
    | with_reducible exact hk | exact fun _ => rfl | exact rfl | with_reducible apply keeps_putChecker
    | with_reducible apply keeps_equipmentFail | split

theorem keeps_timebaseExpired (hk : Keeps tk sl s0 s) (h : Nat) : Keeps tk sl s0 (timebaseExpired s h) := by
  unfold timebaseExpired
  try dsimp only
  repeat' first
    | with_reducible exact hk | exact fun _ => rfl | exact rfl | with_reducible apply keeps_putChecker
    | with_reducible apply keeps_equipmentPass | with_reducible apply keeps_equipmentFail | split

theorem keeps_closeWindow (hk : Keeps tk sl s0 s) (b : Nat) : Keeps tk sl s0 (closeWindow s b) := by
  unfold closeWindow
  try dsimp only
  repeat' first
    | with_reducible exact hk | exact fun _ => rfl | exact rfl | with_reducible apply keeps_putWindow

theorem keeps_sampleInWindow (hk : Keeps tk sl s0 s) (b : Nat) (w : Window) (seq : Nat) (v i : Int) (overrange : Bool)
    : Keeps tk sl s0 (sampleInWindow s b w seq v i overrange).1 := by
  unfold sampleInWindow
  try dsimp only
  repeat' first
    | with_reducible exact hk | exact fun _ => rfl | exact rfl | with_reducible apply keeps_countLost
    | with_reducible apply keeps_putWindow | split

theorem keeps_takeSample (hk : Keeps tk sl s0 s) (c : Cell) : Keeps tk sl s0 (takeSample s c).1 := by
  unfold takeSample
  try dsimp only
  repeat' first
    | with_reducible exact hk | exact fun _ => rfl | exact rfl
    | with_reducible apply keeps_sampleInWindow | split

/-! ### Machine/Queue.lean -/

theorem keeps_reportRoutine (hk : Keeps tk sl s0 s) (c : RequestClass) (line : Nat) (r : SweepReport) : Keeps tk sl s0
    (reportRoutine s c line r) := by
  unfold reportRoutine
  try dsimp only
  repeat' first
    | with_reducible exact hk | exact fun _ => rfl | exact rfl | with_reducible apply keeps_handOn
    | split

theorem keeps_displaceRoutine (hk : Keeps tk false s0 s) : Keeps tk false s0 (displaceRoutine s) := by
  unfold displaceRoutine
  try dsimp only
  repeat' first
    | with_reducible exact hk | exact fun _ => rfl | exact rfl | with_reducible apply keeps_reportRoutine
    | with_reducible apply keeps_leaveQueue | split

theorem keeps_mergeRequest (h : Keeps tk sl s0 s) (x : Entry) (r : Requester) (waitMs : Nat)
    (hx : x ∈ s.arbiter.queue) : Keeps tk sl s0
    (mergeRequest s x r waitMs).1 := by
  have hk := h.noSlots
  refine h.withSlots ?_ fun l hl => slots_mergeRequest hl hx _ _
  unfold mergeRequest
  try dsimp only
  repeat' first
    | with_reducible exact hk | exact fun _ => rfl | exact rfl | with_reducible apply keeps_replaceEntry
    | split

theorem keeps_submitDemand (h : Keeps tk sl s0 s) (line program : Nat) (r : Requester) (waitMs : Nat) : Keeps tk sl s0
    (submitDemand s line program r waitMs).1 := by
  have hk := h.noSlots
  refine h.withSlots ?_ fun l hl => slots_submitDemand hl _ _ _ _
  unfold submitDemand
  dsimp only
  split
  · rename_i hf
    exact keeps_mergeRequest hk _ _ _ (List.mem_of_find?_eq_some hf)
  · split
    · rename_i hl
      exact keeps_joinQueue hk _ (fun _ => ⟨hl, fun h => by simp [demandEntry, isRoutine, isDemand] at h⟩)
    · split
      · exact hk
      · rename_i hr
        refine keeps_joinQueue (keeps_displaceRoutine hk) _ (fun h0 => ⟨?_, fun h => by
          simp [demandEntry, isRoutine, isDemand] at h⟩)
        have := displaceRoutine_shorter s hr
        have := (hk.queue h0).1
        omega

theorem keeps_submitRoutine (h : Keeps tk sl s0 s) (schedule line program : Nat) : Keeps tk sl s0
    (submitRoutine s schedule line program).1 := by
  have hk := h.noSlots
  refine h.withSlots ?_ fun l hl => slots_submitRoutine hl _ _ _
  unfold submitRoutine
  dsimp only
  repeat' split
  all_goals first
    | exact hk
    | rename_i hl
      simp only [Config.queueCapacity, Config.routineCapacity, not_or, Nat.not_le] at hl
      exact keeps_joinQueue hk _ (fun _ => ⟨hl.1, fun _ => hl.2⟩)

theorem keeps_mergeReturned (hk : Keeps tk false s0 s) (new w : Entry) (hw : w ∈ s.arbiter.queue)
    (hs : sameRequest new w = true) : Keeps tk false s0 (mergeReturned s new w) := by
  have hc : isRoutine new = isRoutine w := by
    simp only [sameRequest, Bool.decide_and, Bool.and_eq_true, decide_eq_true_eq] at hs
    simp [isRoutine, hs.2.2]
  have h1 : Keeps tk false s0 (leaveQueue s w) := keeps_leaveQueue hk w
  have hlen := leaveQueue_shorter s hw
  have hrou := leaveQueue_routine s hw
  have key : ∀ s2 : State, Keeps tk false s0 s2 → s2.arbiter.queue = (leaveQueue s w).arbiter.queue → Keeps tk false s0
      (joinQueue (if (new.requesters ++ w.requesters).drop 4 = [] then reportRoutine s2 w.cls w.line .handedBack
        else endWithoutSession (reportRoutine s2 w.cls w.line .handedBack) none w.line w.program
          ((new.requesters ++ w.requesters).drop 4) .noResource)
        { new with requesters := (new.requesters ++ w.requesters).take 4, waitMs := max new.waitMs w.waitMs }) := by
    intro s2 h2 q2
    have h3 : Keeps tk false s0 (reportRoutine s2 w.cls w.line .handedBack) := keeps_reportRoutine h2 _ _ _
    have q3 := (reportRoutine_queue s2 w.cls w.line .handedBack).trans q2
    have hq : ∀ t : State, t.arbiter.queue = (leaveQueue s w).arbiter.queue → QueueBounded s0.arbiter.queue →
        t.arbiter.queue.length < 64 ∧ (isRoutine { new with
          requesters := (new.requesters ++ w.requesters).take 4, waitMs := max new.waitMs w.waitMs } = true →
            routineCount t.arbiter.queue < 48) := by
      intro t ht h0
      have hb := hk.queue h0
      rw [ht]
      refine ⟨by omega, fun h => ?_⟩
      have := hrou (hc ▸ h)
      omega
    split
    · exact keeps_joinQueue h3 _ (hq _ q3)
    · exact keeps_joinQueue (keeps_endWithoutSession h3 _ _ _ _ _) _ (hq _ ((endWithoutSession_queue ..).trans q3))
  unfold mergeReturned
  dsimp only
  cases w.slot with
  | none => exact key _ h1 rfl
  | some n => exact key _ (keeps_releaseSlot h1 _) rfl

theorem keeps_giveBack (hk : Keeps tk false s0 s) (new : Entry) : Keeps tk false s0 (giveBack s new) := by
  unfold giveBack
  split
  · rename_i w hw
    exact keeps_mergeReturned hk _ _ (List.mem_of_find?_eq_some hw) (List.find?_some hw)
  · split
    · rename_i hd
      have hn : ∀ (P : Prop), isRoutine new = true → P := fun P h => by simp [isRoutine, hd] at h
      split
      · rename_i hl
        exact keeps_joinQueue hk _ (fun _ => ⟨hl, hn _⟩)
      · split
        · exact keeps_endWithoutSession hk _ _ _ _ _
        · rename_i hr
          refine keeps_joinQueue (keeps_displaceRoutine hk) _ (fun h0 => ⟨?_, hn _⟩)
          have := displaceRoutine_shorter s hr
          have := (hk.queue h0).1
          omega
    · split
      · rename_i hl
        exact keeps_joinQueue hk _ (fun _ => ⟨hl.1, fun _ => hl.2⟩)
      · exact keeps_reportRoutine hk _ _ _

theorem keeps_satisfyRoutine (hk : Keeps tk false s0 s) (line program : Nat) (failed : Bool) : Keeps tk false s0
    (satisfyRoutine s line program failed) := by
  unfold satisfyRoutine
  try dsimp only
  repeat' first
    | with_reducible exact hk | exact fun _ => rfl | exact rfl | with_reducible apply keeps_reportRoutine
    | with_reducible apply keeps_leaveQueue | (with_reducible refine keeps_foldl _ (fun s x hk => ?_) _ ?_)

theorem keeps_waitExpired (h : Keeps tk sl s0 s) (x : Entry) (hx : x ∈ s.arbiter.queue) : Keeps tk sl s0 (waitExpired s x) := by
  have hk := h.noSlots
  refine h.withSlots ?_ fun l hl => slots_waitExpired hl hx
  unfold waitExpired
  try dsimp only
  repeat' first
    | with_reducible exact hk | exact fun _ => rfl | exact rfl
    | with_reducible apply keeps_endWithoutSession | with_reducible apply keeps_leaveQueue

end Sys2Proof.Machine
end

