-- ==== Sys2Proof/Laws/KeepsSessions.lean ====
section
/-! SUPPORT. What the sessions, the examination of the queue, the sweeps and the settling of a
step keep (`Keeps`). -/

namespace Sys2Proof.Machine

set_option Elab.async false

variable {tk sl : Bool} {s0 s : State}

/-! ### Machine/Sessions.lean -/

theorem keeps_handRecord (hk : Keeps tk false s0 s) (id : Nat) (x : Session) (o : EndOutcome) : Keeps tk false s0
    (handRecord s id x o) := by
  unfold handRecord
  try dsimp only
  repeat' first
    | with_reducible exact hk | exact fun _ => rfl | exact rfl | with_reducible apply keeps_classify
    | with_reducible apply keeps_fillRecord | with_reducible apply keeps_satisfyRoutine
    | with_reducible apply keeps_reportRoutine | split

theorem keeps_returnRequest (hk : Keeps tk false s0 s) (x : Session) (x0 : Returning) : Keeps tk false s0 (returnRequest s x x0) := by
  unfold returnRequest
  try dsimp only
  repeat' first
    | with_reducible exact hk | exact fun _ => rfl | exact rfl | with_reducible apply keeps_giveBack
    | with_reducible apply keeps_reportRoutine | split

/-- A record is handed over: the slot of a demand session, loose, takes it (R205). -/
theorem slots_handRecord {l : List Nat} {id : Nat} {x : Session} {o : EndOutcome}
    (h : SlotsAgreeBut (x.slot.toList ++ l) s) (hx : x.slot.isSome = decide (x.cls = .demand)) :
    SlotsAgreeBut l (handRecord s id x o) := by
  have h1 := (keeps_classify (tk := true) (sl := true) (Keeps.refl s) (sessionRecord s id x o) x.verdict).slots rfl _ h
  unfold handRecord
  dsimp only
  split
  · have h2 := slots_fillRecord h1 (classify s (sessionRecord s id x o) x.verdict).2 (recipients x.requesters)
    split
    · exact slots_satisfyRoutine h2 _ _ _
    · exact h2
  · rename_i n hc
    have hn : x.slot = none := by
      rw [hc] at hx
      cases e : x.slot with
      | none => rfl
      | some k => rw [e] at hx; cases hx
    rw [hn] at h1
    refine slots_reportRoutine ?_ _ _ _
    split
    all_goals split
    all_goals first | exact h1 | exact slots_fillRecord (held := none) h1 _ _

/-- A session's request is given back with its slot (R83). -/
theorem slots_returnRequest {l : List Nat} {x : Session} (h : SlotsAgreeBut (x.slot.toList ++ l) s)
    (hx : x.slot.isSome = decide (x.cls = .demand)) (ret : Returning) : SlotsAgreeBut l (returnRequest s x ret) := by
  have give : ∀ k b, SlotsAgreeBut l (giveBack s (returnedEntry x k b)) := fun k b =>
    slots_giveBack (new := returnedEntry x k b) h fun e => by
      have : x.slot.isSome = true := e
      rw [hx] at this; exact of_decide_eq_true this
  unfold returnRequest
  split
  · split
    · exact give _ _
    · rename_i hc
      have hn : x.slot = none := by
        cases e : x.slot with
        | none => rfl
        | some k => rw [e] at hx; exact absurd (of_decide_eq_true hx.symm) hc
      rw [hn] at h
      exact slots_reportRoutine h _ _ _
  · exact give _ _

/-- The slot of a session that ends is given up with its table entry, and taken by its record or its returned request
(R98, R204). -/
theorem slots_finishSession {l : List Nat} (h : SlotsAgreeBut l s) (id : Nat) (m : Mark) (synthesise : Bool)
    (ret : Returning) : SlotsAgreeBut l (finishSession s id m synthesise ret) := by
  unfold finishSession
  split
  · exact h
  · rename_i x hx
    have hs := h.2.2.2.2.2 id x hx
    have h1 : SlotsAgreeBut (x.slot.toList ++ l) (putSession s id none) :=
      slots_putSession h id none (fun e => nomatch e) (fun _ e => nomatch e) fun n => by
        rw [hx, List.count_append]
        cases e : x.slot with
        | none => simp [e]
        | some k => simp [e, List.count_cons, Nat.add_comm]
    have h2 := (keeps_setMark (tk := true) (sl := true) (Keeps.refl (putSession s id none)) x.line m synthesise).slots
      rfl _ h1
    dsimp only
    refine slots_congr (s := match x.outcome with
      | some o => handRecord (setMark (putSession s id none) x.line m synthesise) id x o
      | none => returnRequest (setMark (putSession s id none) x.line m synthesise) x ret) ?_ rfl rfl rfl rfl
    split
    · exact slots_handRecord h2 hs
    · exact slots_returnRequest h2 hs _

theorem keeps_finishSession (h : Keeps tk sl s0 s) (id : Nat) (m : Mark) (synthesise : Bool) (ret : Returning) :
    Keeps tk sl s0 (finishSession s id m synthesise ret) := by
  have hk := h.noSlots
  refine h.withSlots ?_ fun l hl => slots_finishSession hl _ _ _ _
  unfold finishSession
  try dsimp only
  repeat' first
    | with_reducible exact hk | exact fun _ => rfl | exact rfl | with_reducible apply keeps_setMark
    | with_reducible apply keeps_handRecord | with_reducible apply keeps_returnRequest
    | with_reducible apply keeps_examineLater | with_reducible apply keeps_putSession | split

theorem keeps_dropReserved (hk : Keeps tk sl s0 s) (id : Nat) (synthesise : Bool) (ret : Returning) : Keeps tk sl s0
    (dropReserved s id synthesise ret) := by
  unfold dropReserved
  try dsimp only
  repeat' first
    | with_reducible exact hk | exact fun _ => rfl | exact rfl | with_reducible apply keeps_finishSession
    | with_reducible apply keeps_giveUpOrders
    | with_reducible apply keeps_busReleased | with_reducible apply keeps_freeRiser
    | with_reducible apply keeps_startCleanUp | split

theorem keeps_requestRelease (hk : Keeps tk sl s0 s) (id : Nat) (x : Session) : Keeps tk sl s0 (requestRelease s id x) := by
  unfold requestRelease
  try dsimp only
  repeat' first
    | with_reducible exact hk | exact fun _ => rfl | exact rfl | with_reducible apply keeps_modSession
    | with_reducible apply keeps_accessReleased | with_reducible apply keeps_requestOrder

theorem keeps_stopAndRelease (hk : Keeps tk sl s0 s) (id : Nat) (x : Session) : Keeps tk sl s0 (stopAndRelease s id x) := by
  unfold stopAndRelease
  try dsimp only
  repeat' first
    | with_reducible exact hk | exact fun _ => rfl | exact rfl | with_reducible apply keeps_closeWindow
    | with_reducible apply keeps_offerSouth | with_reducible apply keeps_requestRelease | split

theorem keeps_finishDial (hk : Keeps tk sl s0 s) (id : Nat) (x : Session) (o : List Digit → EndOutcome) : Keeps tk sl s0
    (finishDial s id x o) := by
  unfold finishDial
  try dsimp only
  repeat' first
    | with_reducible exact hk | exact fun _ => rfl | exact rfl | with_reducible apply keeps_putCollector
    | with_reducible apply keeps_modSession | with_reducible apply keeps_finishSession

theorem keeps_endSession (hk : Keeps tk sl s0 s) (id : Nat) (o : EndOutcome) : Keeps tk sl s0 (endSession s id o) := by
  unfold endSession
  try dsimp only
  repeat' first
    | with_reducible exact hk | exact fun _ => rfl | exact rfl | with_reducible apply keeps_modSession
    | with_reducible apply keeps_dropReserved | with_reducible apply keeps_finishDial
    | with_reducible apply keeps_requestRelease | with_reducible apply keeps_giveUpOrders
    | with_reducible apply keeps_stopAndRelease | split

theorem keeps_tryAccess (hk : Keeps tk sl s0 s) (id : Nat) : Keeps tk sl s0 (tryAccess s id) := by
  unfold tryAccess
  try dsimp only
  repeat' first
    | with_reducible exact hk | exact fun _ => rfl | exact rfl | with_reducible apply keeps_placeOrder
    | with_reducible apply keeps_dropReserved | split

theorem keeps_requestAccess (hk : Keeps tk sl s0 s) (id : Nat) : Keeps tk sl s0 (requestAccess s id) := by
  unfold requestAccess
  try dsimp only
  repeat' first
    | with_reducible exact hk | exact fun _ => rfl | exact rfl | with_reducible apply keeps_tryAccess
    | with_reducible apply keeps_waitOrder | split

theorem keeps_runWindow (hk : Keeps tk sl s0 s) (x : Session) (b : Nat) (kind : WindowKind) (leg : Leg)
    (stimulus : Int) (count : Nat) : Keeps tk sl s0 (runWindow s x b kind leg stimulus count) := by
  unfold runWindow
  try dsimp only
  repeat' first
    | with_reducible exact hk | exact fun _ => rfl | exact rfl | with_reducible apply keeps_modBus
    | with_reducible apply keeps_putWindow | with_reducible apply keeps_offerSouth

theorem keeps_runSettling (hk : Keeps tk sl s0 s) (id : Nat) : Keeps tk sl s0 (runSettling s id) := by
  unfold runSettling
  try dsimp only
  repeat' first
    | with_reducible exact hk | exact fun _ => rfl | exact rfl | with_reducible apply keeps_runWindow
    | split

theorem keeps_runStep (hk : Keeps tk sl s0 s) (id : Nat) : Keeps tk sl s0 (runStep s id) := by
  unfold runStep
  try dsimp only
  repeat' first
    | with_reducible exact hk | exact fun _ => rfl | exact rfl | with_reducible apply keeps_runWindow
    | split

theorem keeps_completeSession (hk : Keeps tk sl s0 s) (id : Nat) : Keeps tk sl s0 (completeSession s id) := by
  unfold completeSession
  try dsimp only
  repeat' first
    | with_reducible exact hk | exact fun _ => rfl | exact rfl
    | with_reducible apply keeps_requestRelease | with_reducible apply keeps_modSession | split

theorem keeps_recordResult (hk : Keeps tk sl s0 s) (id : Nat) (r : StepResult) :
    Keeps tk sl s0 (recordResult s id r) := keeps_modSession hk _ _ (fun _ => rfl) fun _ => rfl

theorem keeps_recordStep (hk : Keeps tk sl s0 s) (id : Nat) (r : StepResult) : Keeps tk sl s0 (recordStep s id r) :=
  keeps_modSession (keeps_recordResult hk id r) _ _ (fun _ => rfl) fun _ => rfl

theorem keeps_afterStep (hk : Keeps tk sl s0 s) (id : Nat) : Keeps tk sl s0 (afterStep s id) := by
  unfold afterStep
  try dsimp only
  repeat' first
    | with_reducible exact hk | exact fun _ => rfl | exact rfl | with_reducible apply keeps_endSession
    | with_reducible apply keeps_runStep | with_reducible apply keeps_modSession
    | with_reducible apply keeps_completeSession | split

theorem keeps_hazardRelease (hk : Keeps tk sl s0 s) (id b : Nat) : Keeps tk sl s0 (hazardRelease s id b) := by
  unfold hazardRelease
  try dsimp only
  repeat' first
    | with_reducible exact hk | exact fun _ => rfl | exact rfl | with_reducible apply keeps_modSession
    | with_reducible apply keeps_endSession | with_reducible apply keeps_modBus
    | with_reducible apply keeps_setBusState

theorem keeps_settlingReport (hk : Keeps tk sl s0 s) (id b : Nat) (x : Session) (x0 : WindowEnd) : Keeps tk sl s0
    (settlingReport s id b x x0) := by
  unfold settlingReport
  try dsimp only
  repeat' first
    | with_reducible exact hk | exact fun _ => rfl | exact rfl | with_reducible apply keeps_runStep
    | with_reducible apply keeps_modSession | with_reducible apply keeps_runSettling
    | with_reducible apply keeps_endSession | with_reducible apply keeps_hazardRelease | split

theorem keeps_stepReport (hk : Keeps tk sl s0 s) (id b : Nat) (x : Session) (x0 : WindowEnd) : Keeps tk sl s0
    (stepReport s id b x x0) := by
  unfold stepReport
  try dsimp only
  repeat' first
    | with_reducible exact hk | exact fun _ => rfl | exact rfl | with_reducible apply keeps_afterStep
    | with_reducible apply keeps_recordResult | with_reducible apply keeps_recordStep | with_reducible apply keeps_runStep
    | with_reducible apply keeps_modSession | with_reducible apply keeps_hazardRelease | split

theorem keeps_windowEnded (hk : Keeps tk sl s0 s) (b : Nat) (e : WindowEnd) : Keeps tk sl s0 (windowEnded s b e) := by
  unfold windowEnded
  try dsimp only
  repeat' first
    | with_reducible exact hk | exact fun _ => rfl | exact rfl
    | with_reducible apply keeps_settlingReport | with_reducible apply keeps_stepReport | split

theorem keeps_accessReleased (hk : Keeps tk sl s0 s) (len : Nat) (h : Hook) (held : Option Cell) : Keeps tk sl s0
    (accessReleased s len h held) := by
  unfold accessReleased
  try dsimp only
  repeat' first
    | with_reducible exact hk | exact fun _ => rfl | exact rfl | with_reducible apply keeps_modLine
    | with_reducible apply keeps_writeHook | with_reducible apply keeps_offerSouth | split

theorem keeps_startUpDone (hk : Keeps tk sl s0 s) (n : Nat) : Keeps tk sl s0 (startUpDone s n) := by
  unfold startUpDone
  try dsimp only
  repeat' first
    | with_reducible exact hk | exact fun _ => rfl | exact rfl | with_reducible apply keeps_onEngine
    | with_reducible apply keeps_onArbiter | with_reducible apply keeps_examineLater | split

theorem keeps_sessionAcked (hk : Keeps tk sl s0 s) (id : Nat) (x : Session) (o : Order) (h : Option Hook) : Keeps tk sl s0
    (sessionAcked s id x o h) := by
  unfold sessionAcked
  try dsimp only
  repeat' first
    | with_reducible exact hk | exact fun _ => rfl | exact rfl | with_reducible apply keeps_requestAccess
    | with_reducible apply keeps_cutLine
    | with_reducible apply keeps_modSession | with_reducible apply keeps_runSettling
    | with_reducible apply keeps_equipmentPass | with_reducible apply keeps_accessReleased
    | with_reducible apply keeps_requestOrder | with_reducible apply keeps_freeRiser
    | with_reducible apply keeps_busReleased | with_reducible apply keeps_finishSession | split

theorem keeps_retryAcked (hk : Keeps tk sl s0 s) (b : Nat) (o : Order) (h : Option Hook) : Keeps tk sl s0
    (retryAcked s b o h) := by
  unfold retryAcked
  try dsimp only
  repeat' first
    | with_reducible exact hk | exact fun _ => rfl | exact rfl
    | with_reducible apply keeps_accessReleased | with_reducible apply keeps_setMark
    | with_reducible apply keeps_modBus | with_reducible apply keeps_requestOrder
    | with_reducible apply keeps_busToFree | with_reducible apply keeps_freeRiser | split

theorem keeps_cleanUpAcked (hk : Keeps tk sl s0 s) (b : Nat) (o : Order) (h : Option Hook) : Keeps tk sl s0
    (cleanUpAcked s b o h) := by
  unfold cleanUpAcked
  split
  · exact keeps_requestOrder (keeps_accessReleased hk _ _ _) _
  · exact keeps_busReleased (keeps_freeRiser hk _) _

theorem keeps_orderAcked (hk : Keeps tk sl s0 s) (o : Order) (h : Option Hook) : Keeps tk sl s0 (orderAcked s o h) := by
  unfold orderAcked
  try dsimp only
  repeat' first
    | with_reducible exact hk | exact fun _ => rfl | exact rfl | with_reducible apply keeps_sessionAcked
    | with_reducible apply keeps_cleanUpAcked
    | with_reducible apply keeps_retryAcked | with_reducible apply keeps_startUpDone
    | with_reducible apply keeps_setReleased | split

theorem keeps_connectFailed (hk : Keeps tk sl s0 s) (id : Nat) (x : Session) : Keeps tk sl s0 (connectFailed s id x) := by
  unfold connectFailed
  try dsimp only
  repeat' first
    | with_reducible exact hk | exact fun _ => rfl | exact rfl | with_reducible apply keeps_equipmentFail
    | with_reducible apply keeps_modSession | split

theorem markOf_setMark (s : State) (len : Nat) (m : Mark) (b : Bool) : markOf (setMark s len m b) len = m := by
  have hw : markOf (writeMark s len m) len = m := by rw [markOf_writeMark, if_pos rfl]
  unfold setMark
  dsimp only
  repeat' split
  · rw [markOf_offerTestBlock]; exact hw
  · unfold offerUnblocked
    dsimp only
    show markOf (match synthesisedReport (lineOf (offerTestBlock (writeMark s len m) len false) len) with
      | some r => if b then offerUrgent _ _ else _
      | none => _) len = m
    repeat' split
    · rw [markOf_offerUrgent, markOf_offerTestBlock]; exact hw
    all_goals rw [markOf_offerTestBlock]; exact hw
  · exact hw

theorem keeps_lockLine (hk : Keeps tk sl s0 s) (len : Nat) : Keeps tk sl s0 (lockLine s len) :=
  keeps_offerTestBlock (keeps_setMark hk len .lockedOut false) len true fun _ => by rw [markOf_setMark]; rfl

theorem keeps_releaseFailed (hk : Keeps tk sl s0 s) (b shelf : Nat) (p : PendingRelease) : Keeps tk sl s0
    (releaseFailed s b shelf p) :=
  keeps_startRetry (keeps_equipmentFail (keeps_stickBus hk _ _) _ _ _ rfl) _ _

theorem keeps_lockOut (hk : Keeps tk sl s0 s) (id : Nat) (x : Session) : Keeps tk sl s0 (lockOut s id x) := by
  have h2 := keeps_finishSession (keeps_modSession (keeps_lockLine hk x.line) id
    (fun x => { x with outcome := some (x.outcome.getD .accessFail), held := none }) (fun _ => rfl) fun _ => rfl)
    id .lockedOut false .failed
  unfold lockOut
  dsimp only
  split
  · exact h2
  · exact keeps_releaseFailed h2 _ _ _

theorem keeps_riserReleaseFailed (hk : Keeps tk sl s0 s) (b shelf : Nat) : Keeps tk sl s0
    (riserReleaseFailed s b shelf) := keeps_releaseFailed hk _ _ _

theorem keeps_cleanUpTimedOut (hk : Keeps tk sl s0 s) (b : Nat) (o : Order) : Keeps tk sl s0 (cleanUpTimedOut s b o) :=
  keeps_releaseFailed hk _ _ _

theorem keeps_sessionTimedOut (hk : Keeps tk sl s0 s) (id : Nat) (x : Session) (o : Order) : Keeps tk sl s0
    (sessionTimedOut s id x o) := by
  unfold sessionTimedOut
  try dsimp only
  repeat' first
    | with_reducible exact hk | exact fun _ => rfl | exact rfl | with_reducible apply keeps_dropReserved
    | with_reducible apply keeps_connectFailed | with_reducible apply keeps_requestRelease
    | with_reducible apply keeps_lockOut | with_reducible apply keeps_riserReleaseFailed
    | with_reducible apply keeps_finishSession | split

theorem keeps_retryTimedOut (hk : Keeps tk sl s0 s) (b : Nat) : Keeps tk sl s0 (retryTimedOut s b) := by
  unfold retryTimedOut
  try dsimp only
  repeat' first
    | with_reducible exact hk | exact fun _ => rfl | exact rfl | with_reducible apply keeps_modBus

theorem keeps_orderTimedOut (hk : Keeps tk sl s0 s) (o : Order) : Keeps tk sl s0 (orderTimedOut s o) := by
  unfold orderTimedOut
  try dsimp only
  repeat' first
    | with_reducible exact hk | exact fun _ => rfl | exact rfl
    | with_reducible apply keeps_sessionTimedOut | with_reducible apply keeps_cleanUpTimedOut
    | with_reducible apply keeps_retryTimedOut | with_reducible apply keeps_startUpDone
    | with_reducible apply keeps_setReleased | split

theorem keeps_retryExpired (hk : Keeps tk sl s0 s) (b : Nat) (r : ReleaseRetry) : Keeps tk sl s0 (retryExpired s b r) := by
  unfold retryExpired
  try dsimp only
  repeat' first
    | with_reducible exact hk | exact fun _ => rfl | exact rfl | with_reducible apply keeps_modBus
    | with_reducible apply keeps_requestOrder

theorem keeps_quarantineExpired (hk : Keeps tk sl s0 s) (b : Nat) : Keeps tk sl s0 (quarantineExpired s b) := by
  unfold quarantineExpired
  try dsimp only
  repeat' first
    | with_reducible exact hk | exact fun _ => rfl | exact rfl | with_reducible apply keeps_modBus
    | with_reducible apply keeps_busToFree | split

theorem keeps_blockedReportLeft (hk : Keeps tk sl s0 s) (len : Nat) : Keeps tk sl s0 (blockedReportLeft s len) := by
  unfold blockedReportLeft
  try dsimp only
  repeat' first
    | with_reducible exact hk | exact fun _ => rfl | exact rfl | with_reducible apply keeps_setMark
    | with_reducible apply keeps_putCollector | with_reducible apply keeps_modSession | split

theorem keeps_collectorChanged (hk : Keeps tk sl s0 s) (id : Nat) (x : Session) (c : Collector) : Keeps tk sl s0
    (collectorChanged s id x c) := by
  unfold collectorChanged
  try dsimp only
  repeat' first
    | with_reducible exact hk | exact fun _ => rfl | exact rfl | with_reducible apply keeps_putCollector
    | with_reducible apply keeps_finishDial | split

theorem keeps_dialReport (hk : Keeps tk sl s0 s) (id : Nat) (x : Session) (r : Report) (t : Nat) : Keeps tk sl s0
    (dialReport s id x r t) := by
  unfold dialReport
  try dsimp only
  repeat' first
    | with_reducible exact hk | exact fun _ => rfl | exact rfl | with_reducible apply keeps_putCollector
    | with_reducible apply keeps_modSession | with_reducible apply keeps_finishDial
    | with_reducible apply keeps_collectorChanged | split

/-! ### Machine/Admission.lean -/

theorem keeps_allocatePlant (hk : Keeps tk sl s0 s) (id line b : Nat) : Keeps tk sl s0 (allocatePlant s id line b) := by
  unfold allocatePlant
  try dsimp only
  repeat' first
    | with_reducible exact hk | exact fun _ => rfl | exact rfl | with_reducible apply keeps_setBusState
    | with_reducible apply keeps_modBus | with_reducible apply keeps_putRiser
    | with_reducible apply keeps_requestOrder

theorem freeSessionId_spec {id : Nat} (h : freeSessionId s = some id) : sessionAt s id = none ∧ id < 8 := by
  unfold freeSessionId at h
  exact ⟨by simpa using List.find?_some h, List.mem_range.1 (List.mem_of_find?_eq_some h)⟩

/-- An eligible entry becomes a session, a demand one with its slot or a FREE one (R77, R204). -/
theorem slots_admitEntry {l : List Nat} (h : SlotsAgreeBut l s) {x : Entry} (hx : x ∈ s.arbiter.queue)
    (he : eligible s x = true) : SlotsAgreeBut l (admitEntry s x) := by
  unfold eligible readyButPlant at he
  simp only [Bool.and_eq_true, Bool.or_eq_true] at he
  obtain ⟨⟨⟨_, hslot⟩, hid⟩, _⟩ := he
  obtain ⟨id, hid⟩ := Option.isSome_iff_exists.1 hid
  obtain ⟨hfree, h8⟩ := freeSessionId_spec hid
  have h1 := slots_leaveQueue h hx
  have hsess : ∀ y, (leaveQueue s x).engine.sessions = y → y = s.engine.sessions := fun y e => by
    rw [← e]; unfold leaveQueue; dsimp only; split <;> rfl
  have hslots : (leaveQueue s x).interp = s.interp := by
    unfold leaveQueue; dsimp only; split <;> rfl
  let a := onArbiter (leaveQueue s x) (fun a => { a with admissions := a.admissions + 1 })
  let bus := if isDialProgram (programAt s x.program) then none else chooseBus s x
  have h2 : SlotsAgreeBut (x.slot.toList ++ l) a := slots_congr h1 rfl rfl rfl rfl
  have hnone : sessionAt a id = none := by
    show tabGet none (leaveQueue s x).engine.sessions id = none
    rw [hsess _ rfl]; exact hfree
  -- the session takes a loose slot
  have put : ∀ (t : State) (slot : Option Nat), sessionAt t id = none → SlotsAgreeBut (slot.toList ++ l) t →
      slot.isSome = decide (x.cls = .demand) →
      SlotsAgreeBut l (putSession t id (some (newSession s x bus slot))) := fun t slot hn ht hs =>
    slots_putSession ht id _ (fun _ => h8) (fun y e => by cases e; exact hs) fun n => by
      rw [hn, List.count_append]
      cases slot with
      | none => simp [newSession]
      | some k => simp [newSession, List.count_cons, Nat.add_comm]
  have h3 : SlotsAgreeBut l (match (if isDemand x then x.slot.or (freeSlot s) else none) with
      | some n => putSlot (putSession a id (some (newSession s x bus
          (if isDemand x then x.slot.or (freeSlot s) else none)))) n .reserved
      | none => putSession a id (some (newSession s x bus
          (if isDemand x then x.slot.or (freeSlot s) else none)))) := by
    by_cases hd : isDemand x = true
    · have hcls : x.cls = .demand := by simpa [isDemand] using hd
      rw [if_pos hd]
      cases hsl : x.slot with
      | some n =>
        rw [hsl] at h2
        exact put (putSlot a n .reserved) (some n) hnone (slots_rereserve h2) (by simp [hcls])
      | none =>
        rw [hsl] at h2 hslot
        simp only [hd, Bool.not_true, Bool.false_eq_true, Option.isSome_none, false_or] at hslot
        obtain ⟨n, hn⟩ := Option.isSome_iff_exists.1 hslot
        obtain ⟨hf, h32⟩ := freeSlot_spec hn
        have hf' : slotAt a n = .free := by
          show tabGet .free (leaveQueue s x).interp.slots n = .free
          rw [hslots]; exact hf
        simp only [Option.none_or, hn]
        exact put (putSlot a n .reserved) (some n) hnone (slots_reserve h2 hf' h32) (by simp [hcls])
    · have hcls : x.cls ≠ .demand := by simpa [isDemand] using hd
      have hn : x.slot = none := by
        cases e : x.slot with
        | none => rfl
        | some n => exact absurd (h.2.2.2.2.1.2 x hx (by simp [e])) hcls
      rw [hn] at h2
      rw [if_neg hd]
      exact put a none hnone h2 (by simp [hcls])
  have h4 := fun t (ht : SlotsAgreeBut l t) =>
    (keeps_setMark (tk := true) (sl := true) (Keeps.refl t) x.line .reserved false).slots rfl _ ht
  have h5 := fun t b (ht : SlotsAgreeBut l t) =>
    (keeps_allocatePlant (tk := true) (sl := true) (Keeps.refl t) id x.line b).slots rfl _ ht
  unfold admitEntry
  dsimp only
  rw [hid]
  split
  · exact h5 _ _ (h4 _ h3)
  · exact h4 _ h3

theorem keeps_admit (h : Keeps tk sl s0 s) (x : Entry) (hx : x ∈ s.arbiter.queue)
    (he : eligible s x = true) : Keeps tk sl s0 (admitEntry s x) := by
  have hk := h.noSlots
  refine h.withSlots ?_ fun l hl => slots_admitEntry hl hx he
  unfold admitEntry
  try dsimp only
  repeat' first
    | with_reducible exact hk | exact fun _ => rfl | exact rfl | with_reducible apply keeps_leaveQueue
    | with_reducible apply keeps_onArbiter | with_reducible apply keeps_putSession
    | with_reducible apply keeps_putSlot | with_reducible apply keeps_setMark
    | with_reducible apply keeps_allocatePlant | split

/-- A waiting entry changed in neither line, program, class nor slot. -/
theorem keeps_changeEntry (hk : Keeps tk sl s0 s) {x : Entry} (y : Entry) (hx : x ∈ s.arbiter.queue)
    (hy : y.line = x.line ∧ y.program = x.program ∧ y.cls = x.cls ∧ y.slot = x.slot) :
    Keeps tk sl s0 (replaceEntry s y) :=
  hk.withSlots (keeps_replaceEntry hk.noSlots _) fun _ hl => slots_replaceEntry hl hx hy

theorem keeps_preempt (hk : Keeps tk sl s0 s) (x : Entry) (id : Nat) (y : Session) (hx : x ∈ s.arbiter.queue) :
    Keeps tk sl s0 (preempt s x id y) := by
  unfold preempt
  dsimp only
  refine keeps_endSession (keeps_modSession (keeps_changeEntry hk _ hx ?_) id (fun z => { z with preempted := true })
    (fun _ => rfl) fun _ => rfl) _ _
  exact ⟨rfl, rfl, rfl, rfl⟩

theorem keeps_admitTurn (hk : Keeps tk sl s0 s) (x : Entry) (hx : x ∈ s.arbiter.queue) (he : eligible s x = true) :
    Keeps tk sl s0 (admitTurn s x).1 := keeps_admit hk x hx he

theorem keeps_preemptTurn (hk : Keeps tk sl s0 s) (x : Entry) (id : Nat) (y : Session) (hx : x ∈ s.arbiter.queue) :
    Keeps tk sl s0 (preemptTurn s x id y).1 := keeps_preempt hk x id y hx

theorem keeps_demandTurn (hk : Keeps tk sl s0 s) (x : Entry) (hx : x ∈ s.arbiter.queue) :
    Keeps tk sl s0 (demandTurn s x).1 := by
  have h1 := keeps_changeEntry hk { x with seenBusy := lineBusy s x } hx ⟨rfl, rfl, rfl, rfl⟩
  have hm : { x with seenBusy := lineBusy s x } ∈ (replaceEntry s { x with seenBusy := lineBusy s x }).arbiter.queue :=
    mem_replaceEntry hx (sameRequest_refl x)
  unfold demandTurn
  dsimp only
  split
  · rename_i he
    exact keeps_admitTurn h1 _ hm he
  · repeat' split
    · exact keeps_examineLater (keeps_changeEntry h1 _ hm ⟨rfl, rfl, rfl, rfl⟩)
    · exact h1
    · exact keeps_preemptTurn h1 _ _ _ hm
    · exact h1

/-- A routine entry leaves. -/
theorem keeps_routineLeaves (hk : Keeps tk sl s0 s) {x : Entry} (hx : isRoutine x = true) :
    Keeps tk sl s0 (leaveQueue s x) :=
  hk.withSlots (keeps_leaveQueue hk.noSlots _) fun _ hl => slots_leaveQueue_routine hl hx

theorem keeps_routineTurn (hk : Keeps tk sl s0 s) (x : Entry) (hx : x ∈ s.arbiter.queue) (hr : isRoutine x = true) :
    Keeps tk sl s0 (routineTurn s x).1 := by
  unfold routineTurn
  split
  · exact keeps_reportRoutine (keeps_routineLeaves hk hr) _ _ _
  · split
    · exact keeps_reportRoutine (keeps_routineLeaves hk hr) _ _ _
    · split
      · rename_i he
        exact keeps_admitTurn hk x hx he
      · exact hk

theorem keeps_entryTurn (hk : Keeps tk sl s0 s) (x : Entry) (hx : x ∈ s.arbiter.queue) :
    Keeps tk sl s0 (entryTurn s x).1 := by
  unfold entryTurn
  split
  · exact keeps_demandTurn hk x hx
  · rename_i hd
    exact keeps_routineTurn hk x hx (by simpa [isRoutine] using hd)

theorem keeps_walkQueue (hk : Keeps tk sl s0 s) (fuel i : Nat) : Keeps tk sl s0 (walkQueue fuel i s) := by
  induction fuel generalizing i s with
  | zero => exact hk
  | succ n ih =>
    unfold walkQueue
    split
    · exact hk
    · rename_i x hx
      have ht := keeps_entryTurn hk x (List.mem_of_getElem? hx)
      split <;> rename_i heq <;> rw [heq] at ht <;> exact ih ht _

theorem keeps_examineQueue (hk : Keeps tk sl s0 s) : Keeps tk sl s0 (examineQueue s) := by
  unfold examineQueue
  try dsimp only
  repeat' first
    | with_reducible exact hk | exact fun _ => rfl | exact rfl | with_reducible apply keeps_walkQueue
    | split

/-! ### Machine/Sweeps.lean -/

theorem keeps_countSkipped (hk : Keeps tk sl s0 s) (n : Nat) : Keeps tk sl s0 (countSkipped s n) := by
  unfold countSkipped
  try dsimp only
  repeat' first
    | with_reducible exact hk | exact fun _ => rfl | exact rfl | exact id | exact fun _ => Nat.zero_le _
    | with_reducible apply keeps_modRun

theorem keeps_sweepNotice (hk : Keeps tk sl s0 s) (n : Nat) (unfit : Bool) : Keeps tk sl s0 (sweepNotice s n unfit) := by
  unfold sweepNotice
  try dsimp only
  repeat' first
    | with_reducible exact hk | exact fun _ => rfl | exact rfl | exact id | exact fun _ => Nat.zero_le _
    | with_reducible apply keeps_notify

theorem keeps_deferLine (hk : Keeps tk sl s0 s) (n line : Nat) : Keeps tk sl s0 (deferLine s n line) := by
  unfold deferLine
  split
  · rename_i h
    refine keeps_modRun hk _ _ fun _ => ?_
    simp only [Config.deferredCapacity] at h
    simp only [List.length_append, List.length_singleton]
    omega
  · exact keeps_countSkipped hk _

theorem keeps_completeIfDone (hk : Keeps tk sl s0 s) (n : Nat) : Keeps tk sl s0 (completeIfDone s n) := by
  unfold completeIfDone
  try dsimp only
  repeat' first
    | with_reducible exact hk | exact fun _ => rfl | exact rfl | exact id | exact fun _ => Nat.zero_le _
    | with_reducible apply keeps_sweepNotice
    | with_reducible apply keeps_modRun | split

theorem keeps_busyReached (hk : Keeps tk sl s0 s) (n line : Nat) (fromList : Bool) : Keeps tk sl s0
    (busyReached s n line fromList) := by
  unfold busyReached
  try dsimp only
  repeat' first
    | with_reducible exact hk | exact fun _ => rfl | exact rfl | exact id | exact fun _ => Nat.zero_le _
    | with_reducible apply keeps_countSkipped
    | with_reducible apply keeps_deferLine | split

theorem keeps_reachLine (hk : Keeps tk sl s0 s) (n line : Nat) (fromList : Bool) (program : Nat) : Keeps tk sl s0
    (reachLine s n line fromList program).1 := by
  unfold reachLine
  split
  · exact keeps_countSkipped hk _
  · exact keeps_modRun hk n (fun r => { r with stormSkipped := add16 r.stormSkipped 1 }) id
  · exact keeps_busyReached hk _ _ _
  · have hs := keeps_submitRoutine hk n line program
    split <;> rename_i heq <;> rw [heq] at hs <;> dsimp only at hs ⊢
    · exact keeps_modRun hs _ _ id
    · exact keeps_busyReached hs _ _ _
    · exact keeps_countSkipped hs _

theorem nextLine_deferred {cfg : ScheduleConfig} {r r' : SweepRun} {line : Nat} {b : Bool}
    (h : nextLine cfg r = some (line, b, r')) : r'.deferredLines.length ≤ r.deferredLines.length := by
  unfold nextLine at h
  split at h
  · simp only [Option.some.injEq, Prod.mk.injEq] at h
    exact Nat.le_of_eq (congrArg (fun x => x.deferredLines.length) h.2.2.symm)
  · split at h
    · rename_i l rest hd
      simp only [Option.some.injEq, Prod.mk.injEq] at h
      rw [← h.2.2, hd]
      exact Nat.le_succ _
    · simp at h

theorem keeps_fillWindow (hk : Keeps tk sl s0 s) (fuel : Nat) (n : Nat) : Keeps tk sl s0 (fillWindow fuel s n) := by
  induction fuel generalizing s with
  | zero => exact keeps_handOn hk _
  | succ m ih =>
    unfold fillWindow
    split
    · exact hk
    · rename_i cfg _
      dsimp only
      split
      · split
        · exact keeps_completeIfDone hk _
        · rename_i line fromList r' hn
          have hr := keeps_reachLine (keeps_modRun hk n (fun _ => r')
            (fun hd => Nat.le_trans (nextLine_deferred hn) hd)) n line fromList cfg.program
          split <;> rename_i heq <;> rw [heq] at hr
          · exact keeps_handOn hr _
          · exact ih hr
      · exact hk

theorem keeps_busyReport (hk : Keeps tk sl s0 s) (n line : Nat) (retry : Bool) : Keeps tk sl s0 (busyReport s n line retry)
    := by
  unfold busyReport
  try dsimp only
  repeat' first
    | with_reducible exact hk | exact fun _ => rfl | exact rfl | exact id | exact fun _ => Nat.zero_le _
    | with_reducible apply keeps_deferLine
    | with_reducible apply keeps_countSkipped | split

theorem keeps_countTested (hk : Keeps tk sl s0 s) (n : Nat) (failed : Bool) : Keeps tk sl s0 (countTested s n failed) := by
  unfold countTested
  try dsimp only
  repeat' first
    | with_reducible exact hk | exact fun _ => rfl | exact rfl | exact id | exact fun _ => Nat.zero_le _
    | with_reducible apply keeps_modRun

theorem keeps_countReport (hk : Keeps tk sl s0 s) (n line : Nat) (retry : Bool) (x0 : SweepReport) : Keeps tk sl s0
    (countReport s n line retry x0) := by
  unfold countReport
  try dsimp only
  repeat' first
    | with_reducible exact hk | exact fun _ => rfl | exact rfl | exact id | exact fun _ => Nat.zero_le _
    | with_reducible apply keeps_countTested
    | with_reducible apply keeps_busyReport | with_reducible apply keeps_countSkipped | split

theorem keeps_takeReport (hk : Keeps tk sl s0 s) (n line : Nat) (what : SweepReport) : Keeps tk sl s0
    (takeReport s n line what) := by
  unfold takeReport
  try dsimp only
  repeat' first
    | with_reducible exact hk | exact fun _ => rfl | exact rfl | exact id | exact fun _ => Nat.zero_le _
    | with_reducible apply keeps_modRun
    | with_reducible apply keeps_countReport | with_reducible apply keeps_handOn
    | with_reducible apply keeps_completeIfDone | split

theorem keeps_beginSweep (hk : Keeps tk sl s0 s) (n : Nat) (cfg : ScheduleConfig) : Keeps tk sl s0 (beginSweep s n cfg) := by
  unfold beginSweep
  try dsimp only
  repeat' first
    | with_reducible exact hk | exact fun _ => rfl | exact rfl | exact id | exact fun _ => Nat.zero_le _
    | with_reducible apply keeps_sweepNotice
    | with_reducible apply keeps_modRun | with_reducible apply keeps_handOn | split

theorem keeps_enterMinute (hk : Keeps tk sl s0 s) : Keeps tk sl s0 (enterMinute s) := by
  unfold enterMinute
  try dsimp only
  repeat' first
    | with_reducible exact hk | exact fun _ => rfl | exact rfl | exact id | exact fun _ => Nat.zero_le _
    | with_reducible apply keeps_beginSweep
    | (with_reducible refine keeps_foldl _ (fun s x hk => ?_) _ ?_) | split

theorem keeps_removeSweepEntries (hk : Keeps tk sl s0 s) (n : Nat) : Keeps tk sl s0 (removeSweepEntries s n) := by
  have hl : ∀ (q : List Entry) (s : State), (∀ y ∈ q, isRoutine y = true) → Keeps tk sl s0 s →
      Keeps tk sl s0 (q.foldl (fun s y => leaveQueue s y) s) := by
    intro q
    induction q with
    | nil => exact fun s _ h => h
    | cons y rest ih =>
      exact fun s hq h => ih _ (fun z hz => hq z (List.mem_cons_of_mem _ hz))
        (keeps_routineLeaves h (hq y (List.mem_cons_self ..)))
  unfold removeSweepEntries
  refine keeps_modRun (hl _ _ (fun y hy => ?_) hk) n _ id
  have := (List.mem_filter.1 hy).2
  simp only [decide_eq_true_eq] at this
  simp [isRoutine, isDemand, this]

theorem keeps_removeSweepWork (hk : Keeps tk sl s0 s) (n : Nat) : Keeps tk sl s0 (removeSweepWork s n) :=
  keeps_modRun (keeps_removeSweepEntries hk n) n _ fun _ => Nat.zero_le _

theorem keeps_durationExpired (hk : Keeps tk sl s0 s) (n : Nat) : Keeps tk sl s0 (durationExpired s n) := by
  unfold durationExpired
  try dsimp only
  repeat' first
    | with_reducible exact hk | exact fun _ => rfl | exact rfl | exact id | exact fun _ => Nat.zero_le _
    | with_reducible apply keeps_removeSweepWork | with_reducible apply keeps_modRun
    | with_reducible apply keeps_sweepNotice

theorem keeps_stopSweep (hk : Keeps tk sl s0 s) (n : Nat) (cfg : ScheduleConfig) : Keeps tk sl s0 (stopSweep s n cfg) := by
  unfold stopSweep
  try dsimp only
  repeat' first
    | with_reducible exact hk | exact fun _ => rfl | exact rfl | exact id | exact fun _ => Nat.zero_le _
    | with_reducible apply keeps_removeSweepWork | with_reducible apply keeps_removeSweepEntries
    | with_reducible apply keeps_modRun
    | with_reducible apply keeps_sweepNotice | split

theorem keeps_takeTodo (hk : Keeps tk sl s0 s) (x0 : Todo) : Keeps tk sl s0 (takeTodo s x0) := by
  unfold takeTodo
  try dsimp only
  repeat' first
    | with_reducible exact hk | exact fun _ => rfl | exact rfl | exact id | exact fun _ => Nat.zero_le _
    | with_reducible apply keeps_examineQueue
    | with_reducible apply keeps_takeReport | with_reducible apply keeps_fillWindow | split

theorem keeps_settle (hk : Keeps tk sl s0 s) (fuel : Nat) : Keeps tk sl s0 (settle fuel s) := by
  induction fuel generalizing s with
  | zero => exact hk
  | succ n ih =>
    unfold settle
    split
    · exact hk
    · exact ih (keeps_takeTodo (keeps_agenda hk _) _)

end Sys2Proof.Machine
end

