-- ==== Sys2Proof/Laws/KeepsCommands.lean ====
section
/-! SUPPORT. What the calendar, the commands and warm restart keep (`Keeps`). -/

namespace Sys2Proof.Machine

set_option Elab.async false

variable {tk sl : Bool} {s0 s : State}

theorem nextDate_valid (c : Calendar) (h : CalendarValid c) : CalendarValid (nextDate c) := by
  have hm : ∀ m y, 1 ≤ monthLength m y := by
    intro m y; unfold monthLength; split <;> (try split) <;> simp
  unfold nextDate
  repeat' split
  · refine ⟨h.1, h.2.1, h.2.2.1, h.2.2.2.1, h.2.2.2.2.1, h.2.2.2.2.2.1, h.2.2.2.2.2.2.1, h.2.2.2.2.2.2.2.1, ?_, ?_⟩ <;>
      dsimp only <;> omega
  · refine ⟨h.1, h.2.1, h.2.2.1, h.2.2.2.1, ?_, ?_, h.2.2.2.2.2.2.1, h.2.2.2.2.2.2.2.1, ?_, ?_⟩ <;>
      dsimp only <;> first | omega | exact hm _ _
  · exact ⟨h.1, h.2.1, h.2.2.1, h.2.2.2.1, by simp, by simp, by simp, by simp, by simp, hm _ _⟩
  · have := h.2.2.2.2.2.2.1
    have := h.2.2.2.2.2.2.2.1
    refine ⟨h.1, h.2.1, h.2.2.1, h.2.2.2.1, by simp, by simp, ?_, ?_, by simp, hm _ _⟩ <;> dsimp only <;> omega

theorem carryMinute_valid (c : Calendar) (h : CalendarValid c) : CalendarValid (carryMinute c) := by
  have h1 := h.2.1
  have h2 := h.2.2.1
  have h3 := h.2.2.2.1
  have hr := h.2.2.2.2
  unfold carryMinute
  split
  · unfold carryHour
    split
    · unfold carryDay
      refine nextDate_valid _ ⟨h.1, by simp, by simp, ?_, hr⟩
      dsimp only
      split <;> omega
    · refine ⟨h.1, by simp, ?_, h3, hr⟩
      dsimp only at *
      omega
  · refine ⟨h.1, ?_, h2, h3, hr⟩
    dsimp only
    omega

/-! ### Machine/Calendar.lean -/

theorem keeps_calendarSecond (hk : Keeps tk sl s0 s) : Keeps tk sl s0 (calendarSecond s) := by
  unfold calendarSecond
  dsimp only
  split
  · exact hk
  · split
    · have h1 := keeps_calendar hk (carryMinute { s.calendar with prescaler := 0, second := 0 })
        fun h => carryMinute_valid _ ⟨by simp, h.2.1, h.2.2⟩
      exact keeps_enterMinute h1
    · rename_i hs
      refine keeps_calendar hk _ fun h => ⟨?_, h.2⟩
      have := h.1
      dsimp only at hs ⊢
      omega

theorem keeps_setTime (hk : Keeps tk sl s0 s) (second minute hour weekday day month year : Nat) :
    Keeps tk sl s0 (setTime s second minute hour weekday day month year).1 := by
  unfold setTime
  split
  · rename_i hv
    simp only [validTime, decide_eq_true_eq] at hv
    have h1 := keeps_enterMinute (keeps_calendar hk
      { running := true, prescaler := 0, second := second, minute := minute, hour := hour
        weekday := weekday, day := day, month := month, year := year } fun _ => hv)
    dsimp only
    exact h1
  · exact hk

theorem keeps_adjustTime (hk : Keeps tk sl s0 s) : Keeps tk sl s0 (adjustTime s).1 := by
  unfold adjustTime
  dsimp only
  split
  · exact hk
  · split
    · exact keeps_calendar hk _ fun h => ⟨by simp, h.2⟩
    · have h1 := keeps_enterMinute (keeps_calendar hk (carryMinute { s.calendar with prescaler := 0, second := 0 })
        fun h => carryMinute_valid _ ⟨by simp, h.2⟩)
      dsimp only
      exact h1

theorem keeps_writeSchedule (hk : Keeps tk sl s0 s) (a : ScheduleArgs) : Keeps tk sl s0 (writeSchedule s a).1 := by
  unfold writeSchedule
  dsimp only
  repeat' split
  all_goals first | exact hk | exact keeps_putSchedule hk _ _ (Nat.zero_le _)

theorem keeps_sweepStart (hk : Keeps tk sl s0 s) (n : Nat) : Keeps tk sl s0 (sweepStart s n).1 := by
  unfold sweepStart
  try dsimp only
  repeat' first
    | with_reducible exact hk | exact fun _ => rfl | exact rfl | with_reducible apply keeps_beginSweep
    | split

theorem keeps_sweepStop (hk : Keeps tk sl s0 s) (n : Nat) : Keeps tk sl s0 (sweepStop s n).1 := by
  unfold sweepStop
  try dsimp only
  repeat' first
    | with_reducible exact hk | exact fun _ => rfl | exact rfl | with_reducible apply keeps_stopSweep
    | split

/-! ### Machine/Queries.lean -/

theorem keeps_readStatus (hk : Keeps tk sl s0 s) (src : Octet) : Keeps tk sl s0 (readStatus s src).1 := by
  unfold readStatus
  dsimp only
  split
  · exact keeps_onPorts hk _ rfl rfl fun hb => hb
  · exact hk

/-! ### Machine/ServiceCommands.lean -/

theorem keeps_setService (hk : Keeps tk sl s0 s) (v : Service) : Keeps tk sl s0 (setService s v) := by
  unfold setService
  try dsimp only
  repeat' first
    | with_reducible exact hk | exact fun _ => rfl | exact rfl | with_reducible apply keeps_onArbiter

theorem keeps_enableService (hk : Keeps tk sl s0 s) : Keeps tk sl s0 (enableService s).1 := by
  unfold enableService
  try dsimp only
  repeat' first
    | with_reducible exact hk | exact fun _ => rfl | exact rfl | with_reducible apply keeps_examineLater
    | with_reducible apply keeps_setService | split

theorem keeps_suspendService (hk : Keeps tk sl s0 s) : Keeps tk sl s0 (suspendService s).1 := by
  unfold suspendService
  try dsimp only
  repeat' first
    | with_reducible exact hk | exact fun _ => rfl | exact rfl | with_reducible apply keeps_setService
    | split

theorem keeps_busRemove (hk : Keeps tk sl s0 s) (bus : Octet) : Keeps tk sl s0 (busRemove s bus).1 := by
  unfold busRemove
  try dsimp only
  repeat' first
    | with_reducible exact hk | exact fun _ => rfl | exact rfl | with_reducible apply keeps_setBusState
    | with_reducible apply keeps_modBus | split

theorem keeps_restoreStuck (hk : Keeps tk sl s0 s) (b : Nat) : Keeps tk sl s0 (restoreStuck s b) := by
  unfold restoreStuck
  try dsimp only
  repeat' first
    | with_reducible exact hk | exact fun _ => rfl | exact rfl | with_reducible apply keeps_giveUpOrders
    | with_reducible apply keeps_freeRiser | with_reducible apply keeps_modBus
    | with_reducible apply keeps_setBusState | split

theorem keeps_busRestore (hk : Keeps tk sl s0 s) (bus : Octet) : Keeps tk sl s0 (busRestore s bus).1 := by
  unfold busRestore
  try dsimp only
  repeat' first
    | with_reducible exact hk | exact fun _ => rfl | exact rfl | with_reducible apply keeps_setBusState
    | with_reducible apply keeps_restoreStuck | with_reducible apply keeps_modBus | split

theorem keeps_dropAccessRetries (hk : Keeps tk sl s0 s) (len : Nat) : Keeps tk sl s0 (dropAccessRetries s len) := by
  unfold dropAccessRetries
  try dsimp only
  repeat' first
    | with_reducible exact hk | exact fun _ => rfl | exact rfl | with_reducible apply keeps_modBus
    | with_reducible apply keeps_giveUpOrders | (with_reducible refine keeps_foldl _ (fun s x hk => ?_) _ ?_)
    | split

theorem keeps_forceRelease (hk : Keeps tk sl s0 s) (len : Half) : Keeps tk sl s0 (forceRelease s len).1 := by
  unfold forceRelease
  try dsimp only
  repeat' first
    | with_reducible exact hk | exact fun _ => rfl | exact rfl | with_reducible apply keeps_modLine
    | with_reducible apply keeps_writeHook | with_reducible apply keeps_setMark
    | with_reducible apply keeps_dropAccessRetries | split

theorem keeps_testRequest (hk : Keeps tk sl s0 s) (src : Octet) (len : Half) (program : Octet) (tag waitLimit : Half)
    : Keeps tk sl s0 (testRequest s src len program tag waitLimit).1 := by
  unfold testRequest
  try dsimp only
  repeat' first
    | with_reducible exact hk | exact fun _ => rfl | exact rfl | with_reducible apply keeps_submitDemand
    | split

theorem keeps_cancelEntry (hk : Keeps tk false s0 s) (r : Requester) (x : Entry) : Keeps tk false s0 (cancelEntry s r x) := by
  unfold cancelEntry
  try dsimp only
  repeat' first
    | with_reducible exact hk | exact fun _ => rfl | exact rfl | with_reducible apply keeps_leaveQueue
    | with_reducible apply keeps_releaseSlot | with_reducible apply keeps_replaceEntry | split

theorem keeps_cancelSession (hk : Keeps tk sl s0 s) (r : Requester) (id : Nat) (x : Session) : Keeps tk sl s0
    (cancelSession s r id x) := by
  unfold cancelSession
  try dsimp only
  repeat' first
    | with_reducible exact hk | exact fun _ => rfl | exact rfl | with_reducible apply keeps_modSession
    | with_reducible apply keeps_endSession | split

/-- The waiting entries of a requester are cancelled (R82). -/
theorem keeps_cancelEntries (hk : Keeps tk sl s0 s) (r : Requester) (p : Entry → Bool) :
    Keeps tk sl s0 ((s.arbiter.queue.filter p).foldl (fun s x => cancelEntry s r x) s) :=
  hk.withSlots (keeps_foldl _ (fun _ x h => keeps_cancelEntry h r x) _ hk.noSlots) fun _ hl =>
    slots_cancelEntries r _ hl (fun _ hx => (List.mem_filter.1 hx).1) (hl.2.2.2.2.1.1.filter _)

theorem keeps_cancelRequest (hk : Keeps tk sl s0 s) (src : Octet) (tag : Half) :
    Keeps tk sl s0 (cancelRequest s src tag).1 :=
  keeps_foldl _ (fun _ x h => keeps_cancelSession h _ x.1 x.2) _ (keeps_cancelEntries hk _ _)

theorem keeps_ticketDispatch (h : Keeps tk sl s0 s) (id : Octet) (tag : Half) : Keeps tk sl s0 (ticketDispatch s id tag).1
    := by
  have hk := h.noTickets
  have ht := fun h => ticketsAgree_ticketDispatch (s := s) h id tag
  refine h.withTickets ?_ ht
  unfold ticketDispatch
  try dsimp only
  repeat' first
    | with_reducible exact hk | exact fun _ => rfl | exact rfl | with_reducible apply keeps_handChange
    | with_reducible apply keeps_modTicket | split

theorem keeps_ticketClose (h : Keeps tk sl s0 s) (src id : Octet) (force : Bool) : Keeps tk sl s0
    (ticketClose s src id force).1 := by
  have hk := h.noTickets
  have ht := fun h => ticketsAgree_ticketClose (s := s) h src id force
  refine h.withTickets ?_ ht
  unfold ticketClose
  try dsimp only
  repeat' first
    | with_reducible exact hk | exact fun _ => rfl | exact rfl
    | with_reducible apply keeps_replaceCableTicket | with_reducible apply keeps_closeTicket | split

theorem keeps_cableAck (h : Keeps tk sl s0 s) (group : Octet) : Keeps tk sl s0 (cableAck s group).1 := by
  have hk := h.noTickets
  have ht := fun h => ticketsAgree_cableAck (s := s) h group
  refine h.withTickets ?_ ht
  unfold cableAck
  try dsimp only
  repeat' first
    | with_reducible exact hk | exact fun _ => rfl | exact rfl | with_reducible apply keeps_modTicket
    | split

theorem keeps_setNotices (hk : Keeps tk sl s0 s) (src kinds : Octet) : Keeps tk sl s0 (setNotices s src kinds).1 := by
  unfold setNotices
  try dsimp only
  repeat' first
    | with_reducible exact hk | exact fun _ => rfl | exact rfl | with_reducible apply keeps_putUnit
    | split

/-! ### Machine/Restart.lean -/

theorem keeps_interpRestart (hk : Keeps tk false s0 s) : Keeps tk false s0 (interpRestart s) := by
  unfold interpRestart
  try dsimp only
  repeat' first
    | with_reducible exact hk | exact fun _ => rfl | exact rfl | with_reducible apply keeps_store

theorem keeps_reofferTestBlocks (hk : Keeps tk sl s0 s) (lens : List Nat) :
    Keeps tk sl s0 (reofferTestBlocks s lens) :=
  keeps_foldl _ (fun s n h => keeps_offerTestBlock h n (lineOf s n).blocked fun hb => hb n) _ hk

theorem keeps_startLostAudits (hk : Keeps tk sl s0 s) : Keeps tk sl s0 (startLostAudits s) := by
  unfold startLostAudits
  try dsimp only
  repeat' first
    | with_reducible exact hk | exact fun _ => rfl | exact rfl | with_reducible apply keeps_modShelf
    | (with_reducible refine keeps_foldl _ (fun s x hk => ?_) _ ?_)

theorem keeps_arbiterRestart (hk : Keeps tk false s0 s) : Keeps tk false s0 (arbiterRestart s) :=
  keeps_putQueue hk [] fun _ => ⟨by simp, by simp [routineCount]⟩

theorem keeps_tablesRestart (hk : Keeps tk sl s0 s) : Keeps tk sl s0 (tablesRestart s) := by
  unfold tablesRestart
  try dsimp only
  repeat' first
    | with_reducible exact hk | exact fun _ => rfl | exact rfl | with_reducible apply keeps_onTables
    | split | rfl | exact fun hb => hb

theorem keeps_checkerRestart (hk : Keeps tk sl s0 s) (h : Nat) : Keeps tk sl s0 (checkerRestart s h) := by
  unfold checkerRestart
  try dsimp only
  repeat' first
    | with_reducible exact hk | exact fun _ => rfl | exact rfl | with_reducible apply keeps_putChecker
    | with_reducible apply keeps_equipmentPass | split

theorem keeps_schedulesRestart (hk : Keeps tk sl s0 s) : Keeps tk sl s0 (schedulesRestart s) := by
  unfold schedulesRestart
  refine keeps_foldl _ (fun s n hs => keeps_modRun hs _ _ fun _ => ?_) _ hk
  unfold runRestart
  dsimp only
  split <;> exact Nat.zero_le _

theorem keeps_nameRestarted (hk : Keeps tk sl s0 s) (id : Nat) : Keeps tk sl s0 (nameRestarted s id) := by
  unfold nameRestarted
  try dsimp only
  repeat' first
    | with_reducible exact hk | exact fun _ => rfl | exact rfl | with_reducible apply keeps_modSession

theorem keeps_restartReserved (hk : Keeps tk sl s0 s) (id b line : Nat) (unsent : Bool) : Keeps tk sl s0
    (restartReserved s id b line unsent) := by
  unfold restartReserved
  try dsimp only
  repeat' first
    | with_reducible exact hk | exact fun _ => rfl | exact rfl | with_reducible apply keeps_finishSession
    | with_reducible apply keeps_nameRestarted | with_reducible apply keeps_busReleased
    | with_reducible apply keeps_freeRiser | with_reducible apply keeps_startCleanUp | split

theorem keeps_restartSession (hk : Keeps tk sl s0 s) (engine : Engine) (meas : Measurement) (id : Nat) : Keeps tk sl s0
    (restartSession engine meas s id) := by
  unfold restartSession
  try dsimp only
  repeat' first
    | with_reducible exact hk | exact fun _ => rfl | exact rfl | with_reducible apply keeps_finishSession
    | with_reducible apply keeps_nameRestarted | with_reducible apply keeps_offerSouth
    | with_reducible apply keeps_restartReserved | with_reducible apply keeps_accessReleased
    | with_reducible apply keeps_requestOrder | with_reducible apply keeps_requestRelease | split

theorem keeps_restartBus (hk : Keeps tk sl s0 s) (b : Nat) : Keeps tk sl s0 (restartBus s b) := by
  unfold restartBus
  try dsimp only
  repeat' first
    | with_reducible exact hk | exact fun _ => rfl | exact rfl | with_reducible apply keeps_modBus
    | with_reducible apply keeps_busToFree | with_reducible apply keeps_setBusState | split

theorem keeps_beginStartUp (hk : Keeps tk sl s0 s) : Keeps tk sl s0 (beginStartUp s) := by
  unfold beginStartUp
  try dsimp only
  repeat' first
    | with_reducible exact hk | exact fun _ => rfl | exact rfl | with_reducible apply keeps_onEngine
    | with_reducible apply keeps_requestOrder | (with_reducible refine keeps_foldl _ (fun s x hk => ?_) _ ?_)

theorem keeps_engineRestart (hk : Keeps tk sl s0 s) : Keeps tk sl s0 (engineRestart s) := by
  unfold engineRestart
  try dsimp only
  repeat' first
    | with_reducible exact hk | exact fun _ => rfl | exact rfl | with_reducible apply keeps_onEngine
    | with_reducible apply keeps_onMeas | with_reducible apply keeps_restartSession
    | with_reducible apply keeps_requestOrder | with_reducible apply keeps_restartBus
    | with_reducible apply keeps_beginStartUp | (with_reducible refine keeps_foldl _ (fun s x hk => ?_) _ ?_)

/-- A notice leaves the session table and the result slots alone. -/
theorem notify_slots (s : State) (n : Notice) : (notify s n).engine = s.engine ∧
    (notify s n).interp.slots = s.interp.slots ∧ (notify s n).interp.fillingOrder = s.interp.fillingOrder := by
  unfold notify
  induction (List.range 9) generalizing s with
  | nil => exact ⟨rfl, rfl, rfl⟩
  | cons u rest ih =>
    have h1 : ∀ s : State, (offerToUnit s u n).engine = s.engine ∧ (offerToUnit s u n).interp.slots = s.interp.slots ∧
        (offerToUnit s u n).interp.fillingOrder = s.interp.fillingOrder := fun s => by
      unfold offerToUnit
      dsimp only
      repeat' split
      all_goals exact ⟨rfl, rfl, rfl⟩
    simp only [List.foldl_cons]
    split
    · obtain ⟨a1, a2, a3⟩ := ih (offerToUnit s u n)
      obtain ⟨b1, b2, b3⟩ := h1 s
      exact ⟨a1.trans b1, a2.trans b2, a3.trans b3⟩
    · exact ih s

/-- A TEST BLOCK report offered leaves the session table and the result store alone. -/
theorem reofferTestBlocks_store (s : State) (lens : List Nat) :
    (reofferTestBlocks s lens).engine = s.engine ∧ (reofferTestBlocks s lens).interp = s.interp := by
  unfold reofferTestBlocks
  induction lens generalizing s with
  | nil => exact ⟨rfl, rfl⟩
  | cons n rest ih =>
    obtain ⟨a1, a2⟩ := ih (offerTestBlock s n (lineOf s n).blocked)
    have h1 : (offerTestBlock s n (lineOf s n).blocked).engine = s.engine ∧
        (offerTestBlock s n (lineOf s n).blocked).interp = s.interp := by
      unfold offerTestBlock offerUrgent
      dsimp only
      repeat' split
      all_goals exact ⟨rfl, rfl⟩
    exact ⟨a1.trans h1.1, a2.trans h1.2⟩

theorem startLostAudits_store (s : State) :
    (startLostAudits s).engine = s.engine ∧ (startLostAudits s).interp = s.interp := by
  unfold startLostAudits
  induction (List.range 16) generalizing s with
  | nil => exact ⟨rfl, rfl⟩
  | cons n rest ih => exact ih _

/-- A warm restart up to where the request queue is emptied (R209). -/
def restartedQueue (s : State) (lens : List Nat) : State :=
  let s := onArbiter (interpRestart s) recordReturn
  arbiterRestart (startLostAudits (reofferTestBlocks (notify s (.restart s.arbiter.returnTo)) lens))

theorem warmRestart_eq (s : State) (answer : Cell) : warmRestart s answer = engineRestart (schedulesRestart
    ((List.range 4).foldl checkerRestart (tablesRestart
      (restartedQueue (joinNormal (onPorts s portsRestart) [answer]) (waitingTestBlocks s.ports))))) := by
  unfold warmRestart restartedQueue
  rfl

/-- The slots after warm restart are those of the sessions (R209). -/
theorem slots_restartedQueue (lens : List Nat) (hs : SlotsAgree s) : SlotsAgree (restartedQueue s lens) := by
  obtain ⟨a1, a2, a3⟩ := notify_slots (onArbiter (interpRestart s) recordReturn)
    (.restart (onArbiter (interpRestart s) recordReturn).arbiter.returnTo)
  unfold restartedQueue
  dsimp only
  generalize notify (onArbiter (interpRestart s) recordReturn)
    (.restart (onArbiter (interpRestart s) recordReturn).arbiter.returnTo) = x at a1 a2 a3
  obtain ⟨b1, b2⟩ := reofferTestBlocks_store x lens
  generalize reofferTestBlocks x lens = y at b1 b2
  obtain ⟨c1, c2⟩ := startLostAudits_store y
  generalize startLostAudits y = z at c1 c2
  refine slots_restart hs ?_ rfl ?_ ?_
  · exact congrArg Engine.sessions (c1.trans (b1.trans a1))
  · exact (congrArg Interpreter.slots (c2.trans b2)).trans a2
  · exact (congrArg Interpreter.fillingOrder (c2.trans b2)).trans a3

/-- A warm restart releases the places reserved in the NORMAL queue, which its RESPONSE alone is left in (R21), and
every result slot but those of the sessions (R209). -/
theorem follows_warmRestart (hk : Keeps true true s0 s) (answer : Cell) : Follows s0 (warmRestart s answer) := by
  let s1 := joinNormal (onPorts s portsRestart) [answer]
  have h1 : Follows s0 s1 :=
    ⟨hk.pending, hk.clock, hk.straps, hk.asserted, hk.calendar, hk.levels,
      fun hb => by
        have := hk.ports hb
        exact ⟨by simp [s1, joinNormal, onPorts, portsRestart], by simp [s1, joinNormal, onPorts, portsRestart],
          by simp [s1, joinNormal, onPorts, portsRestart], this.2.2.2.1, this.2.2.2.2⟩,
      hk.hooks, hk.queue,
      fun hb => ⟨by simp [s1, joinNormal, onPorts, portsRestart], (hk.normal hb).2⟩, hk.blocks, hk.tickets rfl,
      hk.slots rfl []⟩
  let s4 := restartedQueue s1 (waitingTestBlocks s.ports)
  have h2 : Keeps true false s1 s4 :=
    keeps_arbiterRestart (keeps_startLostAudits (keeps_reofferTestBlocks (keeps_notify
      (keeps_onArbiter (keeps_interpRestart (Keeps.refl s1)) _ rfl rfl) _) _))
  have h3 : Follows s1 s4 :=
    ⟨h2.pending, h2.clock, h2.straps, h2.asserted, h2.calendar, h2.levels, h2.ports, h2.hooks, h2.queue, h2.normal,
      h2.blocks, h2.tickets rfl, slots_restartedQueue _⟩
  rw [warmRestart_eq]
  refine (h1.trans h3).trans (Keeps.follows ?_)
  exact keeps_engineRestart (keeps_schedulesRestart (keeps_foldl _ (fun s h hs => keeps_checkerRestart hs h) _
    (keeps_tablesRestart (Keeps.refl s4))))

/-! ### Machine/TableStore.lean -/

theorem keeps_directoryWritten (hk : Keeps tk sl s0 s) (len : Nat) : Keeps tk sl s0 (directoryWritten s len) := by
  unfold directoryWritten
  split
  · exact keeps_examineLater hk
  · exact hk

theorem keeps_putDirectory (h : Keeps tk sl s0 s) (len : Nat) (d : Option DirectoryEntry) :
    Keeps tk sl s0 (putDirectory s len d) := by
  have hk := h.noTickets
  have h1 : Keeps false sl s0 (onTables s (fun t => { t with directory := tabPut none t.directory len d })) :=
    ⟨hk.pending, hk.clock, hk.straps, hk.asserted, hk.calendar, hk.levels, hk.ports, hk.hooks, hk.queue, hk.normal,
      hk.reserved, hk.blocks, fun e => (nomatch e), hk.slots⟩
  exact h.withTickets (keeps_directoryWritten (keeps_groupMoved h1 _ _ _) _) fun ht => ticketsAgree_putDirectory ht len d

theorem keeps_writeLine (hk : Keeps tk sl s0 s) (len : Half) (lineType profile group flags : Octet) : Keeps tk sl s0
    (writeLine s len lineType profile group flags).1 := by
  unfold writeLine
  try dsimp only
  repeat' first
    | with_reducible exact hk | exact fun _ => rfl | exact rfl | with_reducible apply keeps_putDirectory
    | split

theorem keeps_clearLine (hk : Keeps tk sl s0 s) (len : Half) : Keeps tk sl s0 (clearLine s len).1 := by
  unfold clearLine
  repeat' first
    | with_reducible exact hk | with_reducible apply keeps_putDirectory
    | with_reducible apply keeps_directoryWritten | split

theorem keeps_writeProfile (hk : Keeps tk sl s0 s) (a : ProfileArgs) : Keeps tk sl s0 (writeProfile s a).1 := by
  unfold writeProfile
  try dsimp only
  repeat' first
    | with_reducible exact hk | exact fun _ => rfl | exact rfl | with_reducible apply keeps_onTables
    | split | rfl | exact fun hb => hb

theorem keeps_putBuffer (hk : Keeps tk sl s0 s) (n : Nat) (b : Option LoadBuffer) : Keeps tk sl s0 (putBuffer s n b) := by
  unfold putBuffer
  try dsimp only
  repeat' first
    | with_reducible exact hk | exact fun _ => rfl | exact rfl | with_reducible apply keeps_onTables
    | split | rfl | exact fun hb => hb

theorem keeps_abandonLoad (hk : Keeps tk sl s0 s) (n : Nat) (src : Octet) : Keeps tk sl s0 (abandonLoad s n src) := by
  unfold abandonLoad
  try dsimp only
  repeat' first
    | with_reducible exact hk | exact fun _ => rfl | exact rfl | with_reducible apply keeps_putBuffer
    | split

theorem keeps_writeProgramStep (hk : Keeps tk sl s0 s) (src program : Octet) (i : Nat) (raw : RawStep) : Keeps tk sl s0
    (writeProgramStep s src program i raw).1 := by
  unfold writeProgramStep
  try dsimp only
  repeat' first
    | with_reducible exact hk | exact fun _ => rfl | exact rfl | with_reducible apply keeps_putBuffer
    | with_reducible apply keeps_abandonLoad | split

theorem keeps_writeProgramFinal (hk : Keeps tk sl s0 s) (src program : Octet) (i count : Nat) (routine : Bool)
    (raw : RawStep) : Keeps tk sl s0 (writeProgramFinal s src program i count routine raw).1 := by
  unfold writeProgramFinal
  try dsimp only
  repeat' first
    | with_reducible exact hk | exact fun _ => rfl | exact rfl | with_reducible apply keeps_putBuffer
    | with_reducible apply keeps_onTables | with_reducible apply keeps_abandonLoad | split | rfl
    | exact fun hb => hb

theorem keeps_writeProgramClear (hk : Keeps tk sl s0 s) (src program : Octet) : Keeps tk sl s0
    (writeProgramClear s src program).1 := by
  unfold writeProgramClear
  try dsimp only
  repeat' first
    | with_reducible exact hk | exact fun _ => rfl | exact rfl | with_reducible apply keeps_onTables
    | with_reducible apply keeps_abandonLoad | split | rfl | exact fun hb => hb

theorem keeps_restartChecker (hk : Keeps tk sl s0 s) (h : Nat) : Keeps tk sl s0 (restartChecker s h) := by
  unfold restartChecker
  try dsimp only
  repeat' first
    | with_reducible exact hk | exact fun _ => rfl | exact rfl | with_reducible apply keeps_putChecker

theorem keeps_writeHead (hk : Keeps tk sl s0 s) (head : Octet) (interval : Half) (target : Octet) (mode : ModeField) :
    Keeps tk sl s0 (writeHead s head interval target mode).1 := by
  unfold writeHead
  try dsimp only
  repeat' first
    | with_reducible exact hk | exact fun _ => rfl | exact rfl | with_reducible apply keeps_onTables
    | with_reducible apply keeps_restartChecker | split | rfl | exact fun hb => hb

theorem keeps_writeHazard (hk : Keeps tk sl s0 s) (danger clear : Triple) : Keeps tk sl s0 (writeHazard s danger clear).1 := by
  unfold writeHazard
  dsimp only
  split
  · rename_i hr
    exact keeps_onTables hk (fun t => { t with danger := danger.toNat, clear := clear.toNat }) (fun _ => hr) rfl
  · exact hk

theorem keeps_writePrivilege (hk : Keeps tk sl s0 s) (unit groups : Octet) : Keeps tk sl s0 (writePrivilege s unit groups).1
    := by
  unfold writePrivilege
  try dsimp only
  repeat' first
    | with_reducible exact hk | exact fun _ => rfl | exact rfl | with_reducible apply keeps_onTables
    | split | rfl | exact fun hb => hb

theorem keeps_writeGroupThreshold (hk : Keeps tk sl s0 s) (group threshold : Octet) : Keeps tk sl s0
    (writeGroupThreshold s group threshold).1 := by
  unfold writeGroupThreshold
  try dsimp only
  repeat' first
    | with_reducible exact hk | exact fun _ => rfl | exact rfl
    | with_reducible apply keeps_thresholdChanged | with_reducible apply keeps_onTables | split | rfl
    | exact fun hb => hb

/-! ### Machine/Commands.lean -/

theorem keeps_answering {r : State × ResponseCode} (hr : Keeps tk sl s0 r.1) : Keeps tk sl s0 (answering r).1 := hr


theorem keeps_carryOut (hk : Keeps tk sl s0 s) (src : Octet) (x0 : Command) : Keeps tk sl s0 (carryOut s src x0).1 := by
  unfold carryOut
  try dsimp only
  repeat' first
    | with_reducible exact hk | exact fun _ => rfl | exact rfl | with_reducible apply keeps_enableService
    | with_reducible apply keeps_answering | with_reducible apply keeps_suspendService
    | with_reducible apply keeps_busRemove | with_reducible apply keeps_busRestore
    | with_reducible apply keeps_forceRelease | with_reducible apply keeps_writeLine
    | with_reducible apply keeps_clearLine | with_reducible apply keeps_writeProfile
    | with_reducible apply keeps_writeProgramStep | with_reducible apply keeps_writeProgramFinal
    | with_reducible apply keeps_writeProgramClear | with_reducible apply keeps_writeHead
    | with_reducible apply keeps_writeHazard | with_reducible apply keeps_writePrivilege
    | with_reducible apply keeps_writeGroupThreshold | with_reducible apply keeps_writeSchedule
    | with_reducible apply keeps_sweepStart | with_reducible apply keeps_sweepStop
    | with_reducible apply keeps_setTime | with_reducible apply keeps_adjustTime
    | with_reducible apply keeps_testRequest | with_reducible apply keeps_cancelRequest
    | with_reducible apply keeps_ticketDispatch | with_reducible apply keeps_ticketClose
    | with_reducible apply keeps_cableAck | with_reducible apply keeps_readStatus
    | with_reducible apply keeps_setNotices | split

theorem keeps_judgeCommand (hk : Keeps tk sl s0 s) (src : Octet) (c : Command) : Keeps tk sl s0 (judgeCommand s src c).1 := by
  unfold judgeCommand
  try dsimp only
  repeat' first
    | with_reducible exact hk | exact fun _ => rfl | exact rfl | with_reducible apply keeps_carryOut
    | split

/-- No answer needs more cells than its command's places (R198), a deferred list holding at most 32 lines. -/
theorem answerCells_length (s : State) (src dst own : Octet) (tag : Half) (c : Command)
    (hd : ∀ n, (scheduleAt s n).run.deferredLines.length ≤ 32) :
    (answerCells own dst tag (commandCode c) (judgeCommand s src c).2).length ≤ answerPlaces (commandCode c) := by
  have h1 : ∀ code, 1 ≤ answerPlaces code := by
    intro code
    unfold answerPlaces
    split <;> omega
  have hc : (carryOut s src c).2.replies.length + 1 ≤ answerPlaces (commandCode c) := by
    cases c with
    | readQueue p =>
      have : ∀ l : List Entry, (l.flatMap entryReplies).length = 2 * l.length := by
        intro l
        induction l with
        | nil => rfl
        | cons x rest ih => simp only [List.flatMap_cons, List.length_append, ih, entryReplies, List.length_cons,
            List.length_nil]; omega
      simp only [carryOut, readQueue]
      split
      · exact h1 _
      · simp only [this, List.length_take]
        show _ ≤ 9
        omega
    | readSweep n =>
      simp only [carryOut, readSweep]
      repeat' split
      · exact h1 _
      · exact h1 _
      · have := hd n.toNat
        simp only [byFours, List.length_append, List.length_cons, List.length_nil, List.length_map, List.length_range]
        show _ ≤ 13
        omega
    | ticketList place =>
      have : ∀ ts, (ticketPage ts).replies.length + 1 ≤ 11 := by
        intro ts
        simp only [ticketPage, List.length_map, List.length_take]
        omega
      simp only [carryOut, ticketList]
      repeat' split
      · exact this _
      · exact h1 _
      · exact this _
      · exact h1 _
    | ticketRead id =>
      simp only [carryOut, ticketRead]
      split
      · exact h1 _
      · exact Nat.le_refl 4
    | readLine len =>
      simp only [carryOut, readLine]
      split
      · exact h1 _
      · exact Nat.le_refl 2
    | readTime =>
      simp only [carryOut, readTime]
      show _ ≤ 2
      split <;> simp
    | readStatus => exact Nat.le_refl 3
    | readBus => exact Nat.le_refl 5
    | readHeadCounts => exact Nat.le_refl 5
    | _ => exact h1 _
  unfold judgeCommand
  split
  · simpa [answerCells] using hc
  · simpa [answerCells, plainAnswer] using h1 _

/-- An accepted command keeps the NORMAL queue within its room: its answer joins against its reservation (R13,
R196, R198). -/
theorem keeps_acceptCommand (hk : Keeps tk sl s0 s) (src : Octet) (tag : Half) (c : Command)
    (hr : answerPlaces (commandCode c) ≤ normalRoom s) : Keeps tk sl s0 (acceptCommand s src tag c) := by
  let s1 := reservePlaces s (answerPlaces (commandCode c))
  have hj := keeps_judgeCommand (tk := tk) (sl := sl) (Keeps.refl s1) src c
  have hc := fun hd => answerCells_length s1 src src (own s) tag c hd
  unfold acceptCommand
  show Keeps tk sl s0 (joinNormal (releasePlaces (judgeCommand s1 src c).1 (answerPlaces (commandCode c)))
    (answerCells (own s) src tag (commandCode c) (judgeCommand s1 src c).2))
  generalize judgeCommand s1 src c = r at hj hc
  refine ⟨hj.pending.trans hk.pending, hj.clock.trans hk.clock, hj.straps.trans hk.straps,
    hj.asserted.trans hk.asserted, fun h => hj.calendar (hk.calendar h), fun h => hj.levels (hk.levels h),
    fun h => hj.ports (hk.ports h), fun h => hj.hooks (hk.hooks h), fun h => hj.queue (hk.queue h), fun h => ?_, ?_,
    fun h => hj.blocks (hk.blocks h), fun e h => hj.tickets e (hk.tickets e h), fun e l h => hj.slots e l (hk.slots e l h)⟩
  · have hb := hk.normal h
    simp only [normalRoom, Config.normalCapacity] at hr
    have hn := hj.normal ⟨by simp only [s1, reservePlaces, onPorts]; omega, hb.2⟩
    refine ⟨?_, hn.2⟩
    have h1 := hn.1
    have h2 := hc hb.2
    have h3 := hj.reserved
    simp only [s1, reservePlaces, onPorts] at h1 h2 h3
    simp only [joinNormal, releasePlaces, onPorts, List.length_append]
    omega
  · have h3 := hj.reserved
    simp only [s1, reservePlaces, onPorts] at h3
    simp only [joinNormal, releasePlaces, onPorts, h3]
    have := hk.reserved
    omega

theorem follows_takeCommand (hk : Keeps true true s0 s) (src : Octet) (tag : Half) (c : Command) : Follows s0
    (takeCommand s src tag c) := by
  unfold takeCommand
  split
  · exact (keeps_countDropped hk _).follows
  · split
    · exact follows_warmRestart hk _
    · exact (keeps_acceptCommand hk _ _ _ (by omega)).follows

theorem keeps_dropAssembly (hk : Keeps tk sl s0 s) (src : Octet) : Keeps tk sl s0 (dropAssembly s src) := by
  unfold dropAssembly
  try dsimp only
  repeat' first
    | with_reducible exact hk | exact fun _ => rfl | exact rfl | with_reducible apply keeps_onInterp

theorem keeps_putAssembly (hk : Keeps tk sl s0 s) (x : Assembly) : Keeps tk sl s0 (putAssembly s x) := by
  unfold putAssembly
  try dsimp only
  repeat' first
    | with_reducible exact hk | exact fun _ => rfl | exact rfl | with_reducible apply keeps_onInterp

theorem follows_takeCommandCell (hk : Keeps true true s0 s) (c : Cell) : Follows s0 (takeCommandCell s c) := by
  unfold takeCommandCell
  dsimp only
  have hd := fun tag x => follows_takeCommand (keeps_dropAssembly hk c.src) c.src tag x
  split
  · exact follows_takeCommand hk _ _ _
  · split
    · exact (keeps_putAssembly hk _).follows
    · split
      · split
        · split
          · exact (keeps_putAssembly hk _).follows
          · exact hd _ _
        · exact hd _ _
      · exact follows_takeCommand hk _ _ _

theorem keeps_putPace (hk : Keeps tk sl s0 s) (p : Pace) : Keeps tk sl s0 (putPace s p) := by
  unfold putPace
  try dsimp only
  repeat' first
    | with_reducible exact hk | exact fun _ => rfl | exact rfl | with_reducible apply keeps_onInterp

theorem follows_paceExpired (hk : Keeps true true s0 s) : Follows s0 (paceExpired s) := by
  unfold paceExpired
  split
  · exact (keeps_putPace hk _).follows
  · rename_i c rest hc
    refine follows_takeCommandCell (keeps_putPace (keeps_onPorts hk _ rfl rfl fun hb => ?_) _) _
    have := hb.2.2.1
    rw [hc] at this
    exact ⟨hb.1, hb.2.1, by simp only [List.length_cons] at this; dsimp only; omega, hb.2.2.2⟩

theorem follows_takeIn (hk : Keeps true true s0 s) (c : Cell) : Follows s0 (takeIn s c) := by
  unfold takeIn
  split
  · rename_i hr
    have h1 : Keeps true true s0 (onPorts s (fun p => { p with intake := p.intake ++ [c] })) :=
      keeps_onPorts hk _ rfl rfl (fun hb => ⟨hb.1, hb.2.1, by
        simp only [Config.intakeCapacity] at hr
        simp only [List.length_append, List.length_singleton]; omega, hb.2.2.2⟩)
    dsimp only
    repeat' split
    · exact (keeps_putPace h1 _).follows
    · exact h1.follows
    · exact follows_paceExpired h1
  · exact (keeps_countDropped
      (keeps_modPort hk .north (fun x => { x with intakeOverrun := true }) (fun _ hx => hx)) _).follows

end Sys2Proof.Machine
end

