-- ==== Sys2Proof/Laws/KeepsCells.lean ====
section
/-! SUPPORT. What the delivery of a cell, the insertions and the part's own timers keep
(`Keeps`). -/

namespace Sys2Proof.Machine

set_option Elab.async false

variable {tk sl : Bool} {s0 s : State}

/-! ### Machine/Dispositions.lean -/

theorem keeps_passOn (hk : Keeps tk sl s0 s) (p : Side) (c : Cell) : Keeps tk sl s0 (passOn s p c) := by
  unfold passOn
  try dsimp only
  repeat' first
    | with_reducible exact hk | exact fun _ => rfl | exact rfl | with_reducible apply keeps_transmit

theorem keeps_leaveSlot (hk : Keeps tk sl s0 s) (p : Side) : Keeps tk sl s0 (leaveSlot s p) := by
  unfold leaveSlot
  try dsimp only
  repeat' first
    | with_reducible exact hk | exact fun _ => rfl | exact rfl | with_reducible apply keeps_giveSlot

theorem keeps_lengthenRun (hk : Keeps tk sl s0 s) (p : Side) : Keeps tk sl s0 (lengthenRun s p) := by
  refine keeps_modPort hk _ _ (fun x hx => ?_)
  split
  · exact ⟨hx.1, hx.2.1, by simp⟩
  · exact hx

theorem keeps_badDelivered (hk : Keeps tk sl s0 s) (p : Side) (c : Cell) : Keeps tk sl s0 (badDelivered s p c) := by
  have h1 := keeps_modPort hk p (fun x => { x with checkError := true, badChecks := count32 x.badChecks })
    (fun _ hx => ⟨count32_le _, hx.2⟩)
  unfold badDelivered
  dsimp only
  refine keeps_lengthenRun ?_ _
  split
  · exact keeps_leaveSlot h1 _
  · exact keeps_passOn h1 _ _

theorem keeps_discardDelivered (hk : Keeps tk sl s0 s) (p : Side) (c : Cell) : Keeps tk sl s0 (discardDelivered s p c) := by
  unfold discardDelivered
  try dsimp only
  repeat' first
    | with_reducible exact hk | exact fun _ => rfl | exact rfl | with_reducible apply keeps_leaveSlot
    | with_reducible apply keeps_countDropped | split

theorem keeps_passReport (hk : Keeps tk sl s0 s) (c : Cell) (len : Nat) (r : Report) : Keeps tk sl s0 (passReport s c len r)
    := by
  unfold passReport
  try dsimp only
  repeat' first
    | with_reducible exact hk | exact fun _ => rfl | exact rfl | with_reducible apply keeps_passOn
    | with_reducible apply keeps_forwardReport | with_reducible apply keeps_applyReport

theorem keeps_abandonOnReport (hk : Keeps tk sl s0 s) (c : Cell) (len id : Nat) (r : Report) : Keeps tk sl s0
    (abandonOnReport s c len id r) := by
  unfold abandonOnReport
  try dsimp only
  repeat' first
    | with_reducible exact hk | exact fun _ => rfl | exact rfl | with_reducible apply keeps_dropReserved
    | with_reducible apply keeps_applyReport | with_reducible apply keeps_leaveSlot
    | with_reducible apply keeps_offerUrgent

theorem keeps_reportDisposed (hk : Keeps tk sl s0 s) (c : Cell) (len : Nat) (r : Report) : Keeps tk sl s0
    (reportDisposed s c len r) := by
  unfold reportDisposed
  try dsimp only
  repeat' first
    | with_reducible exact hk | exact fun _ => rfl | exact rfl | with_reducible apply keeps_leaveSlot
    | with_reducible apply keeps_passReport | with_reducible apply keeps_abandonOnReport
    | with_reducible apply keeps_dialReport | with_reducible apply keeps_applyReport | split

theorem keeps_reportDelivered (hk : Keeps tk sl s0 s) (c : Cell) : Keeps tk sl s0 (reportDelivered s c) := by
  unfold reportDelivered
  try dsimp only
  repeat' first
    | with_reducible exact hk | exact fun _ => rfl | exact rfl
    | with_reducible apply keeps_reportDisposed | with_reducible apply keeps_passOn | split

theorem keeps_dropHeldOrder (hk : Keeps tk sl s0 s) (len : Nat) : Keeps tk sl s0 (dropHeldOrder s len) := by
  unfold dropHeldOrder
  try dsimp only
  repeat' first
    | with_reducible exact hk | exact fun _ => rfl | exact rfl | with_reducible apply keeps_modSession
    | split

theorem keeps_stopRing (hk : Keeps tk sl s0 s) (c : Cell) (len : Nat) : Keeps tk sl s0 (stopRing s c len) := by
  unfold stopRing
  try dsimp only
  repeat' first
    | with_reducible exact hk | exact fun _ => rfl | exact rfl | with_reducible apply keeps_dropHeldOrder
    | with_reducible apply keeps_passOn | with_reducible apply keeps_writeHook | split

theorem keeps_passRing (hk : Keeps tk sl s0 s) (c : Cell) (len : Nat) : Keeps tk sl s0 (passRing s c len) := by
  unfold passRing
  try dsimp only
  repeat' first
    | with_reducible exact hk | exact fun _ => rfl | exact rfl | with_reducible apply keeps_writeHook
    | with_reducible apply keeps_passOn

theorem keeps_refuseRing (hk : Keeps tk sl s0 s) (len : Nat) (h : underTest s len = true) :
    Keeps tk sl s0 (refuseRing s len) :=
  keeps_leaveSlot (keeps_offerTestBlock hk len true fun _ => h.symm) _

theorem keeps_holdRing (hk : Keeps tk sl s0 s) (c : Cell) (id : Nat) (x : Session) : Keeps tk sl s0 (holdRing s c id x) := by
  unfold holdRing
  try dsimp only
  repeat' first
    | with_reducible exact hk | exact fun _ => rfl | exact rfl | with_reducible apply keeps_leaveSlot
    | with_reducible apply keeps_endSession | with_reducible apply keeps_modSession | split

theorem keeps_ringThrough (hk : Keeps tk sl s0 s) (c : Cell) (len id : Nat) (x : Session) : Keeps tk sl s0
    (ringThrough s c len id x) := by
  unfold ringThrough
  try dsimp only
  repeat' first
    | with_reducible exact hk | exact fun _ => rfl | exact rfl | with_reducible apply keeps_passRing
    | with_reducible apply keeps_endSession | split

theorem keeps_applyRing (hk : Keeps tk sl s0 s) (c : Cell) (len : Nat) : Keeps tk sl s0 (applyRing s c len) := by
  unfold applyRing
  split
  · split
    · exact keeps_leaveSlot hk _
    · exact keeps_passRing hk _ _
  · rename_i h
    have hr := keeps_refuseRing hk len (by simpa using h)
    split
    · exact hr
    · repeat' split
      · exact hr
      · exact hr
      · exact keeps_endSession (keeps_passRing hk _ _) _ _
      · exact keeps_holdRing hk _ _ _
      · exact keeps_ringThrough hk _ _ _ _

theorem keeps_lineOrderDelivered (hk : Keeps tk sl s0 s) (c : Cell) : Keeps tk sl s0 (lineOrderDelivered s c) := by
  unfold lineOrderDelivered
  try dsimp only
  repeat' first
    | with_reducible exact hk | exact fun _ => rfl | exact rfl | with_reducible apply keeps_applyRing
    | with_reducible apply keeps_stopRing | with_reducible apply keeps_passOn | split

theorem keeps_summaryDelivered (hk : Keeps tk sl s0 s) (c : Cell) : Keeps tk sl s0 (summaryDelivered s c) := by
  unfold summaryDelivered
  try dsimp only
  repeat' first
    | with_reducible exact hk | exact fun _ => rfl | exact rfl | with_reducible apply keeps_passOn
    | with_reducible apply keeps_readSummary | split

theorem keeps_auditDelivered (hk : Keeps tk sl s0 s) (c : Cell) : Keeps tk sl s0 (auditDelivered s c) := by
  unfold auditDelivered
  try dsimp only
  repeat' first
    | with_reducible exact hk | exact fun _ => rfl | exact rfl
    | with_reducible apply keeps_takeAuditReport | with_reducible apply keeps_leaveSlot

theorem keeps_ackDelivered (hk : Keeps tk sl s0 s) (c : Cell) : Keeps tk sl s0 (ackDelivered s c) := by
  unfold ackDelivered
  try dsimp only
  repeat' first
    | with_reducible exact hk | exact fun _ => rfl | exact rfl | with_reducible apply keeps_leaveSlot
    | with_reducible apply keeps_orderAcked | with_reducible apply keeps_removeOrder | split

theorem keeps_sampleDelivered (hk : Keeps tk sl s0 s) (c : Cell) : Keeps tk sl s0 (sampleDelivered s c) := by
  have h := keeps_takeSample (keeps_leaveSlot hk .south) c
  unfold sampleDelivered
  split <;> rename_i heq <;> rw [heq] at h
  · exact keeps_windowEnded h _ _
  · exact h

theorem follows_commandDelivered (hk : Keeps true true s0 s) (c : Cell) : Follows s0 (commandDelivered s c) :=
  follows_takeIn (keeps_leaveSlot hk .north) c

theorem follows_dispose (hk : Keeps true true s0 s) (p : Side) (c : Cell) (x : Disposition) : Follows s0 (dispose s p c x) := by
  cases x with
  | bad => exact (keeps_badDelivered hk _ _).follows
  | idle => exact (keeps_leaveSlot hk _).follows
  | command => exact follows_commandDelivered hk _
  | sample => exact (keeps_sampleDelivered hk _).follows
  | orderAck => exact (keeps_ackDelivered hk _).follows
  | auditReport => exact (keeps_auditDelivered hk _).follows
  | discarded => exact (keeps_discardDelivered hk _ _).follows
  | lineReport => exact (keeps_reportDelivered hk _).follows
  | lineOrder => exact (keeps_lineOrderDelivered hk _).follows
  | scanSummary => exact (keeps_summaryDelivered hk _).follows
  | transit => exact (keeps_passOn hk _ _).follows

theorem follows_deliverCell (hk : Keeps true true s0 s) (p : Side) (c : Cell) : Follows s0 (deliverCell s p c) := by
  unfold deliverCell
  dsimp only
  split
  · refine follows_dispose ?_ _ _ _
    split
    · exact keeps_modPort hk _ _ (fun _ hx => hx)
    · exact hk
  · exact hk.follows

/-! ### Machine/PortRows.lean -/

theorem keeps_noSignal (hk : Keeps tk sl s0 s) (p : Side) : Keeps tk sl s0 (noSignal s p) := by
  unfold noSignal
  split
  · exact keeps_lengthenRun (keeps_leaveSlot hk _) _
  · exact keeps_modPort hk _ _ (fun _ hx => ⟨hx.1, hx.2.1, by simp [backToHunt]⟩)
  · exact hk

theorem keeps_urgentLeft (hk : Keeps tk sl s0 s) (c : Cell) : Keeps tk sl s0 (urgentLeft s c) := by
  unfold urgentLeft
  try dsimp only
  repeat' first
    | with_reducible exact hk | exact fun _ => rfl | exact rfl
    | with_reducible apply keeps_blockedReportLeft | with_reducible apply keeps_forwardReport | split

theorem keeps_insertNorth (hk : Keeps tk sl s0 s) : Keeps tk sl s0 (insertNorth s) := by
  have h1 := keeps_onPorts hk (fun p => { p with northSlots := p.northSlots - 1 }) rfl rfl (fun hb => hb)
  unfold insertNorth
  dsimp only
  split
  · exact hk
  · split
    · rename_i c rest hc
      refine keeps_urgentLeft (keeps_transmit (keeps_onPorts h1 _ rfl rfl fun hb => ⟨?_, hb.2⟩) _ _) _
      have := hb.1
      rw [hc] at this
      simp only [List.length_cons] at this
      dsimp only
      omega
    · rename_i c rest _ hn
      refine keeps_transmit (keeps_onPorts h1 _ rfl rfl (fun hb => hb) rfl ?_) _ _
      show rest.length ≤ s.ports.normal.length
      have hn : s.ports.normal = c :: rest := hn
      rw [hn]
      exact Nat.le_succ _
    · exact keeps_transmit h1 _ _

theorem keeps_insertSouth (hk : Keeps tk sl s0 s) : Keeps tk sl s0 (insertSouth s) := by
  have h1 := keeps_onPorts hk (fun p => { p with southSlots := p.southSlots - 1 }) rfl rfl (fun hb => hb)
  unfold insertSouth
  dsimp only
  split
  · exact hk
  · split
    · rename_i c rest hc
      refine keeps_transmit (keeps_onPorts h1 _ rfl rfl fun hb => ⟨hb.1, ?_, hb.2.2⟩) _ _
      have := hb.2.1
      rw [hc] at this
      simp only [List.length_cons] at this
      dsimp only
      omega
    · exact keeps_transmit h1 _ _

theorem keeps_joinUrgentBacklog (hk : Keeps tk sl s0 s) : Keeps tk sl s0 (joinUrgentBacklog s) := by
  unfold joinUrgentBacklog
  split
  · split
    · rename_i hr
      refine keeps_onPorts hk _ rfl rfl fun hb => ⟨?_, hb.2⟩
      simp only [Config.urgentCapacity] at hr
      simp only [List.length_append, List.length_singleton]
      omega
    · exact hk
  · exact hk

theorem keeps_joinSouthBacklog (hk : Keeps tk sl s0 s) : Keeps tk sl s0 (joinSouthBacklog s) := by
  unfold joinSouthBacklog
  split
  · rename_i c rest _
    split
    · rename_i hr
      simp only [Config.southCapacity] at hr
      exact keeps_joinSouth (keeps_onPorts hk _ rfl rfl (fun hb => hb)) c hr
    · exact hk
  · exact hk

/-! ### Machine/TimerRows.lean -/

theorem keeps_takeWaiting (hk : Keeps tk sl s0 s) : Keeps tk sl s0 (takeWaiting s) := by
  unfold takeWaiting
  try dsimp only
  repeat' first
    | with_reducible exact hk | exact fun _ => rfl | exact rfl | with_reducible apply keeps_onEngine
    | with_reducible apply keeps_tryAccess | with_reducible apply keeps_placeOrder | split

theorem keeps_orderExpired (hk : Keeps tk sl s0 s) (tag : Nat) : Keeps tk sl s0 (orderExpired s tag) := by
  unfold orderExpired
  try dsimp only
  repeat' first
    | with_reducible exact hk | exact fun _ => rfl | exact rfl | with_reducible apply keeps_orderTimedOut
    | with_reducible apply keeps_removeOrder | split

theorem keeps_silenceExpired (hk : Keeps tk sl s0 s) (b : Nat) : Keeps tk sl s0 (silenceExpired s b) := by
  unfold silenceExpired
  try dsimp only
  repeat' first
    | with_reducible exact hk | exact fun _ => rfl | exact rfl | with_reducible apply keeps_windowEnded
    | with_reducible apply keeps_putWindow | split

end Sys2Proof.Machine
end

