-- ==== Sys2Proof/Laws/Orders.lean ====
section
/-! SUPPORT. The tag issue gives an octet that is not outstanding (R90). -/

namespace Sys2Proof.Machine

/-- A tag of the issue is an octet (R90). -/
theorem nextOrderTag_lt (s : State) : nextOrderTag s < 256 := by
  unfold nextOrderTag
  cases h : ((List.range 256).map (fun i => (s.engine.candidate + i) % 256)).find?
      (fun t => t ∉ outstandingTags s) with
  | none => exact Nat.mod_lt _ (by decide)
  | some t =>
    obtain ⟨i, _, rfl⟩ := List.mem_map.1 (List.mem_of_find?_eq_some h)
    exact Nat.mod_lt _ (by decide)

/-- At most sixteen audits are in flight. -/
theorem outstandingTags_length (s : State) : (outstandingTags s).length ≤ s.engine.orders.length + 16 := by
  unfold outstandingTags
  have := List.length_filterMap_le (fun n => (shelfAt s n).audit.map (·.tag)) (List.range 16)
  simp only [List.length_append, List.length_map, List.length_range] at *
  omega

/-- The issue gives a tag that is not outstanding (R90). -/
theorem nextOrderTag_fresh (s : State) (h : s.engine.orders.length < 240) : nextOrderTag s ∉ outstandingTags s := by
  unfold nextOrderTag
  cases e : ((List.range 256).map (fun i => (s.engine.candidate + i) % 256)).find?
      (fun t => t ∉ outstandingTags s) with
  | some t => exact of_decide_eq_true (List.find?_some (p := fun t => decide (t ∉ outstandingTags s)) e)
  | none =>
    exfalso
    have sub : (List.range 256).map (fun i => (s.engine.candidate + i) % 256) ⊆ outstandingTags s := fun t ht => by
      simpa using List.find?_eq_none.1 e t ht
    have nodup : ((List.range 256).map (fun i => (s.engine.candidate + i) % 256)).Nodup :=
      List.nodup_range.map_on (fun i hi j hj he => by simp only [List.mem_range] at hi hj; omega)
    have len := (List.subperm_of_subset nodup sub).length_le
    have := outstandingTags_length s
    simp only [List.length_map, List.length_range] at len
    omega

end Sys2Proof.Machine
end

