-- ==== Sys2Proof/Laws/PerInstr.lean ====
section
/-! SUPPORT. A law of the instruction terms, one lemma for each constructor. -/

namespace Sys2Proof.Laws

set_option Elab.async false

open Sys2Proof Sys2Proof.Machine

/-- The cells a term carries. -/
def RowShape.carried : Instr → List Cell
  | .resetAssert => []
  | .powerOnReset _ => []
  | .huntSearch _ _ => []
  | .presyncCell _ c => c.toList
  | .noSignalCellTime _ => []
  | .badCell _ c => [c]
  | .idleCell _ c => [c]
  | .transitCell _ c => [c]
  | .discardCell _ c => [c]
  | .lineReport c => [c]
  | .lineOrder c => [c]
  | .scanSummary c => [c]
  | .auditReport c => [c]
  | .orderAck c => [c]
  | .sample c => [c]
  | .commandIntake c => [c]
  | .freeRunningSlot _ => []
  | .northInsertion => []
  | .southInsertion => []
  | .offerBacklogJoin _ => []
  | .paceTimerExpiry => []
  | .unknownCommand _ _ _ => []
  | .enableService _ _ => []
  | .suspendService _ _ => []
  | .restart _ _ => []
  | .busRemove _ _ _ => []
  | .busRestore _ _ _ => []
  | .forceRelease _ _ _ => []
  | .writeLine _ _ _ _ _ _ _ => []
  | .clearLine _ _ _ => []
  | .writeProfile _ _ _ => []
  | .writeProgramStep _ _ _ _ _ => []
  | .writeProgramFinal _ _ _ _ _ _ _ => []
  | .writeProgramClear _ _ _ => []
  | .writeHead _ _ _ _ _ _ => []
  | .writeHazard _ _ _ _ => []
  | .writePrivilege _ _ _ _ => []
  | .writeGroupThreshold _ _ _ _ => []
  | .writeSchedule _ _ _ => []
  | .sweepStart _ _ _ => []
  | .sweepStop _ _ _ => []
  | .setTime _ _ _ _ _ _ _ _ _ => []
  | .adjustTime _ _ => []
  | .testRequest _ _ _ _ _ _ => []
  | .cancel _ _ _ => []
  | .ticketRead _ _ _ => []
  | .ticketList _ _ _ => []
  | .ticketDispatch _ _ _ _ => []
  | .ticketClose _ _ _ _ => []
  | .cableAck _ _ _ => []
  | .readLine _ _ _ => []
  | .readTime _ _ => []
  | .readStatus _ _ => []
  | .readBus _ _ => []
  | .readHeadCounts _ _ => []
  | .readQueue _ _ _ => []
  | .readSweep _ _ _ => []
  | .setNotices _ _ _ => []
  | .heartbeatTimerExpiry _ => []
  | .auditTimerExpiry _ => []
  | .waitTimerExpiry _ _ => []
  | .orderWaitListEntry => []
  | .orderTimeout _ => []
  | .releaseRetryTimerExpiry _ => []
  | .quarantineTimerExpiry _ => []
  | .dialSessionTimerExpiry _ => []
  | .silenceTimerExpiry _ => []
  | .digitTimerExpiry _ => []
  | .timebaseTimerExpiry _ => []
  | .loadTimerExpiry _ => []
  | .calendarSecond => []
  | .durationTimerExpiry _ => []
  | .resultDelivery => []
  | .noticeDelivery _ => []
  | .lineAgeSecond => []

/-- Every cell that a well-formed term carries has its sixteen octets (section 11.1). -/
def RowShape.Statement (i : Instr) : Prop :=
  wellFormed i = true → ∀ c ∈ RowShape.carried i, (cellOctets c).length = 16

/-- A cell of twelve payload octets has sixteen. -/
theorem RowShape.full {c : Cell} (h : fullCell c = true) : (cellOctets c).length = 16 := by
  simp only [fullCell, decide_eq_true_eq] at h
  simp [cellOctets, h]

theorem RowShape.one {c d : Cell} (h : fullCell c = true) (m : d ∈ [c]) : (cellOctets d).length = 16 :=
  List.mem_singleton.mp m ▸ RowShape.full h

theorem RowShape.none {c : Cell} (m : c ∈ ([] : List Cell)) : (cellOctets c).length = 16 :=
  absurd m (List.not_mem_nil)

theorem RowShape.resetAssert : RowShape.Statement .resetAssert := fun _ _ m => RowShape.none m
theorem RowShape.powerOnReset (straps : BitVec 2) :
    RowShape.Statement (.powerOnReset straps) := fun _ _ m => RowShape.none m
theorem RowShape.huntSearch (port : Side) (octet : Octet) :
    RowShape.Statement (.huntSearch port octet) := fun _ _ m => RowShape.none m
theorem RowShape.presyncCell (port : Side) (cell : Option Cell) : RowShape.Statement (.presyncCell port cell) := by
  intro h c m
  cases cell with
  | none => exact RowShape.none m
  | some x => exact RowShape.one h m
theorem RowShape.noSignalCellTime (port : Side) :
    RowShape.Statement (.noSignalCellTime port) := fun _ _ m => RowShape.none m
theorem RowShape.badCell (port : Side) (cell : Cell) : RowShape.Statement (.badCell port cell) := by
  intro h _ m
  simp only [wellFormed, Bool.and_eq_true] at h
  exact RowShape.one h.1 m
theorem RowShape.idleCell (port : Side) (cell : Cell) : RowShape.Statement (.idleCell port cell) := by
  intro h _ m
  simp only [wellFormed, goodOfKind, Bool.and_eq_true] at h
  exact RowShape.one h.1.1 m
theorem RowShape.transitCell (port : Side) (cell : Cell) : RowShape.Statement (.transitCell port cell) := by
  intro h _ m
  simp only [wellFormed, goodNotIdle, Bool.and_eq_true] at h
  exact RowShape.one h.1.1 m
theorem RowShape.discardCell (port : Side) (cell : Cell) : RowShape.Statement (.discardCell port cell) := by
  intro h _ m
  simp only [wellFormed, goodNotIdle, Bool.and_eq_true] at h
  exact RowShape.one h.1.1 m
theorem RowShape.lineReport (cell : Cell) : RowShape.Statement (.lineReport cell) := by
  intro h _ m
  simp only [wellFormed, goodOfKind, Bool.and_eq_true] at h
  exact RowShape.one h.1.1 m
theorem RowShape.lineOrder (cell : Cell) : RowShape.Statement (.lineOrder cell) := by
  intro h _ m
  simp only [wellFormed, goodOfKind, Bool.and_eq_true] at h
  exact RowShape.one h.1.1 m
theorem RowShape.scanSummary (cell : Cell) : RowShape.Statement (.scanSummary cell) := by
  intro h _ m
  simp only [wellFormed, goodOfKind, Bool.and_eq_true] at h
  exact RowShape.one h.1.1 m
theorem RowShape.auditReport (cell : Cell) : RowShape.Statement (.auditReport cell) := by
  intro h _ m
  simp only [wellFormed, goodOfKind, Bool.and_eq_true] at h
  exact RowShape.one h.1.1 m
theorem RowShape.orderAck (cell : Cell) : RowShape.Statement (.orderAck cell) := by
  intro h _ m
  simp only [wellFormed, goodOfKind, Bool.and_eq_true] at h
  exact RowShape.one h.1.1 m
theorem RowShape.sample (cell : Cell) : RowShape.Statement (.sample cell) := by
  intro h _ m
  simp only [wellFormed, goodOfKind, Bool.and_eq_true] at h
  exact RowShape.one h.1.1 m
theorem RowShape.commandIntake (cell : Cell) : RowShape.Statement (.commandIntake cell) := by
  intro h _ m
  simp only [wellFormed, goodOfKind, Bool.and_eq_true] at h
  exact RowShape.one h.1.1 m
theorem RowShape.freeRunningSlot (port : Side) :
    RowShape.Statement (.freeRunningSlot port) := fun _ _ m => RowShape.none m
theorem RowShape.northInsertion : RowShape.Statement .northInsertion := fun _ _ m => RowShape.none m
theorem RowShape.southInsertion : RowShape.Statement .southInsertion := fun _ _ m => RowShape.none m
theorem RowShape.offerBacklogJoin (queue : OfferQueue) :
    RowShape.Statement (.offerBacklogJoin queue) := fun _ _ m => RowShape.none m
theorem RowShape.paceTimerExpiry : RowShape.Statement .paceTimerExpiry := fun _ _ m => RowShape.none m
theorem RowShape.unknownCommand (src : Octet) (tag : Half) (code : Octet) :
    RowShape.Statement (.unknownCommand src tag code) := fun _ _ m => RowShape.none m
theorem RowShape.enableService (src : Octet) (tag : Half) :
    RowShape.Statement (.enableService src tag) := fun _ _ m => RowShape.none m
theorem RowShape.suspendService (src : Octet) (tag : Half) :
    RowShape.Statement (.suspendService src tag) := fun _ _ m => RowShape.none m
theorem RowShape.restart (src : Octet) (tag : Half) :
    RowShape.Statement (.restart src tag) := fun _ _ m => RowShape.none m
theorem RowShape.busRemove (src : Octet) (tag : Half) (bus : Octet) :
    RowShape.Statement (.busRemove src tag bus) := fun _ _ m => RowShape.none m
theorem RowShape.busRestore (src : Octet) (tag : Half) (bus : Octet) :
    RowShape.Statement (.busRestore src tag bus) := fun _ _ m => RowShape.none m
theorem RowShape.forceRelease (src : Octet) (tag : Half) (len : Half) :
    RowShape.Statement (.forceRelease src tag len) := fun _ _ m => RowShape.none m
theorem RowShape.writeLine (src : Octet) (tag : Half) (len : Half) (lineType profile group flags : Octet) :
    RowShape.Statement (.writeLine src tag len lineType profile group flags) := fun _ _ m => RowShape.none m
theorem RowShape.clearLine (src : Octet) (tag : Half) (len : Half) :
    RowShape.Statement (.clearLine src tag len) := fun _ _ m => RowShape.none m
theorem RowShape.writeProfile (src : Octet) (tag : Half) (a : ProfileArgs) :
    RowShape.Statement (.writeProfile src tag a) := fun _ _ m => RowShape.none m
theorem RowShape.writeProgramStep (src : Octet) (tag : Half) (program : Octet) (index : Nat) (step : RawStep) :
    RowShape.Statement (.writeProgramStep src tag program index step) := fun _ _ m => RowShape.none m
theorem RowShape.writeProgramFinal (src : Octet) (tag : Half) (program : Octet) (index count : Nat) (routine : Bool) (step : RawStep) :
    RowShape.Statement (.writeProgramFinal src tag program index count routine step) := fun _ _ m => RowShape.none m
theorem RowShape.writeProgramClear (src : Octet) (tag : Half) (program : Octet) :
    RowShape.Statement (.writeProgramClear src tag program) := fun _ _ m => RowShape.none m
theorem RowShape.writeHead (src : Octet) (tag : Half) (head : Octet) (interval : Half) (target : Octet) (mode : ModeField) :
    RowShape.Statement (.writeHead src tag head interval target mode) := fun _ _ m => RowShape.none m
theorem RowShape.writeHazard (src : Octet) (tag : Half) (danger clear : Triple) :
    RowShape.Statement (.writeHazard src tag danger clear) := fun _ _ m => RowShape.none m
theorem RowShape.writePrivilege (src : Octet) (tag : Half) (unit groups : Octet) :
    RowShape.Statement (.writePrivilege src tag unit groups) := fun _ _ m => RowShape.none m
theorem RowShape.writeGroupThreshold (src : Octet) (tag : Half) (group threshold : Octet) :
    RowShape.Statement (.writeGroupThreshold src tag group threshold) := fun _ _ m => RowShape.none m
theorem RowShape.writeSchedule (src : Octet) (tag : Half) (a : ScheduleArgs) :
    RowShape.Statement (.writeSchedule src tag a) := fun _ _ m => RowShape.none m
theorem RowShape.sweepStart (src : Octet) (tag : Half) (schedule : Octet) :
    RowShape.Statement (.sweepStart src tag schedule) := fun _ _ m => RowShape.none m
theorem RowShape.sweepStop (src : Octet) (tag : Half) (schedule : Octet) :
    RowShape.Statement (.sweepStop src tag schedule) := fun _ _ m => RowShape.none m
theorem RowShape.setTime (src : Octet) (tag : Half) (second minute hour weekday day month : Octet) (year : Half) :
    RowShape.Statement (.setTime src tag second minute hour weekday day month year) := fun _ _ m => RowShape.none m
theorem RowShape.adjustTime (src : Octet) (tag : Half) :
    RowShape.Statement (.adjustTime src tag) := fun _ _ m => RowShape.none m
theorem RowShape.testRequest (src : Octet) (tag : Half) (len : Half) (program : Octet) (requesterTag waitLimit : Half) :
    RowShape.Statement (.testRequest src tag len program requesterTag waitLimit) := fun _ _ m => RowShape.none m
theorem RowShape.cancel (src : Octet) (tag : Half) (requesterTag : Half) :
    RowShape.Statement (.cancel src tag requesterTag) := fun _ _ m => RowShape.none m
theorem RowShape.ticketRead (src : Octet) (tag : Half) (id : Octet) :
    RowShape.Statement (.ticketRead src tag id) := fun _ _ m => RowShape.none m
theorem RowShape.ticketList (src : Octet) (tag : Half) (place : ListFrom) :
    RowShape.Statement (.ticketList src tag place) := fun _ _ m => RowShape.none m
theorem RowShape.ticketDispatch (src : Octet) (tag : Half) (id : Octet) (dispatchTag : Half) :
    RowShape.Statement (.ticketDispatch src tag id dispatchTag) := fun _ _ m => RowShape.none m
theorem RowShape.ticketClose (src : Octet) (tag : Half) (id : Octet) (force : Bool) :
    RowShape.Statement (.ticketClose src tag id force) := fun _ _ m => RowShape.none m
theorem RowShape.cableAck (src : Octet) (tag : Half) (group : Octet) :
    RowShape.Statement (.cableAck src tag group) := fun _ _ m => RowShape.none m
theorem RowShape.readLine (src : Octet) (tag : Half) (len : Half) :
    RowShape.Statement (.readLine src tag len) := fun _ _ m => RowShape.none m
theorem RowShape.readTime (src : Octet) (tag : Half) :
    RowShape.Statement (.readTime src tag) := fun _ _ m => RowShape.none m
theorem RowShape.readStatus (src : Octet) (tag : Half) :
    RowShape.Statement (.readStatus src tag) := fun _ _ m => RowShape.none m
theorem RowShape.readBus (src : Octet) (tag : Half) :
    RowShape.Statement (.readBus src tag) := fun _ _ m => RowShape.none m
theorem RowShape.readHeadCounts (src : Octet) (tag : Half) :
    RowShape.Statement (.readHeadCounts src tag) := fun _ _ m => RowShape.none m
theorem RowShape.readQueue (src : Octet) (tag : Half) (position : Octet) :
    RowShape.Statement (.readQueue src tag position) := fun _ _ m => RowShape.none m
theorem RowShape.readSweep (src : Octet) (tag : Half) (schedule : Octet) :
    RowShape.Statement (.readSweep src tag schedule) := fun _ _ m => RowShape.none m
theorem RowShape.setNotices (src : Octet) (tag : Half) (kinds : Octet) :
    RowShape.Statement (.setNotices src tag kinds) := fun _ _ m => RowShape.none m
theorem RowShape.heartbeatTimerExpiry (shelf : Fin 16) :
    RowShape.Statement (.heartbeatTimerExpiry shelf) := fun _ _ m => RowShape.none m
theorem RowShape.auditTimerExpiry (shelf : Fin 16) :
    RowShape.Statement (.auditTimerExpiry shelf) := fun _ _ m => RowShape.none m
theorem RowShape.waitTimerExpiry (len : Fin 4096) (program : Fin 32) :
    RowShape.Statement (.waitTimerExpiry len program) := fun _ _ m => RowShape.none m
theorem RowShape.orderWaitListEntry : RowShape.Statement .orderWaitListEntry := fun _ _ m => RowShape.none m
theorem RowShape.orderTimeout (tag : Octet) : RowShape.Statement (.orderTimeout tag) := fun _ _ m => RowShape.none m
theorem RowShape.releaseRetryTimerExpiry (bus : Fin 4) :
    RowShape.Statement (.releaseRetryTimerExpiry bus) := fun _ _ m => RowShape.none m
theorem RowShape.quarantineTimerExpiry (bus : Fin 4) :
    RowShape.Statement (.quarantineTimerExpiry bus) := fun _ _ m => RowShape.none m
theorem RowShape.dialSessionTimerExpiry (session : Fin 8) :
    RowShape.Statement (.dialSessionTimerExpiry session) := fun _ _ m => RowShape.none m
theorem RowShape.silenceTimerExpiry (bus : Fin 4) :
    RowShape.Statement (.silenceTimerExpiry bus) := fun _ _ m => RowShape.none m
theorem RowShape.digitTimerExpiry (session : Fin 8) :
    RowShape.Statement (.digitTimerExpiry session) := fun _ _ m => RowShape.none m
theorem RowShape.timebaseTimerExpiry (head : Fin 4) :
    RowShape.Statement (.timebaseTimerExpiry head) := fun _ _ m => RowShape.none m
theorem RowShape.loadTimerExpiry (program : Fin 32) :
    RowShape.Statement (.loadTimerExpiry program) := fun _ _ m => RowShape.none m
theorem RowShape.calendarSecond : RowShape.Statement .calendarSecond := fun _ _ m => RowShape.none m
theorem RowShape.durationTimerExpiry (schedule : Fin 8) :
    RowShape.Statement (.durationTimerExpiry schedule) := fun _ _ m => RowShape.none m
theorem RowShape.resultDelivery : RowShape.Statement .resultDelivery := fun _ _ m => RowShape.none m
theorem RowShape.noticeDelivery (unit : Fin 9) :
    RowShape.Statement (.noticeDelivery unit) := fun _ _ m => RowShape.none m
theorem RowShape.lineAgeSecond : RowShape.Statement .lineAgeSecond := fun _ _ m => RowShape.none m

end Sys2Proof.Laws
end

