-- ==== Sys2Proof/Laws/Results.lean ====
section
/-! SUPPORT. The RESULT cells of one recipient (R206, section 11.7): how many they are, and where both stamps stand. -/

namespace Sys2Proof.Machine

variable (r : ResultRecord) (tag : Half) (own : Octet) (x : Recipient)

theorem stampOctets_length (t : Option Nat) : (stampOctets t).length = 4 := by
  cases t <;> rfl

/-- The header cell of section 11.7 fills the payload. -/
theorem headerPayload_length : (headerPayload r tag).length = 12 := by
  simp [headerPayload, octets2, stampOctets_length]

/-- The closing cell of section 11.7 fills the payload, so that a second stamp has no room in it (log entry 53). -/
theorem closingPayload_length : (closingPayload r).length = 12 := by
  simp [closingPayload, octets2, stampOctets_length]

/-- Octets 11 to 14 of the header cell are the start stamp. -/
theorem headerPayload_start_stamp : (headerPayload r tag).drop 8 = stampOctets r.started := by
  simp [headerPayload, octets2]

/-- Octets 3 to 6 of the closing cell are the end stamp. -/
theorem closingPayload_end_stamp : (closingPayload r).take 4 = stampOctets r.ended := by
  simp [closingPayload, stampOctets_length]

/-- A payload of twelve octets goes into its cell as it is (R211). -/
theorem makeCell_payload_of_full (kind src dst : Octet) {p : List Octet} (h : p.length = 12) :
    (makeCell kind src dst p).payload = p := by
  simp [makeCell, padPayload, h]

/-- A record of k steps takes k + 2 cells for each recipient (R206). -/
theorem resultCells_length : (resultCells own r x).length = r.results.length + 2 := by
  simp [resultCells]

/-- Each recipient gets both stamps of a record: the start stamp in the first of its cells, the header, and the end
stamp in the last, the closing cell (R206, section 11.7; log entry 53). -/
theorem resultCells_carry_stamps : ∃ header closing,
    (resultCells own r x).head? = some header ∧ (resultCells own r x).getLast? = some closing ∧
    header.payload.drop 8 = stampOctets r.started ∧ closing.payload.take 4 = stampOctets r.ended := by
  refine ⟨_, _, rfl, List.getLast?_concat .., ?_, ?_⟩
  · rw [makeCell_payload_of_full _ _ _ (headerPayload_length r x.tag), headerPayload_start_stamp]
  · rw [makeCell_payload_of_full _ _ _ (closingPayload_length r), closingPayload_end_stamp]

end Sys2Proof.Machine
end

