-- ==== Sys2Proof/Laws/Settle.lean ====
section
/-! SUPPORT. What the settling of a step's handed-on work comes to where it is short: nothing handed on, or
examinations of an empty queue; and what a millisecond makes of a table of timers. -/

namespace Sys2Proof.Machine

/-- With no work handed on, settling changes nothing. -/
theorem settle_nil (n : Nat) {s : State} (h : s.agenda = []) : settle n s = s := by
  cases n with
  | zero => rfl
  | succ n => simp only [settle, h]

/-- With work handed on, settling takes the oldest piece first. -/
theorem settle_cons (n : Nat) {s : State} {t : Todo} {rest : List Todo} (h : s.agenda = t :: rest) :
    settle (n + 1) s = settle n (takeTodo { s with agenda := rest } t) := by
  simp only [settle, h]

/-- The walk of a queue from beyond its end changes nothing. -/
theorem walkQueue_end (n i : Nat) {s : State} (h : s.arbiter.queue.length ≤ i) : walkQueue n i s = s := by
  cases n with
  | zero => rfl
  | succ n => simp only [walkQueue, List.getElem?_eq_none h]

/-- An examination of an empty queue changes nothing (R73). -/
theorem examineQueue_empty {s : State} (h : s.arbiter.queue = []) : examineQueue s = s := by
  unfold examineQueue
  split
  · exact walkQueue_end _ _ (by simp [h])
  · rfl

/-- An examination outside IN_SERVICE changes nothing (R65). -/
theorem examineQueue_out {s : State} (h : s.arbiter.service ≠ .inService) : examineQueue s = s := by
  simp only [examineQueue, h, if_false]

/-- Examinations handed on, with the queue empty or the service state not IN_SERVICE, change nothing. -/
theorem settle_examine (n : Nat) {s : State} (k : Nat) (hk : k ≤ n) (h : s.agenda = List.replicate k .examine)
    (hq : s.arbiter.queue = [] ∨ s.arbiter.service ≠ .inService) : settle n s = { s with agenda := [] } := by
  induction k generalizing n s with
  | zero =>
    simp only [List.replicate_zero] at h
    rw [settle_nil n h, ← h]
  | succ k ih =>
    obtain ⟨n, rfl⟩ : ∃ m, n = m + 1 := ⟨n - 1, by omega⟩
    rw [settle_cons n (List.replicate_succ ▸ h)]
    have e : examineQueue { s with agenda := List.replicate k .examine } =
        { s with agenda := List.replicate k .examine } :=
      hq.elim (fun hq => examineQueue_empty hq) (fun hq => examineQueue_out hq)
    simp only [takeTodo, e]
    exact ih n (s := { s with agenda := List.replicate k .examine }) (by omega) rfl hq

/-- A table changed entry by entry, as the millisecond changes the timers (`tick`). -/
theorem tabGet_tabAll {α : Type} [DecidableEq α] (d : α) (n : Nat) (t : Tab α) (f : α → α) (k : Nat) :
    tabGet d (tabAll d n t f) k = if k < n then f (tabGet d t k) else tabGet d t k := by
  unfold tabAll
  induction n with
  | zero => simp
  | succ n ih =>
    rw [List.range_succ, List.foldl_append, List.foldl_cons, List.foldl_nil, tabGet_tabMod]
    split
    · subst_vars; simp [ih]
    · rw [ih]; split <;> split <;> first | rfl | omega

/-- A step whose work is done at once. -/
theorem live_of_settled {f : State → State} {s : State} (ha : s.ports.resetAsserted = false)
    (h : (f s).agenda = []) : live f s = .next (f s) := by
  simp only [live, ha, settle_nil _ h, Bool.false_eq_true, if_false]

/-- A step that hands on examinations only, of an empty queue or outside IN_SERVICE. -/
theorem live_of_examine {f : State → State} {s : State} (k : Nat) (hk : k ≤ settleFuel)
    (ha : s.ports.resetAsserted = false) (h : (f s).agenda = List.replicate k .examine)
    (hq : (f s).arbiter.queue = [] ∨ (f s).arbiter.service ≠ .inService) :
    live f s = .next { f s with agenda := [] } := by
  simp only [live, ha, settle_examine settleFuel k hk h hq, Bool.false_eq_true, if_false]

/-- While RESET is asserted a step of the part is nothing (R20). -/
theorem live_of_reset {f : State → State} {s : State} (ha : s.ports.resetAsserted = true) :
    live f s = .next s := by
  simp only [live, ha, if_true]

/-- A step of the link while RESET is not asserted is the part's. -/
theorem onLink_of_awake (p : Side) (os : List Octet) (f : State → State) {s : State}
    (ha : s.ports.resetAsserted = false) : onLink p os f s = live f s := by
  simp only [onLink, ha, Bool.false_eq_true, if_false]

end Sys2Proof.Machine
end

