-- ==== Sys2Proof/Tests/Slice0.lean ====
section
/-! SUPPORT. Tests of the model: ill-formed terms, numbers the manual works out, single steps on small states, and
for every statement with hypotheses a state and operands that meet them. -/

/-! ### States the tests start from -/

namespace Sys2Proof.Tests

set_option Elab.async false

open Sys2Proof Sys2Proof.Machine

/-- The part after reset with both receivers in SYNC. -/
def synced : State :=
  onPorts State.reset (fun p => { p with
    north := { p.north with delineation := .sync }, south := { p.south with delineation := .sync } })

/-- The part with its start-up release done. -/
def started : State :=
  onArbiter (onEngine synced (fun e => { e with orders := [], startUp := [] }))
    (fun a => { a with service := .unconfigured })

/-- The part out of service with work to do by hand. -/
def suspended : State := onArbiter started (fun a => { a with service := .suspended })

/-- A good cell to the controller. -/
def toOwn (kind src : Octet) (payload : List Octet) : Cell := makeCell kind src 0x40#8 payload

/-- A good cell from shelf 1 or toward it, for the call processor or from it. -/
def fromShelf (kind : Octet) (payload : List Octet) : Cell := makeCell kind 0x11#8 0x01#8 payload
def toShelf (kind : Octet) (payload : List Octet) : Cell := makeCell kind 0x01#8 0x11#8 payload

/-- The state a step answers with; a step that stops is answered with the state after reset. -/
def after (o : Host.Outcome State Fault Refusal) : State :=
  match o with
  | .next s => s
  | _ => State.reset

/-- The step goes on. -/
def goesOn (o : Host.Outcome State Fault Refusal) : Bool :=
  match o with
  | .next _ => true
  | _ => false

/-- A session on line 256 with everything at its first value. -/
def session0 : Session :=
  { line := 256, program := 1, cls := .demand, requesters := [⟨0x20#8, 7#16⟩], bus := none, admission := 0
    retries := 0, waitMs := 0, slot := some 0, held := none, preempted := false, state := .collecting, started := none
    results := [], verdict := .notJudged, noData := 0, supervisionLost := false, outcome := none, ringGround := false
    belowSoFar := true, step := 0, repeated := false, accessReleased := false, dialTimer := some 5 }

/-- A waiting demand entry for line 256 and program 1. -/
def entry0 : Entry :=
  { line := 256, program := 1, cls := .demand, requesters := [⟨0x20#8, 7#16⟩], returned := false, waitMs := 5000
    seenBusy := false, retries := 0, reservation := none, slot := none }

/-- A loaded program of one resistance step. -/
def program0 : Program := { steps := [.res .tipRing 50000 16], routineAllowed := true }

/-- A directory entry. -/
def directory0 : DirectoryEntry :=
  { lineType := .plain, profile := 0, group := none, noRoutine := false, emergency := false, noDialTest := false }

/-- A schedule of one line, number 5. -/
def config0 : ScheduleConfig :=
  { enable := true, minute := 0, hour := 2, weekday := 0, day := 1, month := 1, onMinute := true, onHour := true
    onWeekday := false, onDay := false, onMonth := false, first := 5, last := 5, program := 1, window := 1
    durationMinutes := 600, report := false }

/-- An open window. -/
def window0 : Window :=
  { tag := 3, kind := .res, leg := .tipRing, line := 256, sized := 16, interval := 250, taken := 0, sumV := 0, sumVV := 0
    sumI := 0, tail := [], lastSeq := none, lost := 0, ringingMax := 0, hazardRun := 0, belowClear := true
    atMost := false, silence := some 7 }

/-- A ticket on line 256. -/
def ticket0 : Ticket :=
  { id := 4, subject := .line 256, cls := .short, state := .opened, origin := .demand, opened := none, lastSeen := none
    occurrences := 1, recurrences := 0, value := some 5, dispatch := none, attached := none, acknowledged := false }

/-- A result record. -/
def record0 : ResultRecord :=
  { line := 256, lineType := none, program := 1, cls := .demand, session := none, outcome := .noResource
    supervisionLost := false, started := none, ended := none, results := [resResult window0], failed := []
    actions := [] }

/-! ### Ill-formed terms are refused, and well-formed ones are not -/

/-- A cell with thirteen payload octets, and one of eleven. -/
def longCell : Cell := ⟨0x11#8, 0x11#8, 0x01#8, List.replicate 13 0#8, 0#8⟩
def shortCell : Cell := ⟨0x13#8, 0x11#8, 0x01#8, List.replicate 11 0#8, 0#8⟩

/-- A cell of full length whose check does not agree. -/
def spoilt (c : Cell) : Cell := { c with check := c.check ^^^ 1#8 }

theorem test_long_cell_refused : wellFormed (.presyncCell .north (some longCell)) = false := by decide +kernel
theorem test_short_cell_refused : wellFormed (.badCell .south shortCell) = false := by decide +kernel
theorem test_good_cell_no_bad_cell : wellFormed (.badCell .south idleCell) = false := by decide +kernel
theorem test_bad_check_no_report :
    wellFormed (.lineReport (spoilt (fromShelf 0x11#8 [1, 0, 1]))) = false := by decide +kernel
theorem test_idle_row_wants_idle : wellFormed (.idleCell .north (fromShelf 0x13#8 [])) = false := by decide +kernel
theorem test_transit_row_refuses_idle : wellFormed (.transitCell .north idleCell) = false := by decide +kernel
theorem test_row_wants_its_kind :
    [Instr.lineOrder idleCell, .scanSummary idleCell, .auditReport idleCell, .orderAck idleCell, .sample idleCell,
      .commandIntake idleCell].all (fun i => ! wellFormed i) = true := by decide +kernel
theorem test_listed_code_not_unknown : wellFormed (.unknownCommand 0x02#8 0#16 34#8) = false := by decide +kernel
theorem test_index_too_wide :
    wellFormed (.writeProgramStep 0x02#8 0#16 0#8 16 ⟨1, 1, 0, 8, 0⟩) = false := by decide +kernel
theorem test_index_zero : wellFormed (.writeProgramStep 0x02#8 0#16 0#8 0 ⟨1, 1, 0, 8, 0⟩) = false := by decide +kernel
theorem test_count_zero :
    wellFormed (.writeProgramFinal 0x02#8 0#16 0#8 1 0 true ⟨1, 1, 0, 8, 0⟩) = false := by decide +kernel
theorem test_leg_too_wide :
    wellFormed (.writeProgramStep 0x02#8 0#16 0#8 1 ⟨1, 4, 0, 8, 0⟩) = false := by decide +kernel
theorem test_kind_too_wide :
    wellFormed (.writeProgramStep 0x02#8 0#16 0#8 1 ⟨16, 1, 0, 8, 0⟩) = false := by decide +kernel
theorem test_well_formed_rows :
    [Instr.badCell .south (spoilt idleCell), .idleCell .north idleCell, .transitCell .south (fromShelf 0x13#8 []),
      .lineReport (fromShelf 0x11#8 [1, 0, 1]), .unknownCommand 0x02#8 0#16 35#8,
      .writeProgramFinal 0x02#8 0#16 0#8 12 12 true ⟨1, 3, 0, 8, 0⟩].all wellFormed = true := by decide +kernel

/-! ### Numbers the manual works out -/

/-- R210: the check of an IDLE cell, and the register after fourteen and fifteen zero octets. -/
theorem test_idle_check : idleCell.check = 0x90#8 := by decide +kernel
theorem test_check_of_zeros : crc (List.replicate 14 0#8) = 0x30#8 ∧ crc (List.replicate 15 0#8) = 0x90#8 := by
  decide +kernel

/-- Section 6.5: the resistance step and the five variants. -/
def resWindow (v i : Int) : Window := { window0 with taken := 64, sized := 64, sumV := v, sumI := i }
theorem test_resistance_step :
    (resResult (resWindow 3200000 128003)).resistance = 24999414 ∧
    (resResult (resWindow 3200000 128000)).resistance = 25000000 ∧
    (resResult (resWindow 60000 128003)).status = .invalid ∧
    (resResult (resWindow 3200000 (-128003))).status = .foreign := by decide +kernel
theorem test_resistance_limit :
    (resResult (resWindow 3200000 40)).openLimit = true ∧
    (resResult (resWindow 3200000 20000)).resistance = 100000000 ∧
    (resResult (resWindow (-3200000) (-128003))).resistance = 24999414 := by decide +kernel

/-- Section 6.5: the capacitance step. -/
theorem test_capacitance_step :
    let w := { window0 with
      kind := .cap, taken := 16, sumI := 10032000, tail := List.replicate 8 (50000, 2000), interval := 250 }
    let s := onTables started (fun t => { t with directory := [(256, some directory0)] })
    (capResult s w).capacitance = 50000 ∧ (capResult s w).length = 961 := by decide +kernel

/-- Section 6.5: the foreign-voltage step, and its rounding away from zero. -/
theorem test_foreign_voltage :
    (fvResult { window0 with taken := 8, sumV := 16000, sumVV := 40000000 }).ac = 1000 ∧
    (fvResult { window0 with taken := 8, sumV := -2004, sumVV := 40000000 }).dc = -251 := by decide +kernel

/-- Section 6.6: the worked digit, 3 at 10.0 pulses a second and 62 %. -/
theorem test_worked_digit :
    let c := [(Report.offHook, 5000), (.loopOpen, 6000), (.loopClose, 6062), (.loopOpen, 6100), (.loopClose, 6161),
      (.loopOpen, 6180), (.loopClose, 6184), (.loopOpen, 6200), (.loopClose, 6263)].foldl
        (fun c x => collectReport c x.1 x.2) (openCollector 1 true)
    (digitTimerExpired c).digits = [{ value := some 3, timing := some (100, 62) }] := by decide +kernel

/-- R126: the three silence limits. -/
theorem test_silence_limits : [250, 300, 1000].map silenceLimit = [7, 8, 13] := by decide +kernel

/-- R179: 31 December 2099 is followed by 1 January 2000, the weekday counting on; R178: 28 February 2001. -/
theorem test_century :
    let c : Calendar := { running := true, prescaler := 999, second := 59, minute := 59, hour := 23, weekday := 6
                          day := 31, month := 12, year := 2099 }
    (after (exec .calendarSecond { started with calendar := c })).calendar =
      { running := true, prescaler := 0, second := 0, minute := 0, hour := 0, weekday := 0, day := 1, month := 1
        year := 2000 } := by decide +kernel
theorem test_leap_day :
    (nextDate { calendarPowerOn with day := 28, month := 2, year := 2004 }).day = 29 ∧
    (nextDate { calendarPowerOn with day := 28, month := 2, year := 2001 }).month = 3 := by decide +kernel

/-- R181: 02:59:45 becomes 03:00:00, and 02:59:29 becomes 02:59:00. -/
theorem test_adjust_time :
    let c := fun sec : Nat => { calendarPowerOn with running := true, second := sec, minute := 59, hour := 2 }
    (after (exec (.adjustTime 0x02#8 0#16) { started with calendar := c 45 })).calendar.hour = 3 ∧
    (after (exec (.adjustTime 0x02#8 0#16) { started with calendar := c 29 })).calendar.minute = 59 := by
  decide +kernel

/-- R180: 31 April, 29 February 2001 and the year 2100 are refused. -/
theorem test_invalid_dates :
    (validTime 0 0 0 0 31 4 2004 || validTime 0 0 0 0 29 2 2001 || validTime 0 0 0 0 1 1 2100) = false := by
  decide +kernel

/-! ### Single steps on small states -/

/-- R54: a load timer empties the buffer; R52: a refused step cell abandons its own source's load. -/
theorem test_bad_step_abandons :
    let s := putBuffer started 3 (some ⟨0x02#8, [(1, none)], 9⟩)
    bufferAt (after (exec (.writeProgramStep 0x02#8 0#16 3#8 13 ⟨1, 1, 0, 8, 0⟩) s)) 3 = none := by decide +kernel

/-- R51: a DIAL step and a metallic step make no program. -/
theorem test_mixed_program :
    programValid { steps := [.dial 1, .fv .tipGround 8], routineAllowed := false } = false ∧
    programValid { steps := [.dial 1], routineAllowed := true } = false ∧
    programValid { steps := [.dial 1], routineAllowed := false } = true := by decide +kernel

/-- R77, R92: an eligible request is admitted to bus A in the step that submits it. -/
theorem test_admission :
    let s := onTables (onArbiter started (fun a => { a with service := .inService })) (fun t =>
      { t with directory := [(256, some directory0)], programs := [(1, program0)] })
    let s := modLine (modShelf s 1 (fun x => { x with freshness := .fresh, released := true })) 256
      (fun l => { l with hook := .idle })
    let t := after (exec (.testRequest 0x02#8 0#16 256#16 1#8 7#16 60#16) s)
    (busAt t 0).state = .attached ∧ markOf t 256 = .reserved ∧ riserAt t 1 = .operated 0 ∧
      t.engine.orders.map (·.order.kind) = [.riserOperate] := by decide +kernel

/-- R124: the fourth dangerous settling sample in a row ends the session HAZARD and quarantines the bus. -/
theorem test_hazard :
    let s := putWindow synced 2 (some { window0 with kind := .settling, hazardRun := 3, lastSeq := some 4 })
    let s := modBus s 2 (fun b => { b with state := .attached, holder := .session 7 })
    let s := putSession s 7 (some { session0 with bus := some 2, state := .settling })
    let t := after (exec (.sample (toOwn 0x32#8 0x32#8 [0, 5, 3, 0, 0xEA, 0x60])) s)
    (busAt t 2).state = .quarantine ∧ (busAt t 2).quarantine = some 2000 ∧ windowAt t 2 = none ∧
      (sessionAt t 7).map (·.outcome) = some (some .hazard) := by decide +kernel

/-- R152, R153: a demand failure opens a ticket in slot 0; a pass then clears it. -/
theorem test_ticket_opened_and_cleared :
    let s := (failTicket started (.line 5) .short .demand (some 9) none).1
    s.tickets.tickets.map (fun t => (t.id, t.state)) = [(0, .opened)] ∧
    (passTicket s (.line 5) .short none).1.tickets.tickets.map (·.state) = [.cleared] := by decide +kernel

/-- R169: the second wet ticket of a group with threshold 2 begins a storm with a cable ticket in slot 240. -/
theorem test_storm_begins :
    let d := some { directory0 with group := some 3 }
    let s := onTables started (fun t => { t with directory := [(5, d), (6, d)], thresholds := [(3, 2)] })
    let s := (failTicket s (.line 5) .tipGround .demand none none).1
    let s := (failTicket s (.line 6) .ringGround .demand none none).1
    groupAt s 3 = { storm := true, count := 2, ticket := some 240 } ∧
      s.tickets.tickets.map (·.attached) = [some 3, some 3, none] := by decide +kernel

/-- R169, with R159 and R173: in a full table a storm of group 1 evicts the SUSPECT member of group 2. EVICTED, OPEN
and CABLE 1 STORM follow each other, and only then group 2, still at its threshold, enters storm, which evicts the
SUSPECT member of group 1 and ends the storm of group 1: CLEARED, CABLE 1 CALM, OPEN, CABLE 2 STORM. -/
def fullTable : State :=
  let member := fun (len : Nat) => some { directory0 with group := some len }
  let wet := fun (id len : Nat) (st : TicketState) =>
    { ticket0 with id := id, subject := .line len, cls := .tipGround, state := st }
  let s := onTables started (fun t => { t with
    directory := [(1, member 1), (2, member 2), (3, member 2)], thresholds := [(1, 1), (2, 1)] })
  putUnit (onTickets s (fun m => { m with
    tickets := [wet 0 2 .suspect, wet 1 1 .suspect, wet 2 3 .opened] ++
      (List.range 253).map (fun k => { ticket0 with id := k + 3, subject := .line (k + 100) })
    groups := [(1, { groupZero with count := 1 }), (2, { groupZero with count := 2 })] }))
    0 { mask := [.ticket, .cable], pending := [], resync := false }
theorem test_entry_after_notices :
    (thresholdChanged fullTable 1).ports.normal.map (fun c => (payloadAt c 0, payloadAt c 1, payloadAt c 2, payloadAt c 6)) =
      [(1#8, 0#8, 1#8, 6#8), (1#8, 0#8, 4#8, 2#8), (2#8, 1#8, 2#8, 1#8), (1#8, 0#8, 4#8, 4#8), (2#8, 1#8, 1#8, 0#8),
        (1#8, 1#8, 4#8, 2#8), (2#8, 2#8, 2#8, 1#8)] := by decide +kernel

/-- R45, R73: CLEAR_LINE of a line without a directory entry is a directory write, and so examines the queue: a routine
entry for the line leaves it. -/
theorem test_clear_line_examines :
    let s := onArbiter started (fun a => { a with
      service := .inService, queue := [{ entry0 with cls := .routine 3, requesters := [] }] })
    (after (exec (.clearLine 0x02#8 0#16 256#16) s)).arbiter.queue = [] := by decide +kernel

/-- R165: a RESTARTED record whose steps were all NOT_RUN clears no ticket, its settling verdict CLEAR or not. -/
theorem test_restarted_brings_no_pass :
    let s := onTickets started (fun m => { m with tickets := [{ ticket0 with cls := .crossHazard }] })
    let r := { record0 with outcome := .restarted, results := [blankResult .notRun .fv (some .tipRing) false] }
    (classify s r .clear).1.tickets.tickets.map (·.state) = [.opened] ∧
      (classify s { r with outcome := .cancelled } .clear).1.tickets.tickets.map (·.state) = [.cleared] := by
  decide +kernel

/-- R15: a cell already in an offer backlog is not offered twice. -/
theorem test_backlog_holds_once :
    let s := onPorts started (fun p => { p with urgentBacklog := [idleCell] })
    (offerUrgent s idleCell).ports.urgentBacklog = [idleCell] := by decide +kernel

/-- R40, R16: a TEST BLOCK that still waits takes the new value. -/
theorem test_block_merges :
    (offerTestBlock (offerTestBlock started 5 true) 5 false).ports.urgent =
      [makeCell 0x41#8 0x40#8 0x01#8 [0, 5, 2]] := by decide +kernel

/-- R213: a cell that breaks an assembly is answered RANGE and ends it. -/
theorem test_broken_assembly :
    let s := onInterp started (fun i => { i with assemblies := [⟨0x02#8, 1#16, 9#8, 5, [[]]⟩], pace := .running 0 })
    let s := onPorts s (fun p => { p with intake := [toOwn 0x51#8 0x02#8 [0, 1, 9, 0x35]] })
    let t := after (exec .paceTimerExpiry s)
    t.interp.assemblies = [] ∧ t.ports.normal.map (fun c => payloadAt c 3) = [5#8] := by decide +kernel

/-- No row has table bits: no word spells a command, and the queue stays as it is. -/
theorem test_no_table_word (n w : Nat) : decodeTableWord n w = none ∧ State.reset.withFetchWord n w = State.reset := by
  exact ⟨rfl, rfl⟩

/-! ### Witnesses: states and operands that meet the hypotheses of each statement, clause by clause -/

/-- A law's hypothesis: the state has it, and its step goes on. -/
def stepsOn (s : State) : Bool := goesOn (step s)

theorem step_of_stepsOn {s : State} (h : stepsOn s = true) : step s = .next (after (step s)) := by
  unfold stepsOn at h
  cases e : step s <;> simp_all [goesOn, after]

/-- The states at the edge of each law, with a row in front that works on what the law is about. -/
def lastSecond : State :=
  { started with
    pending := [.calendarSecond]
    calendar := { running := true, prescaler := 0, second := 59, minute := 59, hour := 23, weekday := 6, day := 31
                  month := 12, year := 2099 } }
def fullQueues : State :=
  { onPorts synced (fun p => { p with
      urgent := List.replicate 16 idleCell, southQueue := List.replicate 32 idleCell, intake := List.replicate 16 idleCell
      north := { p.north with badChecks := 4294967295, dropped := 4294967295 } }) with
    pending := [.commandIntake (toOwn 0x51#8 0x02#8 [])] }
def fullRequests : State :=
  { onArbiter suspended (fun a => { a with
      queue := List.replicate 16 entry0 ++ List.replicate 48 { entry0 with cls := .routine 0, requesters := [] } }) with
    pending := [.cancel 0x20#8 0#16 7#16] }
def reported : State := { synced with pending := [.lineReport (fromShelf 0x11#8 [1, 0, 1])] }
def levels : State := { started with pending := [.writeHazard 0x02#8 0#16 2000#24 1000#24] }

theorem witness_StepTakesFrontCommand : lastSecond.pending = .calendarSecond :: [] := rfl
theorem witness_StepWithoutCommand :
    (after (exec .resetAssert State.reset)).pending = [] ∧ (after (exec .resetAssert State.reset)).ports.resetAsserted = true ∧
    started.pending = [] ∧ started.ports.resetAsserted = false ∧ dueRow started = none ∧
    dueRow (onInterp started (fun i => { i with pace := .running 0 })) = some .paceTimerExpiry := by decide +kernel
theorem witness_StepKeepsCalendarValid : CalendarValid lastSecond.calendar ∧ stepsOn lastSecond = true := by
  decide +kernel
/-- The NORMAL queue and its reserved places full together, and a schedule with a full deferred list. -/
def fullNormal : State :=
  { onPorts fullQueues (fun p => { p with normal := List.replicate 40 idleCell, reserved := 8 }) with
    schedules := [(7, { scheduleZero with run := { scheduleZero.run with deferredLines := List.range 32 } })]
    pending := [.readStatus 0x02#8 0#16] }
/-- The north receiver in PRESYNC, a bad cell of twelve payload octets next: it goes back to HUNT with fifteen octets.
-/
def badNext : State :=
  { onPorts synced (fun p => { p with north := { p.north with delineation := .presync } }) with
    pending := [.presyncCell .north (some { idleCell with check := 0 })] }
theorem witness_StepKeepsPortsBounded_presync :
    (∀ i ∈ badNext.pending, wellFormed i = true) ∧ PortsBounded badNext.ports ∧ stepsOn badNext = true ∧
      (after (step badNext)).ports.north.huntOctets.length = 15 := by decide +kernel
theorem witness_StepKeepsPortsBounded :
    (∀ i ∈ fullQueues.pending, wellFormed i = true) ∧
    PortsBounded fullQueues.ports ∧ stepsOn fullQueues = true ∧ stepsOn fullNormal = true ∧ NormalBounded fullNormal := by
  refine ⟨by decide +kernel, by decide +kernel, by decide +kernel, by decide +kernel, by decide +kernel, fun n => ?_⟩
  by_cases h : n = 7
  · subst h; decide +kernel
  · have e : scheduleAt fullNormal n = scheduleZero := by
      show tabGet _ [(7, _)] n = _
      simp [tabGet, Ne.symm h]
    rw [e]; exact Nat.zero_le _
theorem witness_StepKeepsHookCounts : HookCountsAgree reported.tracker ∧ stepsOn reported = true :=
  ⟨⟨.nil, fun _ => ⟨rfl, rfl⟩⟩, by decide +kernel⟩
theorem witness_StepKeepsHazardLevels : HazardLevelsValid levels.tables ∧ stepsOn levels = true := by decide +kernel
theorem witness_StepKeepsQueueBounded :
    QueueBounded fullRequests.arbiter.queue ∧ stepsOn fullRequests = true := by decide +kernel
theorem witness_AddressKeptButAtReset :
    stepsOn levels = true ∧ ∀ straps rest, levels.pending ≠ .powerOnReset straps :: rest :=
  ⟨by decide +kernel, fun _ _ h => by simp [levels] at h⟩

/-- The part while RESET is asserted. -/
def bypassed : State := after (exec .resetAssert synced)

theorem witness_BypassChangesOnlyTransmitPairs :
    bypassed.ports.resetAsserted = true ∧ ∀ straps, Instr.calendarSecond ≠ .powerOnReset straps :=
  ⟨by decide +kernel, fun _ h => Instr.noConfusion h⟩
theorem witness_BypassRepeatsOctets : bypassed.ports.resetAsserted = true := by decide +kernel
theorem witness_ResetAssertBeginsBypass :
    let s := onPorts synced (fun p => { p with northTx := .cell idleCell, southTx := .cell idleCell })
    s.ports.resetAsserted = false ∧ s.ports.northTx = .cell idleCell ∧ s.ports.southTx = .cell idleCell := by
  decide +kernel

/-- A port with its receiver as given, on both sides. -/
def withPort (p : Port) : State := onPorts started (fun q => { q with north := p, south := p })
def receiving (d : Delineation) (os : List Octet) (n : Nat) : State :=
  withPort { State.reset.ports.north with delineation := d, huntOctets := os, confirmed := n, badRun := 4 }

theorem witness_HuntTakesOctet :
    let s := fun n => receiving .hunt ((cellOctets idleCell).take n) 0
    Awake (s 14) ∧ (portAt (s 14) .north).delineation = .hunt ∧ (portAt (s 14) .north).huntOctets.length < 15 ∧
    Awake (s 15) ∧ idleCell.payload.length = 12 ∧
      (portAt (s 15) .south).huntOctets ++ [0x90#8] = cellOctets idleCell := by decide +kernel
theorem witness_PresyncConfirmsCells :
    let s := fun n => receiving .presync [] n
    Awake (s 3) ∧ (portAt (s 3) .south).delineation = .presync ∧ (portAt (s 3) .south).confirmed = 3 ∧
      (portAt (s 2) .south).confirmed < 3 ∧ goodCheck idleCell = true ∧ goodCheck (spoilt idleCell) = false := by
  decide +kernel
theorem witness_NoSignalLengthensRun :
    Awake (receiving .sync [] 4) ∧ InSync (receiving .sync [] 4) .south ∧
      (portAt (receiving .sync [] 4) .south).badRun = 4 := by decide +kernel
theorem witness_NothingArrivesOutOfSync :
    Awake (receiving .presync [] 3) ∧ ¬ InSync (receiving .presync [] 3) .south ∧
      ¬ InSync (receiving .hunt [] 0) .north := by decide +kernel
theorem witness_BadCellForwardedAndCounted :
    let c := spoilt (toOwn 0x51#8 0x02#8 [])
    Awake fullQueues ∧ InSync fullQueues .north ∧ goodCheck c = false ∧ c.dst = own fullQueues ∧
      goodCheck (spoilt (fromShelf 0x11#8 [])) = false ∧ (spoilt (fromShelf 0x11#8 [])).dst ≠ own fullQueues := by
  decide +kernel
theorem witness_IdleAndTransitCells :
    Awake synced ∧ InSync synced .north ∧ InSync synced .south ∧ goodCheck idleCell = true ∧ idleCell.kind = 0x00#8 ∧
    TransitArrives synced .north (toShelf 0x13#8 []) ∧ (toShelf 0x13#8 []).kind ≠ 0x12#8 ∧
    TransitArrives synced .south (fromShelf 0x12#8 []) ∧ (fromShelf 0x12#8 []).kind ∉ [0x11#8, 0x13#8] := by
  decide +kernel
theorem witness_DiscardedCells :
    OwnArrives synced .north (toOwn 0x32#8 0x30#8 []) ∧ (toOwn 0x32#8 0x30#8 []).kind ≠ 0x51#8 ∧
    OwnArrives synced .south (toOwn 0x52#8 0x30#8 []) ∧ (toOwn 0x52#8 0x30#8 []).kind ∉ [0x51#8, 0x32#8, 0x22#8, 0x24#8] ∧
    OwnArrives synced .south (toOwn 0x51#8 0x20#8 []) := by decide +kernel
theorem witness_CommandIntake :
    OwnArrives synced .north (toOwn 0x51#8 0x02#8 []) ∧ synced.ports.intake.length < 16 ∧ synced.interp.pace ≠ .waiting ∧
    OwnArrives fullQueues .north (toOwn 0x51#8 0x02#8 []) ∧ 16 ≤ fullQueues.ports.intake.length ∧
    OwnArrives (putPace synced .waiting) .north (toOwn 0x51#8 0x02#8 []) ∧ (putPace synced .waiting).ports.intake = [] ∧
    (putPace synced .waiting).interp.pace = .waiting := by decide +kernel

/-- Both transmitters with one slot, and the given waiting cells. -/
def sending (u n o : List Cell) : State :=
  onPorts synced (fun p => { p with northSlots := 1, southSlots := 1, urgent := u, normal := n, southQueue := o })

theorem witness_InsertionSendsOldest :
    Awake (sending [] [idleCell] [idleCell]) ∧ 0 < (sending [] [idleCell] [idleCell]).ports.northSlots ∧
      (sending [] [idleCell] [idleCell]).ports.normal = idleCell :: [] ∧
      (sending [] [idleCell] [idleCell]).ports.southQueue = idleCell :: [] ∧
      (sending [] [] []).ports.normal = [] ∧ (sending [] [] []).ports.southQueue = [] ∧
      InSync synced .south ∧ ¬ InSync (receiving .hunt [] 0) .south := by decide +kernel
theorem witness_UrgentSentFirst :
    let b := makeCell 0x41#8 0x40#8 0x01#8 [0, 5, 2]
    let r := makeCell 0x11#8 0x40#8 0x01#8 [0, 5, 6]
    Awake (sending [b] [] []) ∧ 0 < (sending [b] [] []).ports.northSlots ∧ (sending [b] [] []).ports.urgent = b :: [] ∧
      b.kind = 0x41#8 ∧ payloadAt b 2 = 2#8 ∧ (sending [r] [] []).ports.urgent = r :: [] ∧ r.kind = 0x11#8 ∧
      (payloadAt r 2, Hook.offHook) ∈ [(1#8, Hook.offHook), (2#8, .idle), (5#8, .parked), (6#8, .offHook)] := by
  decide +kernel

/-- Both offer backlogs with a cell, the queues of the given lengths. -/
def backlogged (u o : Nat) : State :=
  onPorts synced (fun p => { p with
    urgent := List.replicate u idleCell, southQueue := List.replicate o idleCell
    urgentBacklog := [toShelf 0x12#8 []], southBacklog := [toShelf 0x12#8 []] })
/-- The cell as the South backlog's oldest, the South queue one short of full, with the given outstanding orders. -/
def southWaits (c : Cell) (os : List OutstandingOrder) : State :=
  onEngine (onPorts synced (fun p => { p with southQueue := List.replicate 31 idleCell, southBacklog := [c, idleCell] }))
    (fun e => { e with orders := os })
/-- An outstanding order that has not yet joined the South queue, tagged 255. -/
def unjoined (o : Order) : OutstandingOrder := { tag := 255, order := o, timer := none }
def sessionOrder (o : Order) : OutstandingOrder := { tag := 255, order := o, timer := some 1 }
def otherOrder : OutstandingOrder := { tag := 254, order := releaseAllOrder 0 (.startUp 0), timer := some 40 }
theorem witness_BacklogJoins_orders :
    (∀ o ∈ [riserOperateOrder 15 3 (.session 7), accessReleaseOrder 4095 (.session 7),
        riserReleaseOrder 15 3 (.cleanUp 3), releaseAllOrder 15 (.startUp 15), accessOperateOrder 4095 (.session 7)],
      let c := relayOrderCell (own synced) 255 o
      let s := southWaits c ([otherOrder] ++ unjoined o :: [])
      Awake s ∧ s.ports.southBacklog = c :: [idleCell] ∧ s.ports.southQueue.length < 32 ∧ (unjoined o).timer = none ∧
        (unjoined o).tag < 256 ∧ (∀ x ∈ [otherOrder] ++ [], x.tag ≠ (unjoined o).tag ∧ x.tag < 256)) ∧
    (let x := { session0 with line := 4095, bus := some 3, state := .reserved }
     let o := accessOperateOrder 4095 (.session 7)
     let s := putSession (southWaits (relayOrderCell (own synced) 255 o) ([otherOrder] ++ unjoined o :: [])) 7 (some x)
     Awake s ∧ s.ports.southBacklog = relayOrderCell (own s) 255 o :: [idleCell] ∧
       s.engine.orders = [otherOrder] ++ unjoined o :: [] ∧ sessionAt s 7 = some x ∧ x.line = o.line ∧
       (∀ y ∈ [otherOrder], y.tag ≠ 255)) ∧
    (let o := accessOperateOrder 4095 (.session 7)
     let r := accessReleaseOrder 4095 (.cleanUp 3)
     let s := fun (os : List OutstandingOrder) (w : List Order) =>
       onEngine (southWaits (relayOrderCell (own synced) 255 o) os) (fun e => { e with waiting := w })
     ∀ y ∈ [([otherOrder, { otherOrder with order := r }], []), ([otherOrder], [r]), ([otherOrder], [])],
       Awake (s y.1 y.2) ∧ (s y.1 y.2).ports.southBacklog = relayOrderCell (own (s y.1 y.2)) 255 o :: [idleCell] ∧
         o.line ≤ 4095 ∧ r.line = o.line ∧ (∀ z ∈ y.1, z.tag ≠ 255)) ∧
    (let a : Audit := { tag := 255, timer := none, cards := [] }
     let s := modShelf (southWaits (auditOrderCell (own synced) 15 255) []) 15 (fun x => { x with audit := some a })
     Awake s ∧ (shelfAt s 15).audit = some a ∧ a.timer = none ∧ a.tag < 256 ∧
       s.ports.southBacklog = auditOrderCell (own s) 15 a.tag :: [idleCell]) ∧
    (let w := { window0 with tag := 255, silence := none }
     let s := putWindow (southWaits (headStartCell (own synced) 3 255 .tipRing 5 w.sized w.interval) []) 3 (some w)
     Awake s ∧ windowAt s 3 = some w ∧ w.tag < 256 ∧
       s.ports.southBacklog = headStartCell (own s) 3 w.tag .tipRing 5 w.sized w.interval :: [idleCell]) := by
  decide +kernel
theorem witness_BacklogJoins :
    Awake (backlogged 15 31) ∧ (backlogged 15 31).ports.urgentBacklog = toShelf 0x12#8 [] :: [] ∧
      (backlogged 15 31).ports.urgent.length < 16 ∧ (backlogged 15 31).ports.southBacklog = toShelf 0x12#8 [] :: [] ∧
      (backlogged 15 31).ports.southQueue.length < 32 ∧ (toShelf 0x12#8 []).kind = 0x12#8 ∧
      16 ≤ (backlogged 16 32).ports.urgent.length ∧ 32 ≤ (backlogged 16 32).ports.southQueue.length := by decide +kernel

/-! #### Supervision -/

/-- The last line of shelf 15, its report and its ring order. -/
def report15 (code : Octet) : Cell := makeCell 0x11#8 0x1F#8 0x01#8 [0x0F, 0xFF, code, 1, 2]
def ring15 (code : Octet) : Cell := makeCell 0x12#8 0x01#8 0x1F#8 [0x0F, 0xFF, code]
def lineIs (f : Line → Line) : State := modLine synced 0xFFF f

theorem witness_LineReportApplied :
    TransitArrives synced .south (report15 6) ∧ NoRequests synced ∧ (report15 6).kind = 0x11#8 ∧
      (report15 6).src = BitVec.ofNat 8 (0x10 + 15) ∧ (field2 (report15 6) 0).toNat = 0xFFF ∧ 0xFFF / 256 = 15 ∧
      (payloadAt (report15 6) 2, some Hook.offHook) ∈ [(1#8, some Hook.offHook), (2#8, some .idle), (3#8, none),
        (4#8, none), (5#8, some .parked), (6#8, some .offHook)] ∧
      (lineOf synced 0xFFF).cutOff = false ∧ sessionOnLine synced 0xFFF = none := by decide +kernel
theorem witness_LineReportSuppressedOrUnread :
    let s := lineIs (fun l => { l with cutOff := true })
    TransitArrives s .south (report15 6) ∧ (report15 6).kind = 0x11#8 ∧ shelfOf (report15 6).src = some (0xFFF / 256) ∧
      (payloadAt (report15 6) 2).toNat = 6 ∧ (lineOf s 0xFFF).cutOff = true ∧
      TransitArrives s .south (fromShelf 0x11#8 [0x0F, 0xFF, 1]) ∧
      shelfOf (fromShelf 0x11#8 [0x0F, 0xFF, 1]).src ≠ some (0xFFF / 256) := by decide +kernel
theorem witness_RingOrdersOutsideTest :
    TransitArrives synced .north (ring15 1) ∧ NoRequests synced ∧ (ring15 1).kind = 0x12#8 ∧
      (field2 (ring15 1) 0).toNat = 0xFFF ∧ shelfOf (ring15 1).dst = some (0xFFF / 256) ∧ markOf synced 0xFFF = .free ∧
      sessionOnLine synced 0xFFF = none ∧ payloadAt (ring15 1) 2 = 1#8 ∧
      TransitArrives synced .north (ring15 2) ∧ payloadAt (ring15 2) 2 = 2#8 ∧ (lineOf synced 0xFFF).hook ≠ .ringing ∧
      (lineOf (lineIs (fun l => { l with hook := .ringing })) 0xFFF).hook = .ringing ∧
      (lineOf synced 0xFFF).cutOff = false := by decide +kernel
/-- R23, R37: a STOP_RING ends RINGING on a line that is not under test, though it is cut off, and not on one under
test. -/
theorem test_stop_ring_cut_off :
    let s := lineIs (fun l => { l with cutOff := true, hook := .ringing })
    let locked := onArbiter s (fun a => { a with marks := [(0xFFF, .lockedOut)] })
    (lineOf (after (exec (.lineOrder (ring15 2)) s)) 0xFFF).hook = .idle ∧
      (lineOf (after (exec (.lineOrder (ring15 2)) locked)) 0xFFF).hook = .ringing := by decide +kernel

/-- A metallic session on that line, cut off and marked IN_SESSION; the line provisioned with the given EMERGENCY. -/
def ringing15 (c : RequestClass) (h : Option Cell) (o : Option EndOutcome) (v : SessionState) (e : Bool) : State :=
  onTables (onArbiter (putSession (lineIs (fun l => { l with cutOff := true })) 7 (some { session0 with
    line := 0xFFF, bus := some 3, state := v, cls := c, held := h, outcome := o }))
    (fun a => { a with marks := [(0xFFF, .inSession)] }))
    (fun t => { t with directory := [(0xFFF, some { directory0 with emergency := e })] })
def ringCases : List State :=
  [ringing15 (.routine 0) (some idleCell) none .connecting false, ringing15 (.routine 0) none none .releasing false,
    ringing15 (.routine 0) none (some .complete) .releasing false, ringing15 (.routine 0) none none .connecting false,
    ringing15 (.routine 0) none none .settling false, ringing15 (.routine 0) none none .measuring false,
    ringing15 .demand none none .connecting true, ringing15 .demand none none .connecting false]
theorem witness_ApplyRingNeverPassesCutOff :
    (∀ s ∈ ringCases,
      TransitArrives s .north (ring15 1) ∧ markOf s 0xFFF = .inSession ∧ (lineOf s 0xFFF).cutOff = true ∧
        (sessionOnLine s 0xFFF).map (·.1) = some 7 ∧ (sessionOnLine s 0xFFF).all (fun x => x.2.bus.isSome) = true) ∧
    ((directoryAt (ringing15 .demand none none .connecting true) 0xFFF).map (·.emergency) = some true ∧
      (directoryAt (ringing15 .demand none none .connecting false) 0xFFF).map (·.emergency) = some false) ∧
    (let s := onArbiter (lineIs (fun l => { l with cutOff := true })) (fun a => { a with marks := [(0xFFF, .lockedOut)] })
     TransitArrives s .north (ring15 1) ∧ markOf s 0xFFF = .lockedOut ∧ sessionOnLine s 0xFFF = none) ∧
    (let s := lineIs (fun l => { l with cutOff := true })
     TransitArrives s .north (ring15 1) ∧ markOf s 0xFFF = .free ∧ (lineOf s 0xFFF).cutOff = true ∧
     let d := putSession (onArbiter s (fun a => { a with marks := [(0xFFF, .inSession)] })) 7
       (some { session0 with line := 0xFFF })
     TransitArrives d .north (ring15 1) ∧ markOf d 0xFFF ≠ .free ∧
       sessionOnLine d 0xFFF = some (7, { session0 with line := 0xFFF }) ∧ session0.bus = none) ∧
    (ring15 1).kind = 0x12#8 ∧ (field2 (ring15 1) 0).toNat = 0xFFF ∧ shelfOf (ring15 1).dst = some (0xFFF / 256) ∧
    payloadAt (ring15 1) 2 = 1#8 := by
  decide +kernel

/-- Shelf 15 as given, and its summary of `n` lines off-hook. -/
def shelf15 (f : Shelf → Shelf) : State := modShelf (onPorts synced (fun p => { p with southQueue := [] })) 15 f
def summary15 (n : Nat) : Cell := makeCell 0x13#8 0x1F#8 0x01#8 (octets2 n)
def freshShelf (m : Bool) : State :=
  shelf15 (fun x => { x with freshness := .fresh, released := true, mismatch := m, offHook := 256 })
theorem witness_ScanSummaryCompared :
    TransitArrives (freshShelf true) .south (summary15 256) ∧ (summary15 256).kind = 0x13#8 ∧
      shelfOf (summary15 256).src = some 15 ∧ (shelfAt (freshShelf true) 15).released = true ∧
      (shelfAt (freshShelf true) 15).freshness = .fresh ∧
      (field2 (summary15 256) 0).toNat = (shelfAt (freshShelf true) 15).offHook ∧
      TransitArrives (freshShelf false) .south (summary15 255) ∧ (shelfAt (freshShelf false) 15).mismatch = false ∧
      (shelfAt (modShelf (freshShelf true) 15 (fun x => { x with freshness := .drift })) 15).freshness = .drift := by
  decide +kernel
/-- Fifteen outstanding orders, and a RELEASE ALL for shelf 15. -/
def fifteen : List OutstandingOrder :=
  (List.range 15).map (fun k => { tag := k, order := releaseAllOrder k (.startUp k), timer := some 40 })
def releaseAll15 (w : Owner) : OutstandingOrder := { tag := 255, order := releaseAllOrder 15 w, timer := some 1 }
/-- Shelf 15 unreleased, of the given freshness and audit; the last RELEASE ALL for it joined at `t`, the clock at
2,000, and the South queue has room for one cell, or two. -/
def unreleased (f : Freshness) (a : Option Audit) (t : Nat) (room : Nat) : State :=
  let s := modShelf (freshShelf true) 15 (fun x => { x with freshness := f, released := false, audit := a })
  { onPorts (onEngine s (fun e => { e with orders := fifteen, startUp := [], releaseAllAt := [(15, some t)] }))
      (fun p => { p with southQueue := List.replicate (32 - room) idleCell }) with clock := 2000 }
theorem witness_ScanSummaryCompared_unreleased :
    (∀ y ∈ [(Freshness.fresh, (none : Option Audit)), (.drift, none),
        (.stale, some { tag := 255, timer := some 9, cards := [] })], ∀ t ∈ [1000, 1001],
      let s := unreleased y.1 y.2 t 1
      TransitArrives s .south (summary15 256) ∧ shelfOf (summary15 256).src = some 15 ∧
        (shelfAt s 15).freshness = y.1 ∧ (shelfAt s 15).audit = y.2 ∧ (shelfAt s 15).released = false ∧
        (field2 (summary15 256) 0).toNat = (shelfAt s 15).offHook ∧
        (∀ o ∈ s.engine.orders, ¬ (o.order.kind = .releaseAll ∧ o.order.shelf = 15)) ∧
        tabGet none s.engine.releaseAllAt 15 = some t ∧ (s.clock < t + 1000 ↔ t = 1001) ∧ s.engine.orders.length < 16 ∧
        s.engine.waiting = [] ∧ s.ports.southBacklog = [] ∧ s.ports.southQueue.length < 32) ∧
    (releaseAll15 (.startUp 15)).order.kind = .releaseAll ∧ (releaseAllOrder 15 (.freshRelease 15)).shelf = 15 := by
  decide +kernel
theorem witness_SecondMismatchStartsAudit_stale :
    ∀ y ∈ [(Freshness.stale, 1000), (.stale, 1001), (.fresh, 1000)],
      let s := unreleased y.1 none y.2 2
      TransitArrives s .south (summary15 255) ∧ (shelfAt s 15).freshness = y.1 ∧ (shelfAt s 15).mismatch = true ∧
        (field2 (summary15 255) 0).toNat ≠ (shelfAt s 15).offHook ∧ (shelfAt s 15).audit = none ∧
        (shelfAt s 15).released = false ∧ (∀ o ∈ s.engine.orders, ¬ (o.order.kind = .releaseAll ∧ o.order.shelf = 15)) ∧
        tabGet none s.engine.releaseAllAt 15 = some y.2 ∧ (s.clock < y.2 + 1000 ↔ y.2 = 1001) ∧
        s.ports.southBacklog = [] ∧ s.ports.southQueue.length < 31 ∧ s.engine.orders.length < 16 ∧
        s.engine.waiting = [] := by decide +kernel
theorem witness_SecondMismatchStartsAudit :
    TransitArrives (freshShelf true) .south (summary15 255) ∧ (summary15 255).kind = 0x13#8 ∧
      shelfOf (summary15 255).src = some 15 ∧ (shelfAt (freshShelf true) 15).released = true ∧
      (shelfAt (freshShelf true) 15).freshness = .fresh ∧ (shelfAt (freshShelf true) 15).mismatch = true ∧
      (shelfAt (freshShelf true) 15).audit = none ∧
      (field2 (summary15 255) 0).toNat ≠ (shelfAt (freshShelf true) 15).offHook ∧
      (freshShelf true).ports.southBacklog = [] ∧ (freshShelf true).ports.southQueue.length < 32 := by decide +kernel

/-- An audit with `k` cards in, and a report of the last card. -/
def audit0 (k : Nat) : Audit :=
  { tag := 5, timer := some 3, cards := (List.range k).map (fun i => (i, List.replicate 16 .idle)) }
def audited (k r : Nat) : State :=
  shelf15 (fun x => { x with freshness := .drift, audit := some (audit0 k), auditRetries := r })
def auditCell (tag card : Octet) : Cell := toOwn 0x24#8 0x1F#8 ([tag, card] ++ List.replicate 8 0x14#8)
theorem witness_AuditReportKeptOrDiscarded :
    OwnArrives (audited 14 0) .south (auditCell 5 15) ∧ (auditCell 5 15).kind = 0x24#8 ∧
      shelfOf (auditCell 5 15).src = some 15 ∧ (shelfAt (audited 14 0) 15).audit = some (audit0 14) ∧
      (auditHooks (auditCell 5 15)).isSome = true ∧
      (tabPut [] (audit0 14).cards 15 ((auditHooks (auditCell 5 15)).getD [])).length < 16 ∧
      OwnArrives (audited 14 0) .south (auditCell 4 15) ∧ OwnArrives (audited 14 0) .south (auditCell 5 16) ∧
      auditHooks (toOwn 0x24#8 0x1F#8 [5, 15]) = none := by decide +kernel
theorem witness_AuditCompletes :
    (OwnArrives (audited 15 2) .south (auditCell 5 15) ∧ NoRequests (audited 15 2) ∧
      shelfOf (auditCell 5 15).src = some 15 ∧ (shelfAt (audited 15 2) 15).audit = some (audit0 15) ∧
      (auditHooks (auditCell 5 15)).isSome = true ∧
      (tabPut [] (audit0 15).cards 15 ((auditHooks (auditCell 5 15)).getD [])).length = 16) ∧
    HookCountsAgree (audited 15 2).tracker := by
  refine ⟨by decide +kernel, .nil, fun n => ?_⟩
  by_cases h : n = 15
  · subst h; decide +kernel
  · have e : tabGet shelfZero (audited 15 2).tracker.shelves n = shelfZero := by
      show shelfAt (modShelf _ 15 _) n = shelfZero
      rw [shelfAt_modShelf, if_neg h]
      rfl
    rw [e]; exact ⟨rfl, rfl⟩
theorem witness_HeartbeatExpiry :
    let s := shelf15 (fun x => { x with heartbeat := some 0 })
    Awake s ∧ (shelfAt s (15 : Fin 16)).heartbeat.isSome = true := by decide +kernel
/-- BLOCKED of line 0xFFF is about to leave for its DIAL session in RESERVED; the line's hook state as given. -/
def blockedReport : Cell := makeCell 0x41#8 0x40#8 0x01#8 [0x0F, 0xFF, 1]
def dialing (h : Hook) : State :=
  onTables (onArbiter (modLine (putSession (sending [blockedReport] [] []) 7
    (some { session0 with line := 0xFFF, state := .reserved })) 0xFFF (fun l => { l with hook := h }))
    (fun a => { a with marks := [(0xFFF, .reserved)] })) (fun t => { t with
      programs := [(1, { steps := [.dial 3], routineAllowed := false })] })
theorem witness_UrgentSentFirst_dial :
    (∀ h ∈ [Hook.idle, .parked], let s := dialing h
      Awake s ∧ 0 < s.ports.northSlots ∧ s.ports.urgent = blockedReport :: [] ∧ blockedReport.kind = 0x41#8 ∧
        payloadAt blockedReport 2 = 1#8 ∧
        (∃ x, sessionOnLine s (field2 blockedReport 0).toNat = some (7, x) ∧ x.bus = none ∧ x.state = .reserved ∧
          (programAt s x.program).steps = [.dial 3]) ∧
        markOf s (field2 blockedReport 0).toNat ≠ .free ∧
        ((lineOf s (field2 blockedReport 0).toNat).hook = .idle ↔ h = .idle)) ∧
    ∀ id x, sessionOnLine (sending [blockedReport] [] []) (field2 blockedReport 0).toNat = some (id, x) →
      x.bus.isSome = true ∨ x.state ≠ .reserved := by
  refine ⟨fun h _ => ⟨?_, by cases h <;> decide +kernel, rfl, by decide +kernel, by decide +kernel,
    ⟨{ session0 with line := 0xFFF, state := .reserved }, ?_⟩, ?_, ?_⟩, fun id x h => ?_⟩
  · cases h <;> decide +kernel
  · cases h <;> decide +kernel
  · cases h <;> decide +kernel
  · cases h <;> decide +kernel
  · have e : sessionOnLine (sending [blockedReport] [] []) (field2 blockedReport 0).toNat = none := by decide +kernel
    rw [e] at h; cases h

/-- A DIAL session of line 0xFFF in the given state with its collector, a settling window and another session open. -/
def dialOn (v : SessionState) (z : Collector) : State :=
  let s := modLine synced 0xFFF (fun l => { l with
    hook := .ringing, blocked := true, lastForwarded := .idle, writtenAt := 3 })
  let s := onArbiter s (fun a => { a with marks := [(0xFFF, .inSession)], service := .suspended })
  let s := putWindow (recountShelf s 15) 2 (some { window0 with line := 3900, ringingMax := 0 })
  putCollector (putSession (putSession s 7 (some { session0 with line := 0xFFF, state := v })) 1 (some session0)) 7 z
def active0 : Collector :=
  { collectorZero with
    phase := .active, limit := 3, breaks := 1, firstStart := 100, latestStart := 100, latestLength := 60, earlierSum := 5
    closedSince := some 160 }
def waiting0 : Collector := { active0 with phase := .waiting, breaks := 0 }
theorem witness_LineReportSuppressedOrUnread_consumed :
    (∀ m ∈ [(1#8, some Hook.offHook), (2#8, some .idle), (3#8, none), (4#8, none), (5#8, some .parked),
        (6#8, some .offHook)],
      ∀ y ∈ [(SessionState.awaitOffHook, waiting0), (.collecting, active0),
        (.collecting, { active0 with loopOpen := true }),
        (.collecting, { active0 with pending := some (true, 248) }),
        (.collecting, { active0 with pending := some (true, 249) }),
        (.collecting, { active0 with pending := some (true, 248), breaks := 0 }),
        (.collecting, { active0 with pending := some (false, 248), loopOpen := true })],
      let s := dialOn y.1 y.2
      let c := report15 m.1
      TransitArrives s .south c ∧ c.kind = 0x11#8 ∧ (field2 c 0).toNat = 0xFFF ∧ NoRequests s ∧
        c.src = BitVec.ofNat 8 (0x10 + 15) ∧ payloadAt c 2 = m.1 ∧ (lineOf s 0xFFF).cutOff = false ∧
        sessionOnLine s 0xFFF = some (7, { session0 with line := 0xFFF, state := y.1 }) ∧ collectorAt s 7 = y.2 ∧
        y.2.phase = (if y.1 = .awaitOffHook then .waiting else .active) ∧ y.2.digits.length < y.2.limit ∧
        (field2 c 3).toNat = 258 ∧ markOf s 0xFFF ≠ .free) ∧
    (258 + 65536 - 248) % 65536 = 10 ∧ (248 + 65536 - 160) % 65536 < 251 ∧ waiting0.digits = [] ∧ waiting0.breaks = 0 ∧
    session0.bus = none ∧ session0.verdict = .notJudged ∧ session0.slot = some 0 ∧ session0.requesters ≠ [] ∧
    session0.outcome = none := by decide +kernel

/-- The session on line 0xFFF in RESERVED with the given bus, its order waiting or outstanding. -/
def reserved15 (bus : Option Nat) (ws : List Order) (os : List OutstandingOrder) : State :=
  let s := onEngine (onPorts (dialOn .reserved collectorZero) (fun p => { p with
    southQueue := List.replicate 31 idleCell })) (fun e => { e with waiting := ws, orders := os })
  let s := putRiser (modBus s 3 (fun b => { b with state := .attached, holder := .session 7 })) 15 (.operated 3)
  modSession (onArbiter s (fun a => { a with marks := [(0xFFF, .reserved)] })) 7 (fun x => { x with bus := bus })
/-- The RISER OPERATE of session 7, and an order of another owner around it. -/
def riserOrder15 : Order := riserOperateOrder 15 3 (.session 7)
def beforeIt : List Order := [releaseAllOrder 0 (.startUp 0)]
theorem witness_LineReportSuppressedOrUnread_abandoned :
    (∀ y ∈ [(none, ([] : List Order), ([] : List OutstandingOrder)),
        (some 3, beforeIt ++ riserOrder15 :: beforeIt, [otherOrder]),
        (some 3, [], [otherOrder] ++ sessionOrder riserOrder15 :: [otherOrder])],
      let s := reserved15 y.1 y.2.1 y.2.2
      (∀ code ∈ [1#8, 6#8], TransitArrives s .south (report15 code)) ∧ NoRequests s ∧ (lineOf s 0xFFF).cutOff = false ∧
        sessionOnLine s 0xFFF = some (7, { session0 with line := 0xFFF, state := .reserved, bus := y.1 }) ∧
        markOf s 0xFFF ≠ .free ∧ s.arbiter.service ≠ .inService ∧ s.ports.urgent = [] ∧ s.ports.urgentBacklog = [] ∧
        s.ports.southBacklog = [] ∧ s.ports.southQueue.length < 32 ∧ (busAt s 3).state = .attached ∧
        (busAt s 3).quarantine = none ∧ (busAt s 3).removePending = false) ∧
    riserOrder15.kind = .riserOperate ∧ riserOrder15.owner = .session 7 ∧
    (∀ y ∈ beforeIt ++ beforeIt, y.owner ≠ .session 7) ∧
    (∀ y ∈ [otherOrder] ++ [otherOrder], y.order.owner ≠ .session 7) ∧ ([otherOrder] ++ [otherOrder]).length < 16 ∧
    (sessionOrder riserOrder15).order.owner = .session 7 ∧ session0.cls = .demand ∧ session0.outcome = none := by
  decide +kernel

/-- The ACCESS OPERATE of that session waits in the South backlog. -/
def operateWaits : State :=
  let o := accessOperateOrder 0xFFF (.session 7)
  onPorts (reserved15 (some 3) [] ([otherOrder] ++ unjoined o :: [])) (fun p => { p with
    southQueue := List.replicate 32 idleCell, southBacklog := [relayOrderCell (own synced) 255 o] })
theorem witness_LineReportSuppressedOrUnread_operating :
    let s := operateWaits
    TransitArrives s .south (report15 1) ∧ NoRequests s ∧ (lineOf s 0xFFF).cutOff = false ∧
      sessionOnLine s 0xFFF = some (7, { session0 with line := 0xFFF, state := .reserved, bus := some 3 }) ∧
      markOf s 0xFFF ≠ .free ∧ s.arbiter.service ≠ .inService ∧ s.ports.urgent = [] ∧ s.ports.urgentBacklog = [] ∧
      s.ports.southBacklog ≠ [] ∧ s.engine.waiting = [] ∧
      s.engine.orders = [otherOrder] ++ unjoined (accessOperateOrder 0xFFF (.session 7)) :: [] ∧
      makeCell 0x21#8 (own s) 0x1F#8 ([0#8, 3#8, 0#8] ++ octets2 0xFFF) ∉ s.ports.southBacklog := by decide +kernel
/-- R34, R37: an OFF_HOOK abandons that session; its ACCESS OPERATE joins all the same and cuts the line off, an
APPLY_RING then leaves nothing on Port S, and the acknowledged ACCESS RELEASE of the clean-up ends the cut-off. -/
theorem test_ring_law_after_abandonment :
    let room := fun (s : State) => onPorts s (fun p => { p with southQueue := [] })
    let abandoned := room (after (exec (.lineReport (report15 1)) operateWaits))
    let operated := after (exec (.offerBacklogJoin .south) abandoned)
    let rung := after (exec (.lineOrder (ring15 1)) operated)
    let released := after (exec (.offerBacklogJoin .south) rung)
    let tag := (released.engine.orders.getLast?.map (fun o => octet o.tag)).getD 0#8
    let acked := after (exec (.orderAck (toOwn 0x22#8 0x1F#8 [tag, 1#8])) released)
    sessionAt abandoned 7 = none ∧ markOf abandoned 0xFFF = .free ∧ (lineOf abandoned 0xFFF).cutOff = false ∧
      (lineOf operated 0xFFF).cutOff = true ∧ rung.ports.southTx = operated.ports.southTx ∧
      (lineOf rung 0xFFF).hook = .offHook ∧ (lineOf acked 0xFFF).cutOff = false ∧ (lineOf acked 0xFFF).hook = .idle ∧
      acked.ports.southQueue.map (fun c => payloadAt c 1) = [2#8, 3#8, 4#8] := by decide +kernel

/-- R82, R193: SWEEP_STOP of an INCOMPLETE schedule takes its waiting entry out of the queue; its statistics, and the
lines of running sessions, stay. -/
theorem test_stop_incomplete_schedule :
    let run := { scheduleZero.run with state := .incomplete, outstanding := [(256, false), (300, false)], skipped := 4 }
    let s := { onArbiter State.reset (fun a => { a with queue := [{ entry0 with cls := .routine 3 }] }) with
      schedules := [(3, { scheduleZero with run := run })] }
    let t := stopSweep s 3 config0
    t.arbiter.queue = [] ∧ (scheduleAt t 3).run.state = .stopped ∧ (scheduleAt t 3).run.outstanding = [(300, false)] ∧
      (scheduleAt t 3).run.skipped = 4 := by decide +kernel

theorem witness_HeartbeatExpiry_sessions :
    ∀ f ∈ [Freshness.fresh, .drift, .stale],
      let s := putSession (putSession (shelf15 (fun x => { x with
        heartbeat := some 0, freshness := f, mismatch := true })) 7 (some { session0 with line := 4000 })) 2 (some session0)
      Awake s ∧ (shelfAt s (15 : Fin 16)).heartbeat.isSome = true ∧ (shelfAt s 15).freshness = f ∧
        (sessionAt s 7).map (fun x => x.line / 256) = some 15 ∧ (sessionAt s 2).map (fun x => x.line / 256) = some 1 := by
  decide +kernel
theorem witness_AuditExpiry :
    Awake (audited 3 2) ∧ (shelfAt (audited 3 2) (15 : Fin 16)).audit = some (audit0 3) ∧ (audit0 3).timer.isSome = true ∧
      2 ≤ (shelfAt (audited 3 2) 15).auditRetries ∧ (shelfAt (audited 3 1) 15).auditRetries < 2 ∧
      (audited 3 1).ports.southBacklog = [] ∧ (audited 3 1).ports.southQueue.length < 32 ∧
      (shelfAt (audited 3 1) 15).audit = some (audit0 3) ∧
      (let s := onPorts (audited 3 1) (fun p => { p with southQueue := List.replicate 32 idleCell })
       Awake s ∧ (shelfAt s 15).audit = some (audit0 3) ∧ (shelfAt s 15).auditRetries < 2 ∧
        ¬ (s.ports.southBacklog = [] ∧ s.ports.southQueue.length < 32) ∧ s.ports.southBacklog = []) ∧
      Awake synced ∧ (shelfAt synced (15 : Fin 16)).audit = none := by decide +kernel
theorem witness_LineAgeSecond : Awake started ∧ ∀ len, (lineOf started len).writtenAt ≤ started.tracker.ageClock :=
  ⟨by decide +kernel, fun _ => Nat.zero_le 0⟩

/-! #### Commands -/

/-- The maintenance processor. -/
abbrev mp : Octet := 0x02#8

/-- The NORMAL queue with room for `k` cells. -/
def roomFor (k : Nat) (s : State) : State := onPorts s (fun p => { p with reserved := 48 - k })

theorem witness_CommandsTested :
    Awake (roomFor 12 started) ∧ commandRow (.readSweep mp 1#16 7#8) = some ⟨mp, 1#16, 33#8, .query, 13⟩ ∧
      normalRoom (roomFor 12 started) < 13 ∧ 13 ≤ normalRoom (roomFor 13 started) ∧
      holdsGroup (roomFor 13 started) 0x20#8 .query = false := by decide +kernel
theorem witness_ServiceCommands :
    [Service.starting, .unconfigured, .inService, .suspended].all (fun v =>
      let s := roomFor 1 (onArbiter started (fun a => { a with service := v }))
      decide (Accepts s mp 1 .service ∧ NoRequests s ∧ s.arbiter.service = v)) = true ∧
    1 ≤ normalRoom (roomFor 1 started) ∧ 34 < (35#8 : Octet).toNat := by decide +kernel
theorem witness_ReadsOfFields :
    Accepts (roomFor 5 started) mp 5 .query ∧ 4095 < (4096#16 : Half).toNat ∧ (4095#16 : Half).toNat ≤ 4095 ∧
      started.calendar.running = false ∧ Accepts (roomFor 5 lastSecond) mp 5 .query ∧
      lastSecond.calendar.running = true := by decide +kernel

/-- A part with a written schedule 7, full of deferred lines, and two tickets. -/
def filled7 : State :=
  onTickets (putSchedule (roomFor 13 started) 7 { config := some config0, run := { runZero with
    deferredLines := List.range 32 } }) (fun m => { m with tickets := [{ ticket0 with id := 0 }, { ticket0 with id := 63 }] })
theorem witness_ReadsOfTables :
    Awake filled7 ∧ 13 ≤ normalRoom filled7 ∧ holdsGroup filled7 mp .query = true ∧
      holdsGroup filled7 mp .ticket = true ∧ (63#8 : Octet).toNat ≤ 63 ∧ 63 < (64#8 : Octet).toNat ∧
      (scheduleAt filled7 7).config.isSome = true ∧ (scheduleAt filled7 7).run.deferredLines.length ≤ 32 ∧
      (scheduleAt filled7 0).config = none ∧ 7 < (8#8 : Octet).toNat ∧ (∃ t ∈ filled7.tickets.tickets, t.id = 63) ∧
      (∀ t ∈ filled7.tickets.tickets, t.id ≠ 7) ∧
      filled7.tickets.tickets = [{ ticket0 with id := 0 }] ++ { ticket0 with id := 63 } :: [] ∧
      (∀ u ∈ [{ ticket0 with id := 0 }], u.id ≠ 63) := by decide +kernel
theorem witness_ReadStatusClearsFlags :
    Accepts (roomFor 3 started) mp 3 .query ∧
      Accepts (onTables (roomFor 3 started) (fun t => { t with privileges := [(0x20#8, [.query])] })) 0x20#8 3 .query := by
  decide +kernel

theorem witness_DirectoryWrites :
    let s := roomFor 1 (onArbiter started (fun a => { a with marks := [(1, .reserved)] }))
    Accepts s mp 1 .table ∧ NoRequests s ∧ (∀ u ∈ s.tickets.tickets, u.subject ≠ .line 4095) ∧
      (4095#16 : Half).toNat ≤ 4095 ∧ (0#8 : Octet).toNat ≤ 15 ∧ (profileAt s 0).loaded = true ∧
      ((4#8 : Octet), LineType.dataOverVoice) ∈ [(1#8, LineType.plain), (2#8, .coin), (3#8, .pbxTrunk),
        (4#8, .dataOverVoice)] ∧ ((63#8 : Octet).toNat ≤ 63) ∧ markOf s 4095 = .free ∧ markOf s 1 ≠ .free ∧
      4095 < (4096#16 : Half).toNat ∧ 15 < (16#8 : Octet).toNat ∧ (profileAt s 15).loaded = false ∧
      (5#8 : Octet) ∉ [1#8, 2#8, 3#8, 4#8] ∧ 63 < (64#8 : Octet).toNat := by decide +kernel

/-- Profile fields at the ends of their ranges. -/
def profileEnds : ProfileArgs :=
  { number := 15#8, ground := 100000000#32, short := 99999999#32, insulation := 100000000#32, foreignDc := 150000#24
    foreignAc := 150000#24, capTipRing := 1000#24, capLegGround := 200000#24, minLength := 99999#24
    speedMin := 1000#16, speedMax := 1000#16, ratioMin := 100#8, ratioMax := 100#8 }
theorem witness_TableWrites :
    Accepts (roomFor 1 started) mp 1 .table ∧
      (profileInRange (profileOf profileEnds) = true ∧ profileEnds.number.toNat ≤ 15) ∧
      profileInRange (profileOf { profileEnds with short := 100000000#32 }) = false ∧
      (3#8 : Octet).toNat ≤ 3 ∧ 100 ≤ (100#16 : Half).toNat ∧ (1000#16 : Half).toNat ≤ 1000 ∧ 3 < (4#8 : Octet).toNat ∧
      (99#16 : Half).toNat < 100 ∧ 1000 < (1001#16 : Half).toNat ∧
      (2000 ≤ (2000#24 : Triple).toNat ∧ (1999#24 : Triple).toNat < (2000#24 : Triple).toNat) ∧
      ¬ ((2000#24 : Triple).toNat < (2000#24 : Triple).toNat) ∧ (63#8 : Octet).toNat ≤ 63 ∧
      (groupAt (roomFor 1 started) 63).storm = false ∧ (groupAt (roomFor 1 started) 63).count = 0 ∧
      63 < (64#8 : Octet).toNat := by decide +kernel

/-- Group 63 as given, with two wet tickets of line 5 in it and the given cable ticket, and the threshold 9. -/
def grouped (g : CableGroup) (cable : List Ticket) : State :=
  onTables (onTickets (roomFor 1 started) (fun _ => {
    tickets := { ticket0 with id := 0, subject := .line 5, cls := .tipGround } ::
      { ticket0 with id := 1, subject := .line 5, cls := .ringGround, attached := g.ticket.map (fun _ => 63) } :: cable
    groups := [(63, g)] }))
    (fun t => { t with directory := [(5, some { directory0 with group := some 63 })], thresholds := [(63, 9)] })
def calm63 : State := grouped { storm := false, count := 2, ticket := none } []
def storm63 : State := grouped { storm := true, count := 2, ticket := some 240 }
  [{ ticket0 with id := 240, subject := .cableGroup 63, cls := .cableStorm }]
theorem witness_TableWrites_storms :
    Accepts calm63 mp 1 .table ∧ NoNotices calm63 ∧ (groupAt calm63 63).storm = false ∧
      (∀ t ∈ [1, 2], t ≠ thresholdAt calm63 63 ∧ 1 ≤ t ∧ t ≤ (groupAt calm63 63).count) ∧
      (groupAt calm63 63).count < 3 ∧ findTicket calm63 (.cableGroup 63) .cableStorm = none ∧
      (∀ u ∈ calm63.tickets.tickets, u.id ≠ 240) ∧
    Accepts storm63 mp 1 .table ∧ NoNotices storm63 ∧ (groupAt storm63 63).storm = true ∧
      (groupAt storm63 63).ticket = some 240 ∧ (groupAt storm63 63).count ≤ 4 / 2 ∧ 3 / 2 < (groupAt storm63 63).count ∧
      0 ≠ thresholdAt storm63 63 ∧ 4 ≠ thresholdAt storm63 63 := by decide +kernel

/-- The privilege table with `n` entries. -/
def privileged (n : Nat) : State := onTables started (fun t => { t with
  privileges := (List.range n).map (fun k => (octet (0x20 + k), [.test])) })
theorem witness_PrivilegeWrites :
    Accepts (privileged 16) mp 1 .table ∧ (privilegeOf (privileged 16) 0x2F#8).isSome = true ∧
      privilegeOf (privileged 16) 0x30#8 = none ∧ 16 ≤ (privileged 16).tables.privileges.length ∧
      Accepts (privileged 15) mp 1 .table ∧ privilegeOf (privileged 15) 0x2F#8 = none ∧
      (privileged 15).tables.privileges.length < 16 ∧ (0x2F#8 : Octet) ≠ 0x02#8 ∧
      groupsOf 0x20#8 ≠ [] ∧ groupsOf 0xC0#8 = [] := by decide +kernel

/-- Program 31 with a load buffer of the given owner, eleven FV steps in it. -/
def fvSteps : List ProgramStep := List.replicate 11 (.fv .tipGround 8)
def loading (owner : Octet) : State := putBuffer started 31 (some
  { owner := owner, steps := fvSteps.zipIdx.map (fun x => (x.2 + 1, some x.1)), timer := 1 })
def raw0 : RawStep := { kind := 2, leg := 3, stimulus := 10000#24, window := 128#8, digits := 0#8 }
theorem witness_ProgramLoads :
    Accepts (loading mp) mp 1 .table ∧ (31#8 : Octet).toNat ≤ 31 ∧ stepOf raw0 = some (.res .tipRing 10000 128) ∧
      (bufferAt (loading mp) 31).all (fun b => b.owner = mp) = true ∧ fvSteps.length ≤ 11 ∧
      (bufferAt (loading mp) 31).map (·.steps) = some (fvSteps.zipIdx.map (fun x => (x.2 + 1, some x.1))) ∧
      (∀ x ∈ ProgramStep.res .tipRing 10000 128 :: fvSteps, isMetallic x = true) ∧
      programInUse (loading mp) 31 = false ∧ Accepts (loading 0x20#8) mp 1 .table ∧
      (bufferAt (loading 0x20#8) 31).all (fun b => b.owner ≠ mp) = true ∧ ((31 : Fin 32) : Nat) = 31 := by
  decide +kernel

/-! #### Schedules, calendar, buses, requests, tickets -/

/-- Schedule 7 written with `config0`, its run as given, its program fit. -/
def sweeping (r : SweepRun) : State :=
  putSchedule (onTables (roomFor 1 started) (fun t => { t with programs := [(1, program0)] })) 7
    { config := some config0, run := r }
def incomplete0 : SweepRun :=
  { runZero with state := .incomplete, outstanding := [(5, true)], deferredLines := [6], skipped := 65535 }
def lastArgs : ScheduleArgs :=
  { number := 7#8, enable := 1#8, minute := 59#8, hour := 23#8, weekday := 6#8, day := 31#8, month := 12#8
    enables := 31#8, first := 4095#16, last := 4095#16, program := 1#8, window := 4#8, duration := 600#16
    report := 1#8 }
theorem witness_SweepCommands :
    (∀ v ∈ [RunState.idle, .active, .incomplete],
      let s := sweeping { incomplete0 with state := v, timer := some 0 }
      Accepts s mp 1 .schedule ∧ NoNotices s ∧ NoRequests s ∧ (scheduleAt s 7).config = some config0 ∧
        (scheduleAt s 7).run.state = v ∧ config0.window ≤ (scheduleAt s 7).run.outstanding.length ∧
        (scheduleAt s 7).run.timer.isSome = true ∧ (programAt s config0.program).steps ≠ [] ∧
        (programAt s config0.program).routineAllowed = true ∧ config0.first = config0.last ∧
        directoryAt s config0.first = none) ∧ 1 ≤ config0.window ∧
    scheduleInRange 7 (scheduleConfig lastArgs) = true ∧ lastArgs.program.toNat = config0.program ∧
    ((7 : Fin 8) : Nat) = (7#8 : Octet).toNat := by decide +kernel
theorem witness_CalendarTime :
    (Accepts (roomFor 1 started) mp 1 .schedule ∧ started.calendar.running = false ∧
      validTime 59 59 23 6 29 2 2096 = true ∧ validTime 59 59 23 6 29 2 2097 = false ∧
      Accepts (roomFor 1 lastSecond) mp 1 .schedule ∧ lastSecond.calendar.running = true ∧
      CalendarValid lastSecond.calendar ∧ lastSecond.calendar.second = 59 ∧
      CalendarValid { lastSecond.calendar with second := 29 } ∧ CalendarValid { lastSecond.calendar with second := 58 }) ∧
    (∀ n, (scheduleAt (roomFor 1 started) n).config = none) ∧ (∀ n, (scheduleAt (roomFor 1 lastSecond) n).config = none) :=
  ⟨by decide +kernel, fun _ => rfl, fun _ => rfl⟩

/-- Bus D as given. -/
def busD (f : Bus → Bus) : State := modBus (roomFor 1 started) 3 f
theorem witness_BusCommands :
    (∀ v ∈ [BusState.free, .attached, .quarantine, .outOfService, .stuck], ∀ r ∈ [true, false],
      let s := busD (fun b => { b with state := v, removePending := r, quarantine := some 0 })
      Accepts s mp 1 .service ∧ NoNotices s ∧ NoRequests s ∧ (busAt s 3).state = v ∧ (busAt s 3).removePending = r ∧
        (busAt s 3).quarantine.isSome = true ∧ (busAt s 3).holder = .none) ∧
    (busAt (busD (fun b => { b with holder := .cleanUp })) 3).holder ≠ .none ∧ 3 < (4#8 : Octet).toNat ∧
    ((3 : Fin 4) : Nat) = (3#8 : Octet).toNat := by decide +kernel
theorem witness_ForceReleaseFreesLine :
    let s := onArbiter (roomFor 1 started) (fun a => { a with marks := [(4095, .lockedOut), (4094, .reserved)] })
    Accepts s mp 1 .service ∧ NoRequests s ∧ 4095 < (4096#16 : Half).toNat ∧ markOf s 4095 = .lockedOut ∧
      markOf s 4094 ≠ .lockedOut ∧ s.ports.urgent = [] ∧ s.ports.urgentBacklog = [] := by decide +kernel

/-- Out of service, with the given requests waiting; line 256 and line 4095 provisioned, program 1 and 31 loaded. -/
def requested (q : List Entry) : State :=
  onTables (onArbiter (roomFor 1 suspended) (fun a => { a with queue := q })) (fun t => { t with
    programs := [(1, program0), (31, program0)], directory := [(256, some directory0), (4095, some directory0)] })
def routine0 : Entry := { entry0 with cls := .routine 3, requesters := [] }

/-- In service, with the line 4095 PARKED on an open shelf and program 31 loaded, fifteen orders outstanding and the
South queue one short of full. -/
def admitting : State :=
  let s := onArbiter (requested []) (fun a => { a with service := .inService })
  let s := modShelf s 15 (fun x => { x with freshness := .fresh, released := true })
  onPorts (onEngine (modLine s 4095 (fun l => { l with hook := .parked })) (fun e => { e with
    orders := (List.range 15).map (fun k => { tag := k, order := releaseAllOrder k (.startUp k), timer := some 40 }) }))
    (fun p => { p with southQueue := List.replicate 31 idleCell })
theorem witness_RequestCommands_admitted :
    (Accepts admitting mp 1 .test ∧ admitting.arbiter.service = .inService ∧ admitting.arbiter.queue = [] ∧
      (programAt admitting 31).steps ≠ [] ∧ isDialProgram (programAt admitting 31) = false ∧
      directoryAt admitting 4095 = some directory0 ∧ markOf admitting 4095 = .free ∧
      (lineOf admitting 4095).hook = .parked ∧ (shelfAt admitting (4095 / 256)).freshness = .fresh ∧
      (shelfAt admitting (4095 / 256)).released = true ∧ riserAt admitting (4095 / 256) = .free ∧
      (busAt admitting 0).state = .free ∧ (checkerAt admitting 0).degraded = false ∧ slotAt admitting 0 = .free ∧
      admitting.engine.orders.length < 16 ∧ admitting.engine.waiting = [] ∧ admitting.ports.southBacklog = [] ∧
      admitting.ports.southQueue.length < 32 ∧ admitting.ports.urgent = [] ∧ admitting.ports.urgentBacklog = []) ∧
    (4095#16 : Half).toNat ≤ 4095 ∧ (31#8 : Octet).toNat ≤ 31 ∧ ∀ id, sessionAt admitting id = none :=
  ⟨by decide +kernel, by decide, by decide, fun _ => rfl⟩
theorem witness_RequestCommands :
    (let s := requested [entry0, routine0]
     Accepts s mp 1 .test ∧ s.arbiter.service = .suspended ∧ (programAt s 31).steps ≠ [] ∧ (programAt s 0).steps = [] ∧
      directoryAt s 4095 = some directory0 ∧ directory0.noDialTest = false ∧ s.arbiter.queue = [entry0] ++ [routine0] ∧
      (∀ y ∈ [entry0], y.cls = .demand) ∧ (∀ y ∈ [routine0], y.cls ≠ .demand) ∧
      (∀ y ∈ [entry0], y.line ≠ 4095 ∨ y.program ≠ 31) ∧ ([entry0] ++ [routine0]).length < 64 ∧
      Requester.mk mp 9#16 ∉ entry0.requesters ∧ entry0.requesters.length < 4 ∧ entry0.reservation = none ∧
      entry0.slot = none ∧ Requester.mk 0x20#8 7#16 ∈ entry0.requesters) ∧
    (∃ w ∈ [Requester.mk mp 9#16, ⟨0x20#8, 7#16⟩], w ≠ Requester.mk mp 9#16) ∧
    4095 < (4096#16 : Half).toNat ∧ 31 < (32#8 : Octet).toNat ∧ entry0.line = (256 : Fin 4096) ∧
    entry0.program = (1 : Fin 32) ∧ ({ entry0 with slot := some 31 } : Entry).slot = some 31 ∧ entry0.requesters ≠ [] ∧
    (∀ id, sessionAt (requested [entry0, routine0]) id = none) :=
  ⟨by decide +kernel, by decide +kernel, by decide, by decide, rfl, rfl, rfl, by decide, fun _ => rfl⟩

/-- The ticket of id 63 between two others, in a state as given, and group 63 in STORM with it. -/
def ticketed (v : TicketState) : State :=
  onTickets (roomFor 1 started) (fun _ =>
    { tickets := [{ ticket0 with id := 0 }] ++ { ticket0 with id := 63, state := v } :: [{ ticket0 with id := 9 }]
      groups := [(63, { storm := true, count := 2, ticket := some 63 })] })
theorem witness_TicketCommands :
    (∀ v ∈ [TicketState.suspect, .opened, .dispatched, .cleared],
      Accepts (ticketed v) mp 1 .ticket ∧ NoNotices (ticketed v) ∧
        wetGroup (ticketed v) { ticket0 with id := 63, state := v } = none ∧
        (groupAt (ticketed v) 63).storm = true ∧ (groupAt (ticketed v) 63).ticket = some 63 ∧
        (groupAt (ticketed v) 62).storm = false ∧ (∀ u ∈ (ticketed v).tickets.tickets, u.id ≠ 255)) ∧
    (∀ u ∈ [{ ticket0 with id := 0 }] ++ [{ ticket0 with id := 9 }], u.id ≠ (63#8 : Octet).toNat) ∧
    63 < (64#8 : Octet).toNat ∧
    Accepts (onTables (ticketed .cleared) (fun t => { t with privileges := [(0x20#8, [.ticket])] })) 0x20#8 1 .ticket := by
  decide +kernel

/-- The ticket of a line class for line 256, as given, between two others. -/
def judged (c : FaultClass) (v : TicketState) : State :=
  onTickets (roomFor 1 started) (fun m => { m with
    tickets := [{ ticket0 with id := 0, cls := .openLoop }] ++ { ticket0 with id := 63, cls := c, state := v } ::
      [{ ticket0 with id := 1 }] })
theorem witness_TicketCommands_verdicts :
    (∀ v ∈ [TicketState.suspect, .opened, .dispatched, .cleared], ∀ c ∈ [FaultClass.tipGround, .crossHazard],
      Accepts (judged c v) mp 1 .ticket ∧ NoNotices (judged c v) ∧ c ∈ lineClasses ∧
        (directoryAt (judged c v) 256).bind (·.group) = none ∧
        (∀ u ∈ [{ ticket0 with id := 0, cls := .openLoop }], u.subject ≠ .line 256 ∨ u.cls ≠ c) ∧
        (∀ u ∈ [{ ticket0 with id := 0, cls := .openLoop }] ++ [{ ticket0 with id := 1 }], u.id ≠ (63#8 : Octet).toNat) ∧
        findTicket (judged c v) (.line 256) .dialFault = none ∧ 2 < 240 ∧
        (∀ u ∈ (judged c v).tickets.tickets, u.id ≠ 2) ∧
        (∀ j, j < 2 → ∃ u ∈ (judged c v).tickets.tickets, u.id = j)) ∧
    (let s := onTickets (roomFor 1 started) (fun m => { m with
       tickets := { ticket0 with id := 255 } :: (List.range 239).map (fun k => { ticket0 with id := k }) })
     (∀ u ∈ s.tickets.tickets, u.id ≠ 239) ∧ ∀ j, j < 239 → ∃ u ∈ s.tickets.tickets, u.id = j) := by
  decide +kernel

theorem witness_ReadsOfTables_sweep :
    let s := putSchedule filled7 7 { config := some config0, run := { runZero with
      outstanding := [(9, true), (5, false), (7, true), (6, true)], deferredLines := List.range 32
      tested := 8191, failed := 8190, skipped := 4096, stormSkipped := 1, deferred := 8191, cursor := none } }
    Awake s ∧ 13 ≤ normalRoom s ∧ holdsGroup s mp .query = true ∧ holdsGroup s mp .ticket = true ∧
      (scheduleAt s 7).config = some config0 ∧ (7#8 : Octet).toNat ≤ 7 ∧
      (scheduleAt s 7).run.deferredLines.length ≤ 32 ∧ (scheduleAt s 7).run.outstanding.length ≤ 4 ∧
      (∀ k ∈ [(scheduleAt s 7).run.tested, (scheduleAt s 7).run.failed, (scheduleAt s 7).run.skipped,
        (scheduleAt s 7).run.stormSkipped, (scheduleAt s 7).run.deferred], k < 8192) := by decide +kernel

/-- Program 7 loaded by two waiting step cells of the maintenance processor, and in use in the given way. -/
def buffer7 : LoadBuffer :=
  { owner := mp, steps := [(1, some (.res .tipRing 50000 16)), (2, some (.fv .tipGround 8))], timer := 5 }
def usedBy (way : Nat) (s : State) : State :=
  match way with
  | 0 => onArbiter s (fun a => { a with queue := [{ entry0 with program := 7 }], service := .suspended })
  | 1 => putSession s 7 (some { session0 with program := 7 })
  | _ => putSchedule s 3 { config := some { config0 with program := 7 }, run := { runZero with state := .active } }
theorem witness_ProgramLoads_inUse :
    (∀ way ∈ [0, 1, 2],
      let s := usedBy way (putBuffer started 7 (some buffer7))
      Accepts s mp 1 .table ∧ bufferAt s 7 = some buffer7 ∧ buffer7.owner = mp ∧
        buffer7.steps = [ProgramStep.res .tipRing 50000 16, .fv .tipGround 8].zipIdx.map (fun x => (x.2 + 1, some x.1)) ∧
        ((∃ y ∈ s.arbiter.queue, y.program = 7) ∨ (∃ id < 8, (sessionAt s id).any (fun y => y.program = 7) = true) ∨
          (∃ k < 8, ((scheduleAt s k).config.any (fun c => c.program = 7) = true ∧
            (scheduleAt s k).run.state = .active)))) ∧
    (let s := putBuffer started 7 (some buffer7)
     s.arbiter.queue = [] ∧ (∀ id < 8, sessionAt s id = none) ∧ (∀ k < 8, (scheduleAt s k).config = none)) := by
  decide +kernel
theorem witness_ProgramLoads_dial :
    stepOf { raw0 with kind := 4, digits := 2#8 } = some (.dial 2) ∧ bufferAt started 7 = none ∧
      Accepts started mp 1 .table ∧ started.arbiter.queue = [] ∧ (∀ id < 8, sessionAt started id = none) ∧
      (∀ k < 8, (scheduleAt started k).config = none) := by decide +kernel

/-- A raw step of the given kind, leg, stimulus, window and digit limit. -/
def rawStep (kind leg : Nat) (v : Int) (window digits : Octet) : RawStep :=
  { kind := kind, leg := leg, stimulus := BitVec.ofInt 24 v, window := window, digits := digits }
/-- R50 at the ends of its ranges: the valid steps, and what lies just outside them. -/
theorem witness_ProgramLoads_steps :
    [rawStep 1 1 0 8 0, rawStep 2 2 10000 128 0, rawStep 2 3 (-150000) 8 0, rawStep 3 3 (-10000) 16 0,
        rawStep 3 1 150000 128 0, rawStep 4 0 0 0 1, rawStep 4 0 0 0 3].map stepOf =
      [some (.fv .tipGround 8), some (.res .ringGround 10000 128), some (.res .tipRing (-150000) 8),
        some (.cap .tipRing (-10000) 16), some (.cap .tipGround 150000 128), some (.dial 1), some (.dial 3)] ∧
    (∀ r ∈ [rawStep 0 1 10000 16 1, rawStep 5 1 10000 16 1, rawStep 1 0 0 8 0, rawStep 1 4 0 8 0, rawStep 1 1 0 7 0,
        rawStep 1 1 0 129 0, rawStep 2 1 9999 16 0, rawStep 2 1 150001 16 0, rawStep 2 1 (-9999) 16 0,
        rawStep 3 1 (-150001) 16 0, rawStep 3 1 10000 15 0, rawStep 4 0 0 0 0, rawStep 4 0 0 0 4], stepOf r = none) := by
  decide +kernel
/-- The refusals: each of the tests of R52 and R53 that a step or a final cell can fail, with a buffer of its source's,
with another's and with none. -/
theorem witness_ProgramLoads_refused :
    (∀ s ∈ [loading mp, loading 0x20#8, started], Accepts s mp 1 .table) ∧ (32#8 : Octet).toNat > 31 ∧
      stepOf (rawStep 2 1 9999 16 0) = none ∧ stepOf raw0 = some (.res .tipRing 10000 128) ∧
      (0 < 1 ∧ 12 < 13 ∧ (11 : Nat) ≠ 12) ∧ bufferAt started 31 = none ∧
      (bufferAt (loading 0x20#8) 31).any (fun b => decide (b.owner ≠ mp)) = true ∧
      (let held := [(1, ProgramStep.fv .tipGround 8), (3, .dial 1)]
       let s := putBuffer started 31 (some { owner := mp, steps := held.map (fun x => (x.1, some x.2)), timer := 1 })
       Accepts s mp 1 .table ∧
         (bufferAt s 31).any (fun b => decide (b.owner = mp ∧ b.steps = held.map (fun x => (x.1, some x.2)))) = true ∧
         (2 < 12 ∧ ∀ x ∈ held, x.1 ≠ 2) ∧ (2 < 3 ∧ ∃ x ∈ held, x.1 = 3)) ∧
      (let steps := fvSteps ++ [.dial 1]
       steps.length ≤ 12 ∧ ¬ (∀ x ∈ steps, isMetallic x = true) ∧ ∀ k, steps ≠ [.dial k]) := by
  refine ⟨?_, ?_, ?_, ?_, ?_, ?_, ?_, ?_, ?_, ?_, ?_⟩ <;> first | decide +kernel | exact fun k h => by cases h

/-- Schedule 7 matches each minute 3:01 of Tuesdays and of 1 March, with the given run; schedule 2 has no match field.
-/
def matching : ScheduleConfig :=
  { config0 with minute := 1, hour := 3, onHour := true, weekday := 2, onWeekday := true, day := 1, month := 3
                 onDay := true, onMonth := true }
def scheduled (v : RunState) (os : List (Nat × Bool)) (fit : Bool) (second : Nat) : State :=
  let s := onTables started (fun t => { t with programs := [(1, { program0 with routineAllowed := fit })] })
  let s := putSchedule s 7 { config := some matching, run := { runZero with
    state := v, outstanding := os, deferredLines := [9], skipped := 8, timer := some 5 } }
  let s := putSchedule s 2 { config := some { config0 with onMinute := false, onHour := false }, run := runZero }
  { s with calendar := { running := true, prescaler := 999, second := second, minute := 0, hour := 3, weekday := 2
                         day := 1, month := 3, year := 2024 } }
theorem witness_CalendarTime_matching :
    (∀ y ∈ [(RunState.incomplete, [(6, true)], true), (.idle, [], true), (.complete, [], true), (.stopped, [], true),
        (.active, [], true), (.idle, [], false)],
      let s := scheduled y.1 y.2.1 y.2.2 59
      Accepts s mp 1 .schedule ∧ NoNotices s ∧ NoRequests s ∧ s.calendar.running = true ∧ CalendarValid s.calendar ∧
        s.calendar.second = 59 ∧ (scheduleAt s 7).config = some matching ∧ (scheduleAt s 7).run.state = y.1 ∧
        (∀ j < 8, j ≠ 7 → (scheduleAt s j).config.all (fun e =>
          decide (e.onMinute = false ∧ e.onHour = false ∧ e.onWeekday = false ∧ e.onDay = false ∧ e.onMonth = false)) =
            true) ∧
        (programAt s matching.program).steps ≠ [] ∧ (programAt s matching.program).routineAllowed = y.2.2 ∧
        (y.1 = .incomplete → matching.window ≤ (scheduleAt s 7).run.outstanding.length) ∧
        directoryAt s matching.first = none) ∧
    matching.first = matching.last ∧ 1 ≤ matching.window ∧ matching.enable = true ∧ matching.minute = 0 + 1 ∧
    matching.hour = 3 ∧ matching.weekday = 2 ∧ matching.day = 1 ∧ matching.month = 3 := by decide +kernel

/-- Bus D STUCK with its release retry, which has an order outstanding and one waiting; the risers as given. -/
def stuckD (rs : List (Nat × Riser)) : State :=
  let s := modBus (roomFor 1 started) 3 (fun b => { b with
    state := .stuck, retry := some { order := .access 5, resends := 3, timer := none }, removePending := true })
  onEngine s (fun e => { e with
    orders := [otherOrder, { tag := 3, order := accessReleaseOrder 5 (.retry 3), timer := some 4 }]
    waiting := [releaseAllOrder 0 (.startUp 0), accessReleaseOrder 5 (.retry 3)], risers := rs })
theorem witness_BusCommands_stuck :
    (∀ rs ∈ [[], [(14, Riser.operated 1)], [(14, .operated 1), (15, .operated 3)], [(14, .unknown 1), (15, .unknown 3)]],
      let s := stuckD rs
      Accepts s mp 1 .service ∧ NoNotices s ∧ NoRequests s ∧ (busAt s 3).state = .stuck ∧
        ∀ k < 16, (riserAt s k = .operated 3 ∨ riserAt s k = .unknown 3) ↔ (k = 15 ∧ rs.length = 2)) := by
  decide +kernel

/-- No bus is FREE, or the riser of shelf 15 is taken; session 4 on bus C is the routine one to preempt, in the given
state with the given window, the South queue two short of full. -/
def victim (b line admission : Nat) (v : SessionState) : Session :=
  { session0 with
    cls := .routine 2, line := line, bus := some b, admission := admission, state := v, dialTimer := none, slot := none
    requesters := [] }
def preempting (riser : Bool) (v : SessionState) (w : Option Window) : State :=
  let s := modLine (modShelf (onTables (onArbiter (roomFor 1 started) (fun a => { a with
    service := .inService, admissions := 9 })) (fun t => { t with
      directory := [(0xFFF, some directory0)], programs := [(1, program0)] })) 15
    (fun x => { x with freshness := .fresh, released := true })) 0xFFF (fun l => { l with hook := .parked })
  let s := putSession s 4 (some (victim 2 (if riser then 3845 else 512) 8 v))
  let s := if riser then putRiser s 15 (.operated 2) else
    [0, 1, 3].foldl (fun s b => putSession s (b + 2) (some (victim b (256 * b) b v))) s
  let s := [0, 1, 2, 3].foldl (fun s b => modBus s b (fun x => { x with
    state := if riser ∧ b = 0 then .free else .attached, holder := .session (b + 2) })) s
  putWindow (onInterp (onPorts s (fun p => { p with southQueue := List.replicate 30 idleCell }))
    (fun i => { i with slots := (List.range 31).map (fun n => (n, .reserved)) })) 2 w
theorem witness_RequestCommands_preempts :
    ∀ riser ∈ [true, false], ∀ v ∈ [SessionState.settling, .measuring], ∀ w ∈ [some window0, none],
      let s := preempting riser v w
      Accepts s mp 1 .test ∧ s.arbiter.service = .inService ∧ s.arbiter.queue = [] ∧ (programAt s 1).steps ≠ [] ∧
        isDialProgram (programAt s 1) = false ∧ directoryAt s 0xFFF = some directory0 ∧ markOf s 0xFFF = .free ∧
        (lineOf s 0xFFF).hook = .parked ∧ (shelfAt s 15).freshness = .fresh ∧ (shelfAt s 15).released = true ∧
        sessionAt s 4 = some (victim 2 (if riser then 3845 else 512) 8 v) ∧ slotAt s 31 = .free ∧
        (riserAt s 15 = .free ↔ riser = false) ∧
        (riser = false → (∀ j < 4, (busAt s j).state ≠ .free) ∧ 512 / 256 ≠ 15 ∧
          ∀ y ∈ s.engine.sessions, y.1 ≠ 4 → y.2.all (fun z => z.admission < 8) = true) ∧
        (riser = true → 3845 / 256 = 15 ∧ s.engine.sessions.length = 1) ∧ s.engine.orders.length < 16 ∧
        s.engine.waiting = [] ∧ s.ports.southBacklog = [] ∧ s.ports.southQueue.length ≤ 30 := by decide +kernel

/-! #### Notices, results, restart -/

/-- Desk 7, the last unit, with notices waiting. -/
def noticed (r : Bool) (k : Nat) : State :=
  roomFor k (onTables (putUnit started 8 { mask := [.bus], pending := [.bus 3 .stuck], resync := r })
    (fun t => { t with privileges := [(0x27#8, [.query]), (0x28#8, [.query])] }))
theorem witness_NoticeMasksAndDelivery :
    Awake (noticed true 1) ∧ 1 ≤ normalRoom (noticed true 1) ∧ holdsGroup (noticed true 1) 0x27#8 .query = true ∧
      (0x27#8 : Octet) = BitVec.ofNat 8 (0x1F + (8 : Fin 9)) ∧ holdsGroup (noticed true 1) 0x28#8 .query = true ∧
      0x27 < (0x28#8 : Octet).toNat ∧ (unitAt (noticed true 1) (8 : Fin 9)).resync = true ∧
      (unitAt (noticed false 1) (8 : Fin 9)).resync = false ∧
      (unitAt (noticed false 1) (8 : Fin 9)).pending = .bus 3 .stuck :: [] ∧ normalRoom (noticed true 0) = 0 := by
  decide +kernel

/-- The pace timer run out, with a command cell of the given payload in the FIFO. -/
def paced (p : List Octet) : State :=
  onInterp (onPorts started (fun q => { q with intake := [toOwn 0x51#8 mp p] })) (fun i => { i with pace := .running 0 })
theorem witness_PaceTimerTakesEntry :
    (∀ code ∈ [0, 1, 4, 8, 12, 16, 20, 24, 29, 35],
      let s := paced [0, 1, BitVec.ofNat 8 code, 0x11]
      Awake s ∧ s.interp.pace = .running 0 ∧
        s.ports.intake = toOwn 0x51#8 mp [0, 1, BitVec.ofNat 8 code, 0x11] :: [] ∧
        payloadAt (toOwn 0x51#8 mp [0, 1, BitVec.ofNat 8 code, 0x11]) 3 = 0x11#8 ∧
        (payloadAt (toOwn 0x51#8 mp [0, 1, BitVec.ofNat 8 code, 0x11]) 2).toNat = code) ∧
    (∀ part ∈ [0x12#8, 0x13#8, 0x15#8, 0x1F#8],
      let s := paced [0, 1, 15, part]
      Awake s ∧ s.ports.intake = toOwn 0x51#8 mp [0, 1, 15, part] :: [] ∧
        (payloadAt (toOwn 0x51#8 mp [0, 1, 15, part]) 3).toNat / 16 = 1 ∧
        2 ≤ (payloadAt (toOwn 0x51#8 mp [0, 1, 15, part]) 3).toNat % 16) ∧
    (let s := onInterp started (fun i => { i with pace := .running 0 })
     Awake s ∧ s.interp.pace = .running 0 ∧ s.ports.intake = []) := by decide +kernel

theorem witness_PaceTimerTakesEntry_codes :
    (∀ code ∈ (List.range 36).map (BitVec.ofNat 8), ∀ a ∈ [0#8, 0xFF#8, 0x0F#8, 0x10#8, 0x22#8],
      let c := toOwn 0x51#8 mp [0, 1, code, 0x11, a, a, 0xFF]
      let s := paced c.payload
      Awake s ∧ s.interp.pace = .running 0 ∧ s.ports.intake = c :: [] ∧ payloadAt c 3 = 0x11#8 ∧ payloadAt c 2 = code ∧
        payloadAt c 4 = a ∧ payloadAt c 5 = a) ∧
    (0x10#8 : Octet).toNat / 16 ≠ 0 ∧ (0x10#8 : Octet).toNat % 16 = 0 ∧ (0x0F#8 : Octet).toNat % 16 ≠ 0 ∧
    (0x22#8 : Octet) ∉ [0xFF#8, 0#8] := by decide +kernel

/-- A source holds `k` parts of a command of five, or three; the FIFO has its next cell, with the given part octet. -/
def assembling (src : Octet) (a : List Assembly) (code part : Octet) (room : Nat) : State :=
  roomFor room (onInterp (onPorts started (fun q => { q with intake := [toOwn 0x51#8 src [0, 1, code, part, 9]] }))
    (fun i => { i with pace := .running 0, assemblies := { source := 0x2F#8, tag := 1, code := 1, count := 2, parts := [] } :: a }))
def partsOf (code : Octet) (count k : Nat) : Assembly :=
  { source := mp, tag := 1, code := code, count := count, parts := List.replicate k (List.replicate 8 1#8) }
theorem witness_PaceTimerTakesEntry_parts :
    (∀ x ∈ [((9#8 : Octet), 5, 1, (0x25#8 : Octet)), (9#8, 5, 4, 0x55#8), (15#8, 3, 1, 0x23#8), (15#8, 3, 2, 0x33#8),
        (29#8, 2, 1, 0x22#8)],
      let c := toOwn 0x51#8 mp [0, 1, x.1, x.2.2.2, 9]
      let s := assembling mp [partsOf x.1 x.2.1 x.2.2.1] x.1 x.2.2.2 3
      Awake s ∧ s.interp.pace = .running 0 ∧ s.ports.intake = c :: [] ∧
        s.interp.assemblies.find? (fun a => a.source = c.src) = some (partsOf x.1 x.2.1 x.2.2.1) ∧
        2 ≤ (payloadAt c 3).toNat / 16 ∧ (partsOf x.1 x.2.1 x.2.2.1).tag = field2 c 0 ∧
        (partsOf x.1 x.2.1 x.2.2.1).code = payloadAt c 2 ∧ (partsOf x.1 x.2.1 x.2.2.1).count = (payloadAt c 3).toNat % 16 ∧
        (payloadAt c 3).toNat / 16 = (partsOf x.1 x.2.1 x.2.2.1).parts.length + 1 ∧
        (payloadAt c 3).toNat / 16 ≤ (payloadAt c 3).toNat % 16) ∧
    ((groupOfCode 29#8).isSome = true ∧ 2 ≠ ownParts 29#8 ∧ answerPlaces 29#8 ≤ normalRoom (assembling mp [] 29 0x22 3) ∧
      normalRoom (assembling mp [] 29 0x22 2) < answerPlaces 29#8) ∧
    (∀ part ∈ [(0x00#8 : Octet), 0x0F#8, 0x10#8, 0x35#8, 0x65#8],
      let s := assembling 0x20#8 [{ partsOf 9 5 1 with source := 0x20#8 }] 9 part 1
      let n := part.toNat / 16
      let count := part.toNat % 16
      Awake s ∧ holdsGroup s 0x20#8 .table = false ∧ 1 ≤ normalRoom s ∧
        (n = 0 ∨ (n = 1 ∧ count = 0) ∨ (2 ≤ n ∧ ¬ (n = (partsOf 9 5 1).parts.length + 1 ∧ n ≤ count)))) ∧
    (assembling mp [] 9 0x25 1).interp.assemblies.find? (fun a => a.source = mp) = none ∧
    (∀ code ∈ [(9#8 : Octet), 15#8],
      let s := assembling mp [] code 0x11 1
      1 ≤ normalRoom s ∧ holdsGroup s mp .table = true ∧
        holdsGroup (assembling 0x20#8 [] code 0x11 1) 0x20#8 .table = false) := by decide +kernel

/-- The last slot filled, `sent` cells of it sent to its first recipient. -/
def delivering (k sent : Nat) (more : List Recipient) : State :=
  roomFor k (onInterp started (fun i => { i with
    slots := [(31, .filled record0 (⟨mp, 0⟩ :: more) sent)], fillingOrder := [31] }))
theorem witness_ResultDelivered :
    (∀ sent ∈ [0, 1, 2], ∀ more ∈ [[], [Recipient.mk 0x20#8 7#16]],
      Awake (delivering 1 sent more) ∧ (delivering 1 sent more).interp.fillingOrder = 31 :: [] ∧
        slotAt (delivering 1 sent more) 31 = .filled record0 (⟨mp, 0⟩ :: more) sent ∧
        0 < normalRoom (delivering 1 sent more) ∧ NoRequests (delivering 1 sent more)) ∧
    normalRoom (delivering 0 0 []) = 0 ∧ record0.results[1 - 1]? = some (resResult window0) ∧
    2 = record0.results.length + 1 := by decide +kernel
theorem witness_RestartKeepsAndEmpties :
    (Accepts (roomFor 1 fullRequests) mp 1 .service ∧ NoNotices (roomFor 1 fullRequests) ∧
      (roomFor 1 fullRequests).ports.urgent = [] ∧ (roomFor 1 fullRequests).ports.urgentBacklog = []) ∧
    (∀ id, sessionAt (roomFor 1 fullRequests) id = none) ∧ (∀ n, (shelfAt (roomFor 1 fullRequests) n).audit = none) ∧
    (∀ h, (checkerAt (roomFor 1 fullRequests) h).degraded = false) ∧
    (∀ b, (busAt (roomFor 1 fullRequests) b).state = .free ∧ (busAt (roomFor 1 fullRequests) b).holder = .none ∧
      (busAt (roomFor 1 fullRequests) b).quarantine = none ∧ (busAt (roomFor 1 fullRequests) b).retry = none) :=
  ⟨by decide +kernel, fun _ => rfl, fun _ => rfl, fun _ => rfl, fun _ => ⟨rfl, rfl, rfl, rfl⟩⟩

/-! #### Orders and measurement -/

/-- Both receivers in SYNC and the given outstanding orders. -/
def ordered (os : List OutstandingOrder) : State := onEngine synced (fun e => { e with orders := os })
def ack15 (src : Octet) (tag hook : Octet) : Cell := toOwn 0x22#8 src [tag, hook]
theorem witness_OrderAckTaken :
    (∀ w ∈ [Owner.freshRelease 15, .startUp 15],
      OwnArrives (ordered ([] ++ releaseAll15 w :: [])) .south (ack15 0x1F#8 255 0) ∧
        NoRequests (ordered ([] ++ releaseAll15 w :: [])) ∧
        (ordered ([] ++ releaseAll15 w :: [])).engine.orders = [] ++ releaseAll15 w :: [] ∧
        (releaseAll15 w).order.shelf = 15 ∧ (releaseAll15 w).order.kind = .releaseAll) ∧
    (ack15 0x1F#8 255 0).kind = 0x22#8 ∧ (ack15 0x1F#8 255 0).src = BitVec.ofNat 8 (0x10 + 15) ∧
    (payloadAt (ack15 0x1F#8 255 0) 0).toNat = 255 ∧ 15 ∈ synced.engine.startUp ∧
    (∀ x ∈ [releaseAll15 (.startUp 15)], x.tag ≠ (payloadAt (ack15 0x1F#8 254 0) 0).toNat) ∧
    (accessReleaseOrder 4095 (.session 7)).shelf = 15 ∧ payloadAt (ack15 0x1F#8 255 3) 1 ∉ [1#8, 2#8, 4#8] := by
  decide +kernel

/-- A metallic session of line 4095 on bus D, one of its orders outstanding, the South queue with room for two; `q`
says that the bus is in QUARANTINE with its timer running. -/
def metallic (v : SessionState) (held : Option Cell) : Session :=
  { session0 with line := 4095, bus := some 3, state := v, held := held, dialTimer := none, retries := 2 }
def connected (x : Session) (o : Order) (q : Bool) : State :=
  let s := ordered ([otherOrder] ++ sessionOrder o :: [])
  let s := putRiser (modBus (putSession s 7 (some x)) 3 (fun b => { b with
    state := if q then .quarantine else .attached, holder := .session 7
    quarantine := if q then some 5 else none, nextTag := 255 })) 15 (.operated 3)
  let s := modLine s 4095 (fun l => { l with hook := .idle, lastForwarded := .idle, blocked := true })
  onPorts (onArbiter s (fun a => { a with service := .suspended, marks := [(4095, .inSession)] }))
    (fun p => { p with southQueue := List.replicate 30 idleCell })
theorem witness_OrderAckTaken_sessions :
    (∀ y ∈ [(metallic .reserved none, riserOperateOrder 15 3 (.session 7), false),
        (metallic .connecting none, accessOperateOrder 4095 (.session 7), false),
        (metallic .releasing none, accessReleaseOrder 4095 (.session 7), false),
        (metallic .releasing (some (ring15 1)), accessReleaseOrder 4095 (.session 7), true),
        (metallic .releasing none, riserReleaseOrder 15 3 (.session 7), false),
        (metallic .releasing none, riserReleaseOrder 15 3 (.session 7), true),
        (metallic .releasing none, riserReleaseOrder 15 3 (.cleanUp 3), false),
        (metallic .releasing none, accessReleaseOrder 4095 (.cleanUp 3), false),
        (metallic .releasing none, riserReleaseOrder 15 3 (.cleanUp 3), true)],
      let s := connected y.1 y.2.1 y.2.2
      OwnArrives s .south (ack15 0x1F#8 255 4) ∧ NoRequests s ∧
        s.engine.orders = [otherOrder] ++ sessionOrder y.2.1 :: [] ∧ (∀ z ∈ [otherOrder] ++ [], z.tag ≠ 255) ∧
        (sessionOrder y.2.1).order.shelf = 15 ∧ ([otherOrder] ++ ([] : List OutstandingOrder)).length < 16 ∧
        s.engine.waiting = [] ∧ s.ports.southBacklog = [] ∧ s.ports.southQueue.length ≤ 30 ∧
        sessionAt s 7 = some y.1 ∧ y.1.bus = some 3 ∧ y.1.line / 256 = 15 ∧ (lineOf s 4095).hook = .idle ∧
        (lineOf s 4095).lastForwarded = .idle ∧ (busAt s 3).nextTag < 256 ∧
        findTicket s (.shelf 15) .accessFail = none ∧ (∀ c ∈ y.1.held, c.kind = 0x12#8) ∧
        s.arbiter.service ≠ .inService ∧ y.1.cls = .demand ∧ y.1.outcome = none ∧ markOf s 4095 ≠ .free ∧
        s.ports.urgent = [] ∧ s.ports.urgentBacklog = [] ∧ (busAt s 3).removePending = false ∧
        (busAt s 3).state = (if (busAt s 3).quarantine.isSome then .quarantine else .attached)) ∧
    (∀ k, windowAt (connected (metallic .releasing none) (accessReleaseOrder 4095 (.session 7)) true) k = none) ∧
    (let s := onPorts (connected (metallic .reserved none) (riserOperateOrder 15 3 (.session 7)) false)
      (fun p => { p with southQueue := List.replicate 32 idleCell, southBacklog := [idleCell] })
     OwnArrives s .south (ack15 0x1F#8 255 4) ∧ 32 ≤ s.ports.southQueue.length ∧
      makeCell 0x21#8 (own s) (ack15 0x1F#8 255 4).src ([0#8, 2#8, 0#8] ++ octets2 4095) ∉ s.ports.southBacklog ∧
      (lineOf s 4095).hook = .idle) ∧
    (payloadAt (ack15 0x1F#8 255 4) 0).toNat = 255 ∧
    (payloadAt (ack15 0x1F#8 255 4) 1, Hook.parked) ∈ [(1#8, Hook.idle), (2#8, .offHook), (4#8, .parked)] :=
  ⟨by decide +kernel, fun _ => rfl, by decide +kernel, by decide +kernel⟩

def ordering (os : List OutstandingOrder) (w : List Order) (r : Option ReleaseRetry) : State :=
  modBus (onPorts (onEngine started (fun e => { e with orders := os, waiting := w }))
    (fun p => { p with southQueue := List.replicate 31 idleCell })) 3 (fun b => { b with retry := r })
theorem witness_OrdersSentAndExpired :
    let o := riserReleaseOrder 15 3 (.cleanUp 3)
    let r : ReleaseRetry := { order := .riser 15, resends := 9, timer := some 0 }
    let e := fun w : Owner => ({ tag := 255, order := { o with owner := w }, timer := some 0 } : OutstandingOrder)
    Awake (ordering fifteen [o] none) ∧ (ordering fifteen [o] none).engine.waiting = o :: [] ∧
      o.kind = .riserRelease ∧ o.shelf = 15 ∧ o.bus ≤ 3 ∧ (ordering fifteen [o] none).engine.orders.length < 16 ∧
      (ordering fifteen [o] none).ports.southBacklog = [] ∧ (ordering fifteen [o] none).ports.southQueue.length < 32 ∧
      16 ≤ (ordering (fifteen ++ [e (.cleanUp 3)]) [o] none).engine.orders.length ∧
      (∀ w ∈ [Owner.freshRelease 15, .retry (3 : Fin 4)],
        (ordering (fifteen ++ e w :: []) [] (some r)).engine.orders = fifteen ++ e w :: [] ∧
          (e w).timer.isSome = true ∧ (e w).tag < 256 ∧ (∀ x ∈ fifteen ++ [], x.tag ≠ (e w).tag) ∧
          (busAt (ordering (fifteen ++ e w :: []) [] (some r)) (3 : Fin 4)).retry = some r) ∧
      r.timer.isSome = true ∧ r.order = .riser 15 ∧ (ordering fifteen [] (some r)).engine.waiting = [] ∧
      (ordering fifteen [] (some r)).engine.orders.length < 16 := by decide +kernel

/-- One order of a session or of a clean-up on bus D runs out, its shelf's ACCESS_FAIL ticket OPEN. -/
def failTicket0 : Ticket := { ticket0 with id := 241, subject := .shelf 15, cls := .accessFail, origin := .equipment }
def runningOut (x : Session) (o : Order) : State :=
  onTickets (onPorts (connected x o false) (fun p => { p with southQueue := List.replicate 31 idleCell }))
    (fun m => { m with tickets := [ticket0, failTicket0] })
theorem witness_OrdersSentAndExpired_sessions :
    (∀ y ∈ [(metallic .connecting none, accessOperateOrder 4095 (.session 7)),
        ({ metallic .connecting none with retries := 1 }, accessOperateOrder 4095 (.session 7)),
        ({ metallic .reserved none with retries := 1 }, riserOperateOrder 15 3 (.session 7)),
        (metallic .releasing none, riserReleaseOrder 15 3 (.session 7)),
        (metallic .releasing none, accessReleaseOrder 4095 (.session 7)),
        (metallic .releasing none, riserReleaseOrder 15 3 (.cleanUp 3))],
      let s := runningOut y.1 y.2
      Awake s ∧ s.engine.orders = [otherOrder] ++ sessionOrder y.2 :: [] ∧ (∀ z ∈ [otherOrder] ++ [], z.tag ≠ 255) ∧
        (sessionOrder y.2).timer.isSome = true ∧ NoRequests s ∧ NoNotices s ∧ (sessionOrder y.2).order.shelf = 15 ∧
        findTicket s (.shelf 15) .accessFail = some failTicket0 ∧ failTicket0.state = .opened ∧
        sessionAt s 7 = some y.1 ∧ y.1.bus = some ((3 : Fin 4) : Nat) ∧ y.1.line / 256 = 15 ∧
        s.engine.orders.length < 16 ∧ s.engine.waiting = [] ∧ s.ports.southBacklog = [] ∧
        s.ports.southQueue.length < 32 ∧ y.1.cls = .demand ∧ y.1.outcome = none ∧ y.1.verdict = .notJudged ∧
        (∀ r ∈ y.1.results, r.status = .notRun ∧ r.digits = []) ∧ y.1.slot = some 0 ∧ y.1.requesters ≠ [] ∧
        markOf s 4095 ≠ .free ∧ s.ports.urgent = [] ∧ s.ports.urgentBacklog = [] ∧
        s.arbiter.service ≠ .inService ∧ (lineOf s 4095).hook = .idle ∧ (lineOf s 4095).lastForwarded = .idle ∧
        (∀ z ∈ [otherOrder] ++ [], z.order.owner ≠ .session 7)) := by decide +kernel

theorem witness_OrdersSentAndExpired_cleanUp :
    let o := accessReleaseOrder 4095 (.cleanUp ((3 : Fin 4) : Nat))
    let s := onArbiter (runningOut (metallic .releasing none) o) (fun a => { a with marks := [] })
    Awake s ∧ s.engine.orders = [otherOrder] ++ sessionOrder o :: [] ∧ NoRequests s ∧ NoNotices s ∧ o.shelf = 15 ∧
      findTicket s (.shelf 15) .accessFail = some failTicket0 ∧ failTicket0.state = .opened ∧ o.kind = .accessRelease ∧
      (sessionOrder o).timer.isSome = true ∧ markOf s 4095 = .free := by decide +kernel
/-- R66, R110: that order running out leaves the line's mark, and a DIAL session that came on the line meanwhile. -/
theorem test_clean_up_runs_out :
    let o := accessReleaseOrder 4095 (.cleanUp 3)
    let dial := { session0 with line := 4095 }
    ∀ m ∈ [Mark.free, .reserved, .inSession],
      let s := putSession (onArbiter (runningOut (metallic .releasing none) o) (fun a => { a with marks := [(4095, m)] }))
        7 (some dial)
      let t := after (exec (.orderTimeout 255#8) s)
      markOf t 4095 = m ∧ sessionAt t 7 = some dial ∧ (busAt t 3).state = .stuck ∧
        (busAt t 3).retry.map (·.order) = some (.access 4095) := by decide +kernel

/-- The session's order waits for an entry, its line's hook state as given. -/
def listed (o : Order) (h : Hook) : State :=
  onPorts (onEngine (modLine (connected (metallic .reserved none) o false) 4095 (fun l => { l with hook := h }))
    (fun e => { e with orders := [otherOrder], waiting := [o] })) (fun p => { p with southQueue := List.replicate 31 idleCell })
theorem witness_OrdersSentAndExpired_listed :
    (∀ o ∈ [riserOperateOrder 15 3 (.session 7), accessReleaseOrder 4095 (.session 7),
        riserReleaseOrder 15 3 (.session 7)],
      let s := listed o .idle
      Awake s ∧ s.engine.waiting = o :: [] ∧ o.shelf = 15 ∧ s.engine.orders.length < 16 ∧ s.ports.southBacklog = [] ∧
        s.ports.southQueue.length < 32) ∧
    (∀ h ∈ [Hook.idle, .parked, .offHook, .ringing, .unknown],
      let x := metallic .reserved none
      let o : Order := { kind := .accessOperate, shelf := 15, bus := 0, line := x.line, owner := .session 7 }
      let s := listed o h
      Awake s ∧ s.engine.waiting = o :: [] ∧ sessionAt s 7 = some x ∧ x.line / 256 = 15 ∧ s.engine.orders.length < 16 ∧
        s.ports.southBacklog = [] ∧ s.ports.southQueue.length < 32 ∧ (lineOf s x.line).hook = h ∧ NoRequests s ∧
        s.arbiter.service ≠ .inService ∧ x.cls = .demand ∧ x.outcome = none ∧ markOf s x.line ≠ .free ∧
        s.ports.urgent = [] ∧ s.ports.urgentBacklog = [] ∧ x.bus = some ((3 : Fin 4) : Nat) ∧
        (∀ y ∈ s.engine.orders, y.order.owner ≠ .session 7)) := by decide +kernel

/-- The window of bus D as given, and a sample of head D. -/
def open3 (w : Option Window) : State := putWindow synced 3 w
def window14 : Window := { window0 with taken := 14, lastSeq := some 65535, tail := List.replicate 8 (1, 2) }
def sample3 (seq : List Octet) (tag v : Octet) : Cell := toOwn 0x32#8 0x33#8 (seq ++ [tag, v, 0, 0, 0, 0, 7, 1])
theorem witness_SampleAccumulated :
    let c := sample3 [0, 0] 3 0xFF
    OwnArrives (open3 (some window14)) .south c ∧ c.kind = 0x32#8 ∧ c.src = BitVec.ofNat 8 (0x30 + 3) ∧
      (field2 c 0).toNat = 0 ∧ (field3 c 3).toInt = -65536 ∧ (field3 c 6).toInt = 7 ∧
      windowAt (open3 (some window14)) 3 = some window14 ∧ window14.kind ∈ [.res, .cap] ∧ window14.hazardRun < 4 ∧
      window14.taken + 1 + window14.lost < window14.sized ∧ (payloadAt c 2).toNat = window14.tag ∧
      window14.lastSeq = some 65535 ∧ 0 = (65535 + 1) % 65536 ∧
      (payloadAt (sample3 [0, 0] 4 0xFF) 2).toNat ≠ window14.tag ∧ (field3 (sample3 [0, 0] 3 0x80) 3).toInt = -8388608 ∧
      (field2 (sample3 [0xFF, 0xFF] 3 0) 0).toNat = 65535 ∧ OwnArrives (open3 none) .south c ∧
      windowAt (open3 none) 3 = none := by decide +kernel
/-- Heads are 0x30 to 0x33: the sources beside them are none. -/
theorem witness_SampleAccumulated_noHead :
    ∀ src ∈ [(0x2F#8 : Octet), 0x34#8], let c := toOwn 0x32#8 src [0, 0, 3, 0xFF, 0, 0, 0, 0, 7, 1]
      OwnArrives (open3 (some window14)) .south c ∧ c.kind = 0x32#8 ∧ (∀ b < 4, c.src ≠ BitVec.ofNat 8 (0x30 + b)) := by
  decide +kernel

/-- A window of the given kind with three dangerous samples in a row on bus D, and the levels. -/
def levelled (k : WindowKind) (run danger clear : Nat) : State :=
  onTables (open3 (some { window14 with kind := k, hazardRun := run, taken := 4 })) (fun t => { t with
    danger := danger, clear := clear, heads := [(3, { headZero with target := 0x41#8 })] })
/-- A voltage of 65,536 mV at a level and just under it, in a settling and an FV window, after no gap and after one of 2:
the window stays open, its hazard run counting to 3 or from 3 to 0. -/
theorem witness_SampleAccumulated_midWindow :
    ∀ k ∈ [WindowKind.settling, .fv], ∀ clear ∈ [65536, 65537], ∀ seq ∈ [[(0 : Octet), 0], [0, 1]],
      ∀ y ∈ [(2, 65536, 3), (3, 65537, 0)],
      let c := sample3 seq 3 0xFF
      let s := levelled k y.1 y.2.1 clear
      let w := { window14 with kind := k, hazardRun := y.1, taken := 4 }
      let lost := (field2 c 0).toNat
      OwnArrives s .south c ∧ windowAt s 3 = some w ∧ (payloadAt c 2).toNat = w.tag ∧ (field3 c 3).toInt = -65536 ∧
        s.tables.danger = y.2.1 ∧ s.tables.clear = clear ∧ (lost = 0 ∨ lost = 1) ∧ w.lastSeq = some 65535 ∧
        (checkerAt s 3).running + lost ≤ float8 (headAt s 3).target ∧
        (if s.tables.danger ≤ (-65536 : Int).natAbs then w.hazardRun + 1 else 0) = y.2.2 ∧
        w.taken + 1 + (w.lost + lost) < w.sized := by decide +kernel

/-- The head of bus D with target 0x41, whose value is 4, the given running count and tickets, and a window with room. -/
def lossy (running : Nat) (degraded : Bool) (m : TimebaseMode) (ts : List Ticket) : State :=
  onTickets (onTables (putChecker (open3 (some { window14 with taken := 4 })) 3
      { checkerZero with running := running, degraded := degraded })
    (fun t => { t with heads := [(3, { headZero with target := 0x41#8, mode := m })] })) (fun t => { t with tickets := ts })
def headTicket (v : TicketState) : Ticket := { ticket0 with id := 240, subject := .head 3, cls := .headDegraded, state := v }
theorem witness_SampleAccumulated_gap :
    let w := { window14 with taken := 4 }
    ∀ y ∈ [([0, 1], lossy 3 false .hourly []), ([0, 2], lossy 3 false .hourly []), ([0, 1], lossy 4 true .hourly []),
        ([0, 1], lossy 4 false .continuous [{ ticket0 with id := 240 }]),
        ([0x80, 0], lossy 4 false .hourly [headTicket .opened]), ([4, 0], lossy 4 false .hourly [headTicket .cleared])],
      let c := sample3 y.1 3 0xFF
      let gap := ((field2 c 0).toNat + 65536 - 65535) % 65536
      OwnArrives y.2 .south c ∧ NoNotices y.2 ∧ windowAt y.2 3 = some w ∧ w.lastSeq = some 65535 ∧ 2 ≤ gap ∧
        (payloadAt c 2).toNat = w.tag ∧ w.taken + 1 + (w.lost + if gap ≤ 1024 then gap - 1 else 1) < w.sized ∧
        float8 (headAt y.2 3).target = 4 := by decide +kernel
/-- R139: with target 4, the lost sample that makes the count 4 leaves DEGRADED clear, the next one sets it. -/
theorem test_lost_samples_degrade :
    [[0, 1], [0, 2]].map (fun seq =>
      let s := after (exec (.sample (sample3 seq 3 0)) (lossy 3 false .hourly []))
      ((checkerAt s 3).running, (checkerAt s 3).degraded, s.tickets.tickets.map (·.value))) =
      [(4, false, []), (5, true, [some 5])] := by decide +kernel

/-- The window of bus D has three dangerous samples in a row, for a session in the given state. -/
def dangerous (v : SessionState) (k : WindowKind) : State :=
  let s := connected { metallic v none with results := [blankResult .notRun .fv (some .tipRing) false] }
    (riserReleaseOrder 15 0 (.cleanUp 0)) false
  onTables (putWindow s 3 (some { window14 with kind := k, hazardRun := 3 })) (fun t => { t with
    programs := [(1, { steps := [.fv .tipRing 64], routineAllowed := true })], danger := 65536 })
theorem witness_SampleAccumulated_hazard :
    ∀ y ∈ [(SessionState.settling, WindowKind.settling), (.measuring, .fv)], ∀ seq ∈ [[(0 : Octet), 0], [0, 1]],
      let c := sample3 seq 3 0xFF
      let s := dangerous y.1 y.2
      let w := { window14 with kind := y.2, hazardRun := 3 }
      OwnArrives s .south c ∧ windowAt s 3 = some w ∧ s.tables.danger ≤ (-65536 : Int).natAbs ∧
        (payloadAt c 2).toNat = w.tag ∧ w.lastSeq = some 65535 ∧ (field2 c 0).toNat < 2 ∧
        (checkerAt s 3).degraded = false ∧ s.tickets.tickets = [] ∧ (busAt s 3).holder = .session 7 ∧
        (sessionAt s 7).all (fun x => x.bus = some 3 ∧ x.outcome = none ∧ x.state = y.1 ∧ x.line / 256 ≤ 15 ∧
          (programAt s x.program).steps[x.step]? = some (.fv w.leg 64)) = true ∧ (sessionAt s 7).isSome = true ∧
        NoRequests s ∧ NoNotices s ∧ s.engine.orders.length < 16 ∧ s.engine.waiting = [] ∧
        s.ports.southBacklog = [] ∧ s.ports.southQueue.length ≤ 30 := by decide +kernel

/-- A session of a three-step program on bus D whose window ends with the next sample, with the given samples lost. -/
def program3 : Program :=
  { steps := [.res .tipRing (-50000) 8, .fv .ringGround 8, .cap .tipGround 30000 16], routineAllowed := true }
def ending (x : Session) (k : WindowKind) (lost : Nat) : State :=
  let s := connected { x with results := notRunResults program3, retries := 0 } (riserReleaseOrder 15 0 (.cleanUp 0)) false
  onTables (putWindow s 3 (some { window14 with kind := k, taken := 15 - lost, lost := lost, hazardRun := 3 }))
    (fun t => { t with programs := [(1, program3)], danger := 65537, clear := 65537 })
theorem witness_SampleAccumulated_completes :
    let c := sample3 [0, 0] 3 0xFF
    let x := metallic .settling none
    let m := { x with state := .measuring }
    ∀ y ∈ [(x, WindowKind.settling, 2), ({ x with ringGround := true }, .settling, 2), (x, .settling, 3),
        ({ x with repeated := true }, .settling, 3), (m, .res, 2), ({ m with step := 1 }, .fv, 2),
        ({ m with step := 2 }, .cap, 2), (m, .res, 3), ({ m with repeated := true }, .res, 3),
        ({ m with repeated := true, noData := 1 }, .res, 3), ({ m with repeated := true, step := 2 }, .cap, 3)],
      let s := ending y.1 y.2.1 y.2.2
      let w := { window14 with kind := y.2.1, taken := 15 - y.2.2, lost := y.2.2, hazardRun := 3 }
      OwnArrives s .south c ∧ windowAt s 3 = some w ∧ (-65536 : Int).natAbs < s.tables.danger ∧
        w.taken + 1 + w.lost = w.sized ∧ (payloadAt c 2).toNat = w.tag ∧ (busAt s 3).holder = .session 7 ∧
        (sessionAt s 7).all (fun z => decide (z.bus = some 3 ∧ z.outcome = none ∧ z.state = y.1.state ∧
          z.step = y.1.step ∧ z.repeated = y.1.repeated ∧ z.noData = y.1.noData ∧
          (programAt s z.program).steps = program3.steps)) = true ∧ (sessionAt s 7).isSome = true ∧
        (w.lost ≤ w.sized / 8 ↔ y.2.2 = 2) ∧ (busAt s 3).nextTag < 256 ∧ s.engine.orders.length < 16 ∧
        s.engine.waiting = [] ∧ s.ports.southBacklog = [] ∧ s.ports.southQueue.length ≤ 30 := by decide +kernel
/-- A window of 16 ended by the losses of its last sample's gap, reaching its size or passing it, with an eighth lost
and with more. -/
theorem witness_SampleAccumulated_endedByGap :
    let x := metallic .settling none
    ∀ v ∈ [(x, WindowKind.settling), ({ x with state := .measuring }, .res)],
      ∀ y ∈ [([(0 : Octet), 2], 13, 2, true), ([0, 3], 12, 3, false), ([3, 0xFF], 4, 1023, false), ([4, 0], 14, 1, true)],
      let c := sample3 y.1 3 0xFF
      let w := { window14 with kind := v.2, taken := y.2.1, hazardRun := 3 }
      let s := putWindow (ending v.1 v.2 0) 3 (some w)
      let gap := ((field2 c 0).toNat + 65536 - 65535) % 65536
      OwnArrives s .south c ∧ windowAt s 3 = some w ∧ w.lastSeq = some 65535 ∧ w.lost = 0 ∧ 2 ≤ gap ∧
        (if gap ≤ 1024 then gap - 1 else 1) = y.2.2.1 ∧ w.sized ≤ w.taken + 1 + y.2.2.1 ∧ w.taken + 1 < w.sized ∧
        (decide (y.2.2.1 ≤ w.sized / 8)) = y.2.2.2 ∧ (payloadAt c 2).toNat = w.tag ∧
        (checkerAt s 3).degraded = false ∧ s.tickets.tickets = [] ∧ NoNotices s ∧
        (-65536 : Int).natAbs < s.tables.danger ∧ (busAt s 3).holder = .session 7 ∧
        (sessionAt s 7).any (fun z => decide (z.bus = some 3 ∧ z.outcome = none ∧ z.state = v.1.state ∧
          z.repeated = false ∧ (programAt s z.program).steps = program3.steps)) = true ∧
        (busAt s 3).nextTag < 256 ∧ s.engine.orders.length < 16 ∧ s.engine.waiting = [] ∧
        s.ports.southBacklog = [] ∧ s.ports.southQueue.length ≤ 30 := by decide +kernel

/-- The session of id 7 as given, with its collector, the window of bus D open and the bus held as given. -/
def timed (h : Holder) (x : Session) (c : Collector) : State :=
  modBus (putCollector (putSession (putWindow started 3 (some window14)) 7 (some x)) 7 c) 3
    (fun b => { b with state := .attached, holder := h })
def collector0 : Collector :=
  { collectorZero with phase := .active, limit := 3, breaks := 11, firstStart := 65535, latestStart := 999, timer := some 0 }
theorem witness_MeasurementTimers :
    (∀ h ∈ [Holder.none, .session (7 : Fin 8)], let x := { session0 with bus := some ((3 : Fin 4) : Nat), state := .settling }
      let s := timed h x collector0
      Awake s ∧ NoRequests s ∧ NoNotices s ∧ windowAt s (3 : Fin 4) = some window14 ∧ (busAt s (3 : Fin 4)).holder = h ∧
        sessionAt s (7 : Fin 8) = some x ∧ x.outcome = none) ∧ window14.silence.isSome = true ∧
    (let s := timed .none session0 collector0
     sessionAt s (7 : Fin 8) = some session0 ∧ collectorAt s (7 : Fin 8) = collector0 ∧ collector0.timer.isSome = true ∧
      collector0.pending = none ∧ 1 ≤ collector0.breaks ∧ collector0.digits.length + 1 < collector0.limit ∧
      (collector0.latestStart + 65536 - collector0.firstStart) % 65536 ≠ 0) ∧
    (let c := { collector0 with breaks := 0 }
     collectorAt (timed .none session0 c) (7 : Fin 8) = c ∧ session0.dialTimer.isSome = true ∧ session0.bus = none ∧
      session0.cls = .demand ∧ session0.verdict = .notJudged ∧ session0.slot = some 0 ∧ session0.requesters ≠ [] ∧
      session0.outcome = none ∧ c.phase ≠ .closed ∧ c.digits = [] ∧ c.breaks = 0 ∧ c.pending = none ∧ 1 ≤ c.limit) ∧
    (headAt started (3 : Fin 4)).mode = .hourly ∧
    (checkerAt started (3 : Fin 4)).running ≤ float8 (headAt started (3 : Fin 4)).target ∧
    (∀ u ∈ started.tickets.tickets, u.subject ≠ .head (3 : Fin 4)) ∧
    (headAt (onTables started (fun t => { t with heads := [(3, { headZero with mode := .continuous })] }))
      (3 : Fin 4)).mode = .continuous := by decide +kernel
theorem witness_TargetValue :
    4294967295 < float8 (headAt started 3).target ∧ 0 < 1 := by decide +kernel
theorem witness_ResistanceTests :
    (∀ p ∈ [((63999 : Int), (1 : Int)), (64000, 0), (64000, -64), (64000, 63), (64000, 640), (6400000, 64)],
      let w := resWindow p.1 p.2
      (w.sumV.natAbs < w.taken * 1000) = (p.1 = 63999) ∧
      (w.taken * 1000 ≤ w.sumV.natAbs) = (p.1 ≠ 63999)) := by decide +kernel

/-- Windows whose DC is a tie, and whose charge is 0, with the settled voltage, against it, and clamped. -/
def capWindow (v i : Int) : Window :=
  { window0 with kind := .cap, taken := 16, sumI := i, tail := List.replicate 8 (v, 0) }
theorem witness_ResistanceTests_windows :
    (let w := { window0 with kind := .fv, taken := 2, sumV := -5, sumVV := 13, ringingMax := 8 }
     1 ≤ w.taken ∧ 0 ≤ (w.taken * w.sumVV - w.sumV * w.sumV : Int) ∧
       (w.taken * w.sumVV - w.sumV * w.sumV : Int).toNat / (w.taken * w.taken) < 2 ^ 64 ∧ (fvResult w).dc = -3) ∧
    (let s := onTables started (fun t => { t with directory := [(256, some directory0)] })
     directoryAt s window0.line = some directory0 ∧ 0 < (profileAt s directory0.profile).capTipRing ∧
       0 < (profileAt s directory0.profile).capLegGround ∧
       (∀ y ∈ [((999 : Int), (1 : Int), StepStatus.invalid, 0, false, false), (1000, 0, .value, 0, false, false),
           (1000, 6, .value, 2, false, false), (-1000, 6, .value, 0, true, false), (1000, -6, .value, 0, true, false),
           (-1000, -6, .value, 2, false, false), (1000, 40000002, .value, 10000000, false, true)],
         let x := capResult s (capWindow y.1 y.2.1)
         8 ≤ (capWindow y.1 y.2.1).taken ∧ x.status = y.2.2.1 ∧ x.capacitance = y.2.2.2.1 ∧ x.negative = y.2.2.2.2.1 ∧
           x.clamped = y.2.2.2.2.2)) := by decide +kernel

/-- A result with the given status, kind, leg and value. -/
def resultOf (status : StepStatus) (kind : StepKind) (leg : Leg) (value : Nat) : StepResult :=
  { blankResult status kind (some leg) false with
    dc := -(value : Int), ac := value, resistance := value, length := value
    digits := if kind = .dial then [{ value := some 3, timing := some (value, 62) }] else [] }
/-- For each verdict on a record a record that brings it, with the limit and one below it. -/
theorem witness_ResistanceTests_verdicts :
    let p := profileDefault
    let fails := fun (c : FaultClass) (rs : List StepResult) (x : Option Int) => judge p rs .clear c = .fail x
    let passes := fun (c : FaultClass) (rs : List StepResult) => judge p rs .clear c = .pass
    let unjudged := fun (c : FaultClass) (rs : List StepResult) => judge p rs .clear c = .notJudged
    (∀ y ∈ [(FaultClass.tipGround, StepKind.res, Leg.tipGround, p.ground),
        (.ringGround, .res, .ringGround, p.ground), (.short, .res, .tipRing, p.short),
        (.lowInsulation, .res, .tipRing, p.insulation), (.openLoop, .cap, .tipRing, p.minLength)],
      let r := resultOf .value y.2.1 y.2.2.1
      0 < y.2.2.2 ∧ p.short < p.insulation ∧
      fails y.1 [r y.2.2.2, r (y.2.2.2 - 1)] (some ((y.2.2.2 - 1 : Nat) : Int)) ∧ passes y.1 [r y.2.2.2] ∧
      unjudged y.1 [resultOf .noData y.2.1 y.2.2.1 0]) ∧
    (let r := resultOf .value .fv .tipRing
     let lost := resultOf .noData .fv .tipRing 0
     let foreign := resultOf .foreign .res .tipRing 0
     fails .foreignDc [r (p.foreignDc + 1), r p.foreignDc, lost] (some (-(p.foreignDc + 1 : Nat) : Int)) ∧
     fails .foreignDc [r p.foreignDc, foreign] none ∧ passes .foreignDc [r p.foreignDc] ∧
     unjudged .foreignDc [r p.foreignDc, lost] ∧ fails .foreignAc [r (p.foreignAc + 1), lost] (some (p.foreignAc + 1 : Nat)) ∧
     passes .foreignAc [r p.foreignAc, foreign] ∧ unjudged .foreignAc []) ∧
    (let r := resultOf .value .dial .tipRing
     p.ratioMin ≤ 62 ∧ 62 ≤ p.ratioMax ∧ fails .dialFault [r (p.speedMax + 1)] none ∧
     passes .dialFault [r p.speedMin, r p.speedMax] ∧ unjudged .dialFault []) ∧
    (∀ y ∈ [(SettlingVerdict.hazard, Verdict.fail none), (.clear, .pass), (.unqualified, .notJudged),
      (.notJudged, .notJudged)], judge p [] y.1 .crossHazard = y.2) ∧
    (let s := onTables started (fun t => { t with directory := [(256, some directory0)] })
     directoryAt s record0.line = some directory0 ∧ (classify s record0 .hazard).2.failed.map (·.1) =
       [.foreignDc, .crossHazard] ∧
      holdOf (classify s record0 .hazard).1 256 = true) := by decide +kernel

/-! #### The laws, on states with something in them -/

/-- Line 5 marked and blocked, every other line FREE; a report of it is in front. -/
def blocked5 : State :=
  onArbiter (modLine reported 5 (fun l => { l with blocked := true })) (fun a => { a with marks := [(5, .lockedOut)] })
theorem witness_StepKeepsHookCounts_blocks : BlocksMatch blocked5 ∧ stepsOn blocked5 = true := by
  refine ⟨fun len => ?_, by decide +kernel⟩
  by_cases h : len = 5
  · subst h; decide +kernel
  · have e : markOf blocked5 len = .free := by
      show tabGet _ [(5, _)] len = _
      simp [tabGet, Ne.symm h]
    have f : lineOf blocked5 len = lineZero := by
      show lineOf (modLine reported 5 _) len = _
      rw [lineOf_modLine, if_neg h]
      rfl
    rw [e, f]; rfl

/-- Group 63 in STORM with its two members and its ticket, one member about to be closed. -/
def stormed : State := { storm63 with pending := [.ticketClose mp 1#16 1#8 true] }
theorem witness_StepKeepsHazardLevels_tickets : TicketsAgree stormed ∧ stepsOn stormed = true := by
  have wet : ∀ t ∈ stormed.tickets.tickets, wetGroup stormed t ∈ [none, some 63] := by decide +kernel
  have calm : ∀ g, g ≠ 63 → groupAt stormed g = groupZero := fun g h => by
    show tabGet _ [(63, _)] g = _
    simp [tabGet, Ne.symm h]
  refine ⟨⟨?_, fun g => ?_, fun g => ?_⟩, by decide +kernel⟩
  · unfold TicketsDistinct; decide +kernel
  · by_cases h : g = 63
    · subst h
      refine ⟨by decide +kernel, fun id h => ?_⟩
      have : id = 240 := by
        have e : (groupAt stormed 63).ticket = some 240 := by decide +kernel
        rw [e] at h; exact (Option.some.inj h).symm
      subst this; decide +kernel
    · rw [calm g h]; exact ⟨rfl, fun _ h => by cases h⟩
  · by_cases h : g = 63
    · subst h; decide +kernel
    · rw [calm g h]
      refine (List.countP_eq_zero.mpr fun t ht m => ?_).symm
      have w := wet t ht
      simp only [isMember, decide_eq_true_eq, Bool.decide_and, Bool.and_eq_true] at m
      simp only [List.mem_cons, List.not_mem_nil, or_false] at w
      rcases w with w | w <;> rw [w] at m <;> simp_all

/-- Slot 31 held by a waiting entry, slot 29 by session 7, slot 30 FILLED; the waiting request is in front to be
cancelled. -/
def slotted : State :=
  onInterp (onArbiter (putSession started 7 (some { session0 with slot := some 29 }))
    (fun a => { a with queue := [{ entry0 with slot := some 31 }, { entry0 with cls := .routine 3, requesters := [] }] }))
    (fun i => { i with
      slots := [(29, .reserved), (30, .filled record0 [⟨mp, 0⟩] 1), (31, .reserved)], fillingOrder := [30] })
def slottedStep : State := { slotted with pending := [.cancel 0x20#8 0#16 7#16] }
theorem witness_StepKeepsQueueBounded_slots : SlotsAgree slottedStep ∧ stepsOn slottedStep = true := by
  have other : ∀ id, id ≠ 7 → sessionAt slottedStep id = none := fun id h => by
    show tabGet _ [(7, _)] id = _
    simp [tabGet, Ne.symm h]
  have seven : sessionAt slottedStep 7 = some { session0 with slot := some 29 } := by decide +kernel
  have free : ∀ n, n ∉ [29, 30, 31] → slotAt slottedStep n = .free := fun n h => by
    simp only [List.mem_cons, List.not_mem_nil, or_false, not_or] at h
    show tabGet _ [(29, _), (30, _), (31, _)] n = _
    simp [tabGet, Ne.symm h.1, Ne.symm h.2.1, Ne.symm h.2.2]
  have waiting : ∀ x ∈ slottedStep.arbiter.queue, x.slot ∈ [none, some 31] := by decide +kernel
  have serving : ∀ x ∈ slottedStep.engine.sessions, x.2.bind (·.slot) = some 29 := by decide +kernel
  refine ⟨⟨⟨by unfold tabRising; decide +kernel, fun id h => ?_⟩, fun n => ?_, fun n => ?_, fun n h => ?_, by decide +kernel,
    fun id x h => ?_⟩, by decide +kernel⟩
  · by_cases e : id = 7
    · omega
    · rw [other id e] at h; cases h
  · by_cases e : n ∈ [29, 30, 31]
    · revert n; decide +kernel
    · rw [free n e]
      simp only [List.mem_cons, List.not_mem_nil, or_false, not_or] at e
      have q : slottedStep.arbiter.queue.countP (fun x => x.slot = some n) = 0 :=
        List.countP_eq_zero.mpr fun x hx m => by
          have w := waiting x hx
          simp only [decide_eq_true_eq] at m
          rw [m] at w; simp at w; exact e.2.2 w
      have p : slottedStep.engine.sessions.countP (fun x => x.2.bind (·.slot) = some n) = 0 :=
        List.countP_eq_zero.mpr fun x hx m => by
          have w := serving x hx
          simp only [decide_eq_true_eq] at m
          rw [m] at w; exact e.1 (Option.some.inj w)
      show 0 + (_ + _) = _
      rw [q, p]; rfl
  · by_cases e : n ∈ [29, 30, 31]
    · revert n; decide +kernel
    · rw [free n e]
      simp only [List.mem_cons, List.not_mem_nil, or_false, not_or] at e
      show [30].count n = _
      simp [isFilled, Ne.symm e.2.1]
  · exact free n (by simp only [List.mem_cons, List.not_mem_nil, or_false, not_or]; omega)
  · by_cases e : id = 7
    · subst e; rw [seven] at h; cases h; rfl
    · rw [other id e] at h; cases h

end Sys2Proof.Tests
end

section
/-! PROOFS. The rows of the table by what they are to the part (a delivered cell, a command, another step of the part),
what every row and every step keeps of the ports, and the bypass under RESET. -/

namespace Sys2Proof.Machine
open Sys2Proof

variable {s t : State} {i : Instr}

/-! ### What one row keeps -/

theorem Follows.refl (s : State) : Follows s s := (Keeps.refl s).follows

/-- A step of the part either changes nothing, or follows from its own effect, settling keeping what `Follows` says. -/
theorem follows_of_live {f : State → State} (h : live f s = .next t) : t = s ∨ Follows (f s) t := by
  unfold live at h
  split at h <;> obtain rfl := Host.Outcome.next.inj h
  · exact .inl rfl
  · exact .inr (keeps_settle (Keeps.refl _) _).follows

theorem follows_of_onLink {p : Side} {os : List Octet} {f : State → State} (h : onLink p os f s = .next t) :
    Follows s t ∨ Follows (f s) t := by
  unfold onLink at h
  split at h
  · obtain rfl := Host.Outcome.next.inj h
    exact .inl (keeps_transmit (Keeps.refl s) _ _).follows
  · exact (follows_of_live h).imp_left fun (e : t = s) => e ▸ .refl s

/-- A step of the part keeps what its own effect keeps. -/
theorem follows_live {f : State → State} (h : live f s = .next t) (hf : Follows s (f s)) : Follows s t :=
  (follows_of_live h).elim (fun (e : t = s) => e ▸ .refl s) hf.trans

theorem follows_onLink {p : Side} {os : List Octet} {f : State → State} (h : onLink p os f s = .next t)
    (hf : Follows s (f s)) : Follows s t :=
  (follows_of_onLink h).elim id hf.trans

/-- Whether a row is one of the two of the RESET pin. -/
def isResetRow : Instr → Bool
  | .resetAssert => true
  | .powerOnReset _ => true
  | _ => false

/-- The cell a row delivers, with the port it arrives on. -/
def rowCell : Instr → Option (Side × Cell)
  | .badCell p c => some (p, c)
  | .idleCell p c => some (p, c)
  | .transitCell p c => some (p, c)
  | .discardCell p c => some (p, c)
  | .lineReport c => some (.south, c)
  | .lineOrder c => some (.north, c)
  | .scanSummary c => some (.south, c)
  | .auditReport c => some (.south, c)
  | .orderAck c => some (.south, c)
  | .sample c => some (.south, c)
  | .commandIntake c => some (.north, c)
  | _ => none

theorem exec_of_rowCell {p : Side} {c : Cell} (s : State) (h : rowCell i = some (p, c)) :
    exec i s = onLink p (cellOctets c) (fun s => deliverCell s p c) s := by
  cases i <;> cases h <;> rfl

/-- The command a row takes, with its source and tag. -/
def rowCommand : Instr → Option (Octet × Half × Command)
  | .unknownCommand src tag code => some (src, tag, .unknown code)
  | .enableService src tag => some (src, tag, .enableService)
  | .suspendService src tag => some (src, tag, .suspendService)
  | .restart src tag => some (src, tag, .restart)
  | .busRemove src tag bus => some (src, tag, .busRemove bus)
  | .busRestore src tag bus => some (src, tag, .busRestore bus)
  | .forceRelease src tag len => some (src, tag, .forceRelease len)
  | .writeLine src tag len t p g f => some (src, tag, .writeLine len t p g f)
  | .clearLine src tag len => some (src, tag, .clearLine len)
  | .writeProfile src tag a => some (src, tag, .writeProfile a)
  | .writeProgramStep src tag p i st => some (src, tag, .writeProgramStep p i st)
  | .writeProgramFinal src tag p i n r st => some (src, tag, .writeProgramFinal p i n r st)
  | .writeProgramClear src tag p => some (src, tag, .writeProgramClear p)
  | .writeHead src tag h i t m => some (src, tag, .writeHead h i t m)
  | .writeHazard src tag d c => some (src, tag, .writeHazard d c)
  | .writePrivilege src tag u g => some (src, tag, .writePrivilege u g)
  | .writeGroupThreshold src tag g t => some (src, tag, .writeGroupThreshold g t)
  | .writeSchedule src tag a => some (src, tag, .writeSchedule a)
  | .sweepStart src tag n => some (src, tag, .sweepStart n)
  | .sweepStop src tag n => some (src, tag, .sweepStop n)
  | .setTime src tag sec mi h wd d mo y => some (src, tag, .setTime sec mi h wd d mo y)
  | .adjustTime src tag => some (src, tag, .adjustTime)
  | .testRequest src tag len p r w => some (src, tag, .testRequest len p r w)
  | .cancel src tag r => some (src, tag, .cancel r)
  | .ticketRead src tag id => some (src, tag, .ticketRead id)
  | .ticketList src tag place => some (src, tag, .ticketList place)
  | .ticketDispatch src tag id d => some (src, tag, .ticketDispatch id d)
  | .ticketClose src tag id force => some (src, tag, .ticketClose id force)
  | .cableAck src tag g => some (src, tag, .cableAck g)
  | .readLine src tag len => some (src, tag, .readLine len)
  | .readTime src tag => some (src, tag, .readTime)
  | .readStatus src tag => some (src, tag, .readStatus)
  | .readBus src tag => some (src, tag, .readBus)
  | .readHeadCounts src tag => some (src, tag, .readHeadCounts)
  | .readQueue src tag p => some (src, tag, .readQueue p)
  | .readSweep src tag n => some (src, tag, .readSweep n)
  | .setNotices src tag k => some (src, tag, .setNotices k)
  | _ => none

theorem exec_of_rowCommand {src : Octet} {tag : Half} {c : Command} (s : State)
    (h : rowCommand i = some (src, tag, c)) : exec i s = live (fun s => takeCommand s src tag c) s := by
  cases i <;> cases h <;> rfl

/-- Whether a row is one of the octets and cells that a receiver out of SYNC is given. -/
def isSearchRow : Instr → Bool
  | .huntSearch _ _ => true
  | .presyncCell _ _ => true
  | _ => false

/-- Every row but those of the RESET pin and of the link is a step of the part. -/
theorem exec_eq_live (hr : isResetRow i = false) (hs : isSearchRow i = false) (hc : rowCell i = none) :
    ∃ f, ∀ s, exec i s = live f s := by
  cases i with
  | resetAssert => cases hr
  | powerOnReset straps => cases hr
  | huntSearch p o => cases hs
  | presyncCell p c => cases hs
  | badCell p c => cases hc
  | idleCell p c => cases hc
  | transitCell p c => cases hc
  | discardCell p c => cases hc
  | lineReport c => cases hc
  | lineOrder c => cases hc
  | scanSummary c => cases hc
  | auditReport c => cases hc
  | orderAck c => cases hc
  | sample c => cases hc
  | commandIntake c => cases hc
  | _ => exact ⟨_, fun _ => rfl⟩

theorem portWithin_huntOctet (o : Octet) {x : Port} (h : PortWithin x) : PortWithin (huntOctet x o) := by
  obtain ⟨bad, dropped, held⟩ := h
  unfold huntOctet
  dsimp only
  split
  · rename_i short
    exact ⟨bad, dropped, Nat.le_of_lt_succ short⟩
  · repeat' split
    all_goals refine ⟨bad, dropped, ?_⟩
    · exact Nat.zero_le _
    all_goals simp only [List.length_drop, List.length_append, List.length_singleton]; omega

/-- A failed cell of sixteen octets leaves fifteen to the search (R3). -/
theorem portWithin_presyncCell (c : Option Cell) (hc : ∀ x, c = some x → (cellOctets x).length = 16) {x : Port}
    (h : PortWithin x) : PortWithin (presyncCell x c) := by
  obtain ⟨bad, dropped, held⟩ := h
  cases c with
  | none => exact ⟨bad, dropped, Nat.zero_le _⟩
  | some c =>
    simp only [presyncCell]
    repeat' split
    · exact ⟨bad, dropped, held⟩
    · exact ⟨bad, dropped, held⟩
    · exact ⟨bad, dropped, by simp only [backToHunt, List.length_drop, hc c rfl]; omega⟩

/-- Every row but those of the RESET pin keeps what `Follows` says, a cell in PRESYNC being one of sixteen octets. -/
theorem follows_exec (h : exec i s = .next t) (hr : isResetRow i = false)
    (hw : ∀ p c, i = .presyncCell p (some c) → (cellOctets c).length = 16) : Follows s t := by
  have refl := Keeps.refl (tk := true) (sl := true) s
  cases hc : rowCell i with
  | some x => exact follows_onLink (exec_of_rowCell s hc ▸ h) (follows_deliverCell refl _ _)
  | none =>
  cases hd : rowCommand i with
  | some x => exact follows_live (exec_of_rowCommand s hd ▸ h) (follows_takeCommand refl _ _ _)
  | none =>
  cases i with
  | resetAssert => cases hr
  | powerOnReset straps => cases hr
  | huntSearch p o =>
    refine follows_onLink h ?_
    split
    · exact (keeps_modPort refl _ _ fun _ => portWithin_huntOctet o).follows
    · exact refl.follows
  | presyncCell p c =>
    refine follows_onLink h ?_
    split
    · exact (keeps_modPort refl _ _ fun _ => portWithin_presyncCell c (fun x hx => hw p x (hx ▸ rfl))).follows
    · exact refl.follows
  | noSignalCellTime p =>
    simp only [exec, execNoSignalCellTime] at h
    exact follows_live h (keeps_noSignal refl p).follows
  | freeRunningSlot p =>
    simp only [exec, execFreeRunningSlot] at h
    refine follows_live h ?_
    split
    · exact refl.follows
    · exact (keeps_giveSlot refl p).follows
  | northInsertion => exact follows_live h (keeps_insertNorth refl).follows
  | southInsertion => exact follows_live h (keeps_insertSouth refl).follows
  | offerBacklogJoin q =>
    simp only [exec, execOfferBacklogJoin] at h
    refine follows_live h ?_
    cases q with
    | urgent => exact (keeps_joinUrgentBacklog refl).follows
    | south => exact (keeps_joinSouthBacklog refl).follows
  | paceTimerExpiry =>
    simp only [exec, execPaceTimerExpiry] at h
    refine follows_live h ?_
    split
    · exact follows_paceExpired refl
    · exact refl.follows
  | heartbeatTimerExpiry n =>
    refine follows_live h ?_
    split
    · exact (keeps_heartbeatExpired refl n).follows
    · exact refl.follows
  | auditTimerExpiry n =>
    refine follows_live h ?_
    split
    · exact (keeps_auditExpired refl n).follows
    · exact refl.follows
  | waitTimerExpiry len program =>
    simp only [exec, execWaitTimerExpiry] at h
    refine follows_live h ?_
    split
    · rename_i x hx
      exact (keeps_waitExpired refl x (List.mem_of_find?_eq_some hx)).follows
    · exact refl.follows
  | orderWaitListEntry => exact follows_live h (keeps_takeWaiting refl).follows
  | orderTimeout tag =>
    simp only [exec, execOrderTimeout] at h
    exact follows_live h (keeps_orderExpired refl _).follows
  | releaseRetryTimerExpiry b =>
    simp only [exec, execReleaseRetryTimerExpiry] at h
    refine follows_live h ?_
    repeat' split
    · exact (keeps_retryExpired refl _ _).follows
    · exact refl.follows
    · exact refl.follows
  | quarantineTimerExpiry b =>
    refine follows_live h ?_
    split
    · exact (keeps_quarantineExpired refl _).follows
    · exact refl.follows
  | dialSessionTimerExpiry id =>
    simp only [exec, execDialSessionTimerExpiry] at h
    refine follows_live h ?_
    repeat' split
    · exact (keeps_finishDial refl _ _ _).follows
    · exact refl.follows
    · exact refl.follows
  | silenceTimerExpiry b =>
    simp only [exec, execSilenceTimerExpiry] at h
    exact follows_live h (keeps_silenceExpired refl _).follows
  | digitTimerExpiry id =>
    simp only [exec, execDigitTimerExpiry] at h
    refine follows_live h ?_
    repeat' split
    · exact (keeps_collectorChanged refl _ _ _).follows
    · exact refl.follows
    · exact refl.follows
  | timebaseTimerExpiry n =>
    simp only [exec, execTimebaseTimerExpiry] at h
    exact follows_live h (keeps_timebaseExpired refl _).follows
  | loadTimerExpiry n =>
    simp only [exec, execLoadTimerExpiry] at h
    exact follows_live h (keeps_putBuffer refl _ _).follows
  | calendarSecond => exact follows_live h (keeps_calendarSecond refl).follows
  | durationTimerExpiry n =>
    refine follows_live h ?_
    split
    · exact (keeps_durationExpired refl _).follows
    · exact refl.follows
  | resultDelivery => exact follows_live h (keeps_deliverResult refl).follows
  | noticeDelivery u =>
    simp only [exec, execNoticeDelivery] at h
    exact follows_live h (keeps_deliverNotice refl _).follows
  | lineAgeSecond =>
    simp only [exec, execLineAgeSecond] at h
    refine follows_live h ?_
    have aged := keeps_onTracker refl (fun t => { t with ageClock := t.ageClock + 1 }) id id
    exact ⟨aged.pending, aged.clock, aged.straps, aged.asserted, aged.calendar, aged.levels, aged.ports, aged.hooks,
      aged.queue, aged.normal, aged.blocks, aged.tickets rfl, aged.slots rfl []⟩
  | _ => simp [rowCell, rowCommand] at hc hd

/-! ### The rows the part takes of itself, and the millisecond -/

/-- The rows the part takes of itself when they are due carry no cell and are not those of the RESET pin. -/
theorem dueRow_ordinary (h : dueRow s = some i) : wellFormed i = true ∧ isResetRow i = false := by
  have mem := List.mem_of_head? h
  simp only [dueTransfers, dueTimers, dueRest, waitRow, List.mem_append, List.mem_ite_nil_left,
    List.mem_ite_nil_right, List.mem_filterMap, List.mem_singleton, Option.ite_none_right_eq_some,
    Option.dite_none_right_eq_some, Option.some.injEq, or_assoc] at mem
  grind (splits := 40) [wellFormed, isResetRow]

theorem pending_tick (s : State) : (tick s).pending = s.pending := by simp only [tick]
theorem ports_tick (s : State) : (tick s).ports = s.ports := by simp only [tick]

theorem deferred_tick (s : State) (n : Nat) :
    (scheduleAt (tick s) n).run.deferredLines = (scheduleAt s n).run.deferredLines := by
  simp only [scheduleAt, tick, tabGet_tabAll]
  split <;> rfl

theorem normalBounded_tick (h : NormalBounded s) : NormalBounded (tick s) := by
  simpa only [NormalBounded, ports_tick, deferred_tick] using h

/-! ### The rows of the RESET pin -/

theorem exec_resetAssert_of_reset (h : s.ports.resetAsserted = true) : exec .resetAssert s = .next s := by
  simp only [exec, execResetAssert, h, if_true]

theorem exec_resetAssert_of_awake (h : s.ports.resetAsserted = false) :
    exec .resetAssert s = .next (onPorts s fun p => { p with
      resetAsserted := true, northTx := cutCell p.northTx, southTx := cutCell p.southTx }) := by
  simp only [exec, execResetAssert, h, Bool.false_eq_true, if_false]

/-- What every row is held to about the ports: the waiting commands stay, the laws of the ports are kept where the row's
cell has its sixteen octets, that of the NORMAL queue always, and the straps but for the release of RESET. -/
structure PortFacts (i : Instr) (s t : State) : Prop where
  pending : t.pending = s.pending
  ports : wellFormed i = true → PortsBounded s.ports → PortsBounded t.ports
  normal : NormalBounded s → NormalBounded t
  straps : (∀ x, i ≠ .powerOnReset x) → t.ports.straps = s.ports.straps

theorem Follows.portFacts (i : Instr) (h : Follows s t) : PortFacts i s t :=
  ⟨h.pending, fun _ => h.ports, h.normal, fun _ => h.straps⟩

theorem portFacts_resetAssert (h : exec .resetAssert s = .next t) : PortFacts .resetAssert s t := by
  cases ha : s.ports.resetAsserted with
  | true =>
    obtain rfl := Host.Outcome.next.inj ((exec_resetAssert_of_reset ha).symm.trans h)
    exact (Follows.refl s).portFacts _
  | false =>
    obtain rfl := Host.Outcome.next.inj ((exec_resetAssert_of_awake ha).symm.trans h)
    exact ⟨rfl, fun _ => id, id, fun _ => rfl⟩

/-- The release of RESET leaves the ports and the NORMAL queue as power-on has them, the sixteen orders of the start-up
release being the only cells queued (R20, R114). -/
theorem portFacts_powerOnReset {x : BitVec 2} (h : exec (.powerOnReset x) s = .next t) :
    PortFacts (.powerOnReset x) s t := by
  obtain rfl := Host.Outcome.next.inj h
  refine ⟨rfl, fun _ _ => ⟨Nat.zero_le _, ?_, Nat.zero_le _, ?_, ?_⟩,
    fun _ => ⟨Nat.zero_le _, fun _ => Nat.zero_le _⟩, fun e => absurd rfl (e x)⟩
  · show ((List.range 16).map _).length ≤ 32
    simp
  all_goals exact ⟨Nat.zero_le _, Nat.zero_le _, Nat.zero_le _⟩

/-- A change of one receiver touches neither the straps nor the NORMAL queue. -/
theorem normal_modPort (p : Side) (f : Port → Port) : (modPort s p f).ports.straps = s.ports.straps ∧
    (NormalBounded s → NormalBounded (modPort s p f)) := by
  cases p <;> exact ⟨rfl, id⟩

theorem portFacts_presyncCell {p : Side} {c : Option Cell} (h : exec (.presyncCell p c) s = .next t) :
    PortFacts (.presyncCell p c) s t := by
  have full (hw : wellFormed (.presyncCell p c) = true) : Follows s t :=
    follows_exec h rfl fun q x e => Laws.RowShape.presyncCell p c hw x (by cases e; exact List.mem_singleton_self x)
  refine ⟨?_, fun hw => (full hw).ports, ?_, fun _ => ?_⟩ <;>
    rcases follows_of_onLink h with k | k
  · exact k.pending
  · exact k.pending.trans (by split <;> simp)
  · exact k.normal
  · refine fun b => k.normal ?_
    split
    · exact (normal_modPort _ _).2 b
    · exact b
  · exact k.straps
  · refine k.straps.trans ?_
    split
    · exact (normal_modPort _ _).1
    · rfl

theorem portFacts_exec (h : exec i s = .next t) : PortFacts i s t := by
  cases i with
  | resetAssert => exact portFacts_resetAssert h
  | powerOnReset x => exact portFacts_powerOnReset h
  | presyncCell p c => exact portFacts_presyncCell h
  | _ => exact (follows_exec h rfl nofun).portFacts _

/-! ### One step -/

/-- A step is a row, that of the command in front or one due, or a millisecond, or nothing under RESET. -/
theorem step_cases (h : step s = .next t) :
    (∃ i rest, s.pending = i :: rest ∧ exec i { s with pending := rest } = .next t) ∨
    (s.pending = [] ∧ ∃ i, wellFormed i = true ∧ isResetRow i = false ∧ exec i s = .next t) ∨
    (s.pending = [] ∧ (t = s ∨ t = tick s)) := by
  unfold step at h
  split at h
  · rename_i i rest e
    exact .inl ⟨i, rest, e, h⟩
  · rename_i e
    unfold idle at h
    split at h
    · exact .inr (.inr ⟨e, .inl (Host.Outcome.next.inj h).symm⟩)
    · split at h
      · rename_i i due
        exact .inr (.inl ⟨e, i, (dueRow_ordinary due).1, (dueRow_ordinary due).2, h⟩)
      · exact .inr (.inr ⟨e, .inr (Host.Outcome.next.inj h).symm⟩)

/-- Settles O5: every operation inside a step keeps the laws of the ports (`Follows`), and so does each row. -/
theorem stepKeepsPortsBounded : Obligations.StepKeepsPortsBounded := by
  intro s t h
  rcases step_cases h with ⟨i, rest, e, h⟩ | ⟨e, i, hw, -, h⟩ | ⟨e, rfl | rfl⟩
  · have k := portFacts_exec h
    rw [e]
    refine ⟨fun hw => ⟨fun j hj => hw j ?_, k.ports (hw i List.mem_cons_self)⟩, k.normal⟩
    rw [k.pending] at hj
    exact List.mem_cons_of_mem _ hj
  · have k := portFacts_exec h
    exact ⟨fun hp => ⟨k.pending ▸ hp, k.ports hw⟩, k.normal⟩
  · exact ⟨fun hp => ⟨hp, id⟩, id⟩
  · refine ⟨fun hp => ?_, normalBounded_tick⟩
    rw [pending_tick, ports_tick]
    exact ⟨hp, id⟩

/-- Settles O9: the address is read from the straps (R6), which every row but the release of RESET keeps. -/
theorem addressKeptButAtReset : Obligations.AddressKeptButAtReset := by
  intro s t h notReset
  refine congrArg ownAddress ?_
  rcases step_cases h with ⟨i, rest, e, h⟩ | ⟨e, i, -, hr, h⟩ | ⟨e, rfl | rfl⟩
  · exact (portFacts_exec h).straps fun x hx => notReset x rest (hx ▸ e)
  · exact (portFacts_exec h).straps fun x hx => by rw [hx] at hr; cases hr
  · rfl
  · rw [ports_tick]

/-! ### The bypass (R20) -/

theorem onLink_of_reset (p : Side) (os : List Octet) (f : State → State) (h : s.ports.resetAsserted = true) :
    onLink p os f s = .next (transmit s (opposite p) (.repeated os)) := by
  simp only [onLink, h, if_true]

/-- A pair that comes to carry something is a change of what the two pairs carry. -/
theorem transmit_pairs (s : State) (p : Side) (x : Transmit) : ∃ north south : Transmit,
    transmit s p x = { s with ports := { s.ports with northTx := north, southTx := south } } := by
  cases p
  · exact ⟨x, s.ports.southTx, rfl⟩
  · exact ⟨s.ports.northTx, x, rfl⟩

/-- Settles O10: under RESET a row of the link repeats octets onto a pair, and every other row is nothing. -/
theorem bypassChangesOnlyTransmitPairs : Obligations.BypassChangesOnlyTransmitPairs := by
  intro i s ha notReset
  have link (p : Side) (os : List Octet) (f : State → State) (h : exec i s = onLink p os f s) :
      ∃ north south, exec i s = .next { s with ports := { s.ports with northTx := north, southTx := south } } := by
    obtain ⟨north, south, e⟩ := transmit_pairs s (opposite p) (.repeated os)
    exact ⟨north, south, by rw [h, onLink_of_reset p os f ha, e]⟩
  have still (h : exec i s = .next s) :
      ∃ north south, exec i s = .next { s with ports := { s.ports with northTx := north, southTx := south } } :=
    ⟨s.ports.northTx, s.ports.southTx, h⟩
  cases hc : rowCell i with
  | some x => exact link _ _ _ (exec_of_rowCell s hc)
  | none =>
  cases hs : isSearchRow i with
  | true =>
    cases i with
    | huntSearch p o => exact link p _ _ rfl
    | presyncCell p c => exact link p _ _ rfl
    | _ => cases hs
  | false =>
  cases hr : isResetRow i with
  | true =>
    cases i with
    | resetAssert => exact still (exec_resetAssert_of_reset ha)
    | powerOnReset x => exact absurd rfl (notReset x)
    | _ => cases hr
  | false =>
    obtain ⟨f, hf⟩ := exec_eq_live hr hs hc
    exact still ((hf s).trans (live_of_reset ha))

/-- Settles O11: each row of the link repeats its octets onto the pair of the other side. -/
theorem bypassRepeatsOctets : Obligations.BypassRepeatsOctets := by
  intro s c o ha
  have cell (p : Side) (i : Instr) (h : rowCell i = some (p, c) ∨ i = .presyncCell p (some c)) :
      exec i s = .next (transmit s (opposite p) (.repeated (cellOctets c))) := by
    rcases h with h | rfl
    · rw [exec_of_rowCell s h, onLink_of_reset _ _ _ ha]
    · exact onLink_of_reset _ _ _ ha
  refine ⟨fun i hi => cell .south i ?_, fun i hi => cell .north i ?_, onLink_of_reset _ _ _ ha,
    onLink_of_reset _ _ _ ha⟩
  all_goals
    clear cell
    revert i
    simp [rowCell]

/-- Settles O12: the assertion cuts the cell on each pair. -/
theorem resetAssertBeginsBypass : Obligations.ResetAssertBeginsBypass := by
  intro s n m ha hn hm
  rw [exec_resetAssert_of_awake ha]
  simp only [onPorts, hn, hm, cutCell]

end Sys2Proof.Machine
end

section
/-! PROOFS. The state after reset, the receivers, the cells that no block reads, the command intake and the insertion
opportunities of the link ports. -/

namespace Sys2Proof.Machine
open Sys2Proof

variable {s t : State} {i : Instr}

/-! ### Reset -/

/-- Settles O3: after reset every table is empty and every queue but the South one too. -/
theorem resetMeetsLaws : Obligations.ResetMeetsLaws := by
  have port : PortWithin portZero := ⟨Nat.zero_le _, Nat.zero_le _, Nat.zero_le _⟩
  refine ⟨by decide, ⟨by decide, ?_, by decide, port, port⟩, ⟨by decide, fun _ => Nat.zero_le _⟩,
    ⟨List.Pairwise.nil, fun _ => ⟨rfl, rfl⟩⟩, by decide, by decide, fun _ => rfl, ?_, ?_, rfl, rfl⟩
  · simp [State.reset, State.powerOn, portsPowerOn]
  · have calm (g : Nat) : groupAt State.reset g = groupZero := rfl
    refine ⟨⟨List.Pairwise.nil, fun t h => absurd h List.not_mem_nil⟩, fun g => ?_, fun g => rfl⟩
    rw [calm]
    exact ⟨rfl, nofun⟩
  · have noSession (id : Nat) : sessionAt State.reset id = none := rfl
    have freeSlot (n : Nat) : slotAt State.reset n = .free := rfl
    refine ⟨⟨List.Pairwise.nil, fun id h => ?_⟩, fun n => ?_, fun n => ?_, fun n _ => freeSlot n,
      ⟨List.Pairwise.nil, fun x h => absurd h List.not_mem_nil⟩, fun id x h => ?_⟩
    · rw [noSession] at h; cases h
    · rw [freeSlot]; rfl
    · rw [freeSlot]; rfl
    · rw [noSession] at h; cases h

theorem ownAddress_eq (straps : BitVec 2) : ownAddress straps = 0x40#8 + straps.setWidth 8 := by
  revert straps
  decide

/-- The RELEASE ALL cell of a shelf's start-up release: its tag and the order's code (R90, R114). -/
theorem startUpCell_eq (o : Octet) (n : Nat) : relayOrderCell o n (startUpOrder n) =
    makeCell 0x21#8 o (BitVec.ofNat 8 (0x10 + n)) [BitVec.ofNat 8 n, 5#8] := by
  simp [relayOrderCell, startUpOrder, makeCell, padPayload, octets2, octet, shelfAddress, kindRelayOrder, orderCode]

/-- Each shelf's latest RELEASE ALL time at power-on (R115). -/
theorem tabGet_releaseAllAt_powerOn (n : Nat) :
    tabGet none enginePowerOn.releaseAllAt n = if n ≤ 15 then some 0 else none := by
  split
  · interval_cases n <;> rfl
  · refine tabGet_of_not_mem _ _ _ fun x hx => ?_
    obtain ⟨k, hk, rfl⟩ := List.mem_map.1 hx
    have := List.mem_range.1 hk
    dsimp only
    omega

/-- Settles O13: every table is empty at power-on but the profiles and the times of the start-up release. -/
theorem powerOnResetValues : Obligations.PowerOnResetValues := by
  intro straps s
  refine ⟨_, rfl, rfl, rfl, rfl, rfl, rfl, ownAddress_eq straps, rfl, ⟨?_, ?_, rfl, rfl⟩, ?_, rfl, rfl, rfl,
    rfl, rfl, rfl, ?_, fun n => ⟨rfl, rfl, rfl, rfl, rfl⟩, fun n => ⟨rfl, rfl⟩, fun n => ⟨rfl, rfl, rfl, rfl⟩, rfl, rfl, rfl, rfl, ?_,
    rfl, rfl, rfl, rfl, rfl, fun b => ⟨rfl, rfl, rfl⟩, rfl, rfl, rfl, rfl, tabGet_releaseAllAt_powerOn,
    fun h => ⟨rfl, rfl⟩, rfl, fun g => rfl, rfl, fun n => ⟨rfl, rfl, rfl⟩, rfl, rfl, rfl⟩
  · cases s.ports.northTx <;> rfl
  · cases s.ports.southTx <;> rfl
  · rintro (_ | _) <;> rfl
  · exact List.map_congr_left fun n _ => startUpCell_eq _ n
  · intro n hn
    exact if_neg (Ne.symm hn)

/-! ### One receiver changed -/

/-- Only what becomes of the port as it is matters to a change of it. -/
theorem modPort_congr {p : Side} {f g : Port → Port} (h : f (portAt s p) = g (portAt s p)) :
    modPort s p f = modPort s p g := by
  cases p
  · show { s with ports := { s.ports with north := f (portAt s .north) } } = _
    rw [h]; rfl
  · show { s with ports := { s.ports with south := f (portAt s .south) } } = _
    rw [h]; rfl

theorem modPort_self {p : Side} {f : Port → Port} (h : f (portAt s p) = portAt s p) : modPort s p f = s := by
  rw [modPort_congr (g := id) h]
  cases p <;> rfl

theorem modPort_modPort (p : Side) (f g : Port → Port) :
    modPort (modPort s p f) p g = modPort s p (fun x => g (f x)) := by
  cases p <;> rfl

/-- A row of the link that changes one receiver and hands no work on. -/
theorem onLink_modPort {p : Side} {os : List Octet} {d : Delineation} {f : Port → Port} (ha : Awake s)
    (hd : (portAt s p).delineation = d) :
    onLink p os (fun s => if (portAt s p).delineation = d then modPort s p f else s) s = .next (modPort s p f) := by
  rw [onLink_of_awake _ _ _ ha.1, live_of_settled ha.1] <;> simp [hd, ha.2]

/-! ### HUNT and PRESYNC (R2, R3) -/

theorem exec_huntSearch {p : Side} (o : Octet) (ha : Awake s) (hd : (portAt s p).delineation = .hunt) :
    exec (.huntSearch p o) s = .next (modPort s p (fun x => huntOctet x o)) := onLink_modPort ha hd

theorem exec_presyncCell {p : Side} (c : Option Cell) (ha : Awake s) (hd : (portAt s p).delineation = .presync) :
    exec (.presyncCell p c) s = .next (modPort s p (fun x => presyncCell x c)) := onLink_modPort ha hd

theorem exec_noSignal {p : Side} (ha : Awake s) (h : (noSignal s p).agenda = []) :
    exec (.noSignalCellTime p) s = .next (noSignal s p) := by
  simp only [exec, execNoSignalCellTime]
  exact live_of_settled ha.1 h

theorem cellOctets_length {c : Cell} (h : c.payload.length = 12) : (cellOctets c).length = 16 := by
  simp [cellOctets, h]

/-- Sixteen octets are read back as the cell they are of (section 11.1). -/
theorem cellOfOctets_cellOctets {c : Cell} (h : c.payload.length = 12) : cellOfOctets (cellOctets c) = some c := by
  simp [cellOctets, cellOfOctets, h, List.getD]

theorem goodCheck_iff {c : Cell} (h : c.payload.length = 12) :
    goodCheck c = true ↔ crc ((cellOctets c).take 15) = c.check := by
  simp [goodCheck, cellOctets, h]

theorem huntOctet_short {x : Port} (o : Octet) (h : x.huntOctets.length < 15) :
    huntOctet x o = { x with huntOctets := x.huntOctets ++ [o] } := by
  simp only [huntOctet, List.length_append, List.length_singleton, Nat.succ_lt_succ h, if_true]

/-- The sixteenth octet makes a cell that is tested (R2). -/
theorem huntOctet_cell {x : Port} {o : Octet} {c : Cell} (h : x.huntOctets ++ [o] = cellOctets c)
    (hc : c.payload.length = 12) :
    huntOctet x o = if crc ((cellOctets c).take 15) = c.check then
        { x with delineation := .presync, confirmed := 0, huntOctets := [] }
      else { x with huntOctets := (cellOctets c).drop 1 } := by
  simp only [huntOctet, h, cellOctets_length hc, Nat.lt_irrefl, if_false, cellOfOctets_cellOctets hc, goodCheck_iff hc]

/-- Settles O14: the search takes an octet, the sixteenth making a cell to test; without signal nothing changes. -/
theorem huntTakesOctet : Obligations.HuntTakesOctet := by
  intro s p o ha hd
  refine ⟨fun hs => ?_, fun c hc he => ?_, (portAt s p).huntOctets, ?_⟩
  · rw [exec_huntSearch o ha hd]
    exact congrArg _ (modPort_congr (huntOctet_short o hs))
  · rw [exec_huntSearch o ha hd]
    exact congrArg _ (modPort_congr (huntOctet_cell he hc))
  · have still : noSignal s p = s := by simp only [noSignal, hd]
    rw [exec_noSignal ha (by rw [still]; exact ha.2), still, modPort_self rfl]

/-- Settles O15: the three branches of PRESYNC and the fourth confirmed cell. -/
theorem presyncConfirmsCells : Obligations.PresyncConfirmsCells := by
  intro s p c ha hd _
  simp only [exec_presyncCell _ ha hd]
  refine ⟨fun hg hn => ?_, fun hg hn => ?_, fun hg => ?_, rfl⟩ <;> refine congrArg _ (modPort_congr ?_)
  · have : (portAt s p).confirmed + 1 ≠ 4 := by omega
    simp only [presyncCell, hg, if_true, this, if_false]
  · simp only [presyncCell, hg, if_true, hn]
  · simp only [presyncCell, hg, Bool.false_eq_true, if_false, backToHunt]

/-! ### The bad run (R4, R8) -/

/-- The run of bad cells with one more, at 5 out of SYNC (R4). -/
def longerRun (x : Port) : Port :=
  if x.badRun < 4 then { x with badRun := x.badRun + 1 }
  else { x with badRun := x.badRun + 1, delineation := .hunt, delineationLost := true, huntOctets := [] }

theorem lengthenRun_eq (s : State) (p : Side) : lengthenRun s p = modPort s p longerRun := by
  refine modPort_congr ?_
  by_cases h : (portAt s p).badRun < 4
  · rw [longerRun, if_pos h, if_neg (by omega)]
  · rw [longerRun, if_neg h, if_pos (by omega)]

/-- Settles O16: without signal in SYNC the slot is given and the run lengthened. -/
theorem noSignalLengthensRun : Obligations.NoSignalLengthensRun := by
  intro s p ha hd
  have e : noSignal s p = modPort (giveSlot s (opposite p)) p longerRun := by
    simp only [noSignal, hd, lengthenRun_eq, leaveSlot]
  rw [exec_noSignal ha (by rw [e]; simp [ha.2]), e]
  rfl

/-! ### Delivery (R4, R5) -/

/-- A cell row whose delivery hands no work on. -/
theorem exec_of_delivered {p : Side} {c : Cell} (h : rowCell i = some (p, c)) (ha : Awake s)
    (hd : deliverCell s p c = t) (ht : t.agenda = []) : exec i s = .next t := by
  subst hd
  rw [exec_of_rowCell s h, onLink_of_awake _ _ _ ha.1, live_of_settled (f := fun s => deliverCell s p c) ha.1 ht]

theorem deliverCell_out {p : Side} (c : Cell) (h : ¬ InSync s p) : deliverCell s p c = s := if_neg h

theorem deliverCell_bad {p : Side} {c : Cell} (h : InSync s p) (hg : goodCheck c = false) :
    deliverCell s p c = badDelivered s p c := by
  simp only [deliverCell, h, if_true, hg, Bool.false_eq_true, if_false, dispositionOf, dispose]

/-- A good cell clears the run and has its disposition (R4). -/
theorem deliverCell_good {p : Side} {c : Cell} (h : InSync s p) (hg : goodCheck c = true) :
    deliverCell s p c = dispose (runCleared s p) p c (dispositionOf (own s) p c) := by
  simp only [deliverCell, h, if_true, hg, own_modPort, runCleared]

/-- The row of a good cell does what the cell's disposition says. -/
theorem exec_of_good {p : Side} {c : Cell} {d : Disposition} (h : rowCell i = some (p, c)) (ha : Awake s)
    (hs : InSync s p) (hg : goodCheck c = true) (hd : dispositionOf (own s) p c = d)
    (ht : (dispose (runCleared s p) p c d).agenda = []) : exec i s = .next (dispose (runCleared s p) p c d) :=
  exec_of_delivered h ha ((deliverCell_good hs hg).trans (hd ▸ rfl)) ht

/-- A good cell addressed to the controller has the disposition of its kind (R7). -/
theorem dispositionOf_own {own : Octet} {p : Side} {c : Cell} (hg : goodCheck c = true) (hk : c.kind ≠ kindIdle)
    (hd : c.dst = own) : dispositionOf own p c = ownDisposition p c.kind := by
  simp only [dispositionOf, hg, Bool.true_eq_false, if_false, hk, hd, if_true]

/-- A good cell for another unit has the disposition of its kind (R9). -/
theorem dispositionOf_other {own : Octet} {p : Side} {c : Cell} (hg : goodCheck c = true) (hk : c.kind ≠ kindIdle)
    (hd : c.dst ≠ own) : dispositionOf own p c = otherDisposition p c.kind := by
  simp only [dispositionOf, hg, Bool.true_eq_false, if_false, hk, hd]

/-- Settles O17: outside SYNC a delivery changes nothing. -/
theorem nothingArrivesOutOfSync : Obligations.NothingArrivesOutOfSync := by
  intro s c ha
  have nothing (p : Side) (hs : ¬ InSync s p) (i : Instr) (h : rowCell i = some (p, c)) : exec i s = .next s :=
    exec_of_delivered h ha (deliverCell_out c hs) ha.2
  refine ⟨fun hs i hi => nothing .south hs i ?_, fun hs i hi => nothing .north hs i ?_⟩
  all_goals
    clear nothing
    revert i
    simp [rowCell]

theorem modPort_giveSlot (p q : Side) (f : Port → Port) : modPort (giveSlot s q) p f = giveSlot (modPort s p f) q := by
  cases p <;> cases q <;> rfl

theorem modPort_transmit (p q : Side) (x : Transmit) (f : Port → Port) :
    modPort (transmit s q x) p f = transmit (modPort s p f) q x := by
  cases p <;> cases q <;> rfl

/-- Settles O18: the count, then the slot or the cell passed on, then the run. -/
theorem badCellForwardedAndCounted : Obligations.BadCellForwardedAndCounted := by
  intro s p c ha hs hg
  let counted : Port → Port := fun x => { x with checkError := true, badChecks := count32 x.badChecks }
  have e : deliverCell s p c = modPort (if c.dst = own s then giveSlot s (opposite p)
      else transmit s (opposite p) (.cell c)) p (fun x => longerRun (counted x)) := by
    rw [deliverCell_bad hs hg]
    simp only [badDelivered, own_modPort, lengthenRun_eq, leaveSlot, passOn]
    split
    · rw [← modPort_giveSlot, modPort_modPort]
    · rw [← modPort_transmit, modPort_modPort]
  rw [exec_of_delivered rfl ha e (by split <;> simp [ha.2])]
  rfl

/-! ### Dispositions that no block reads (R7, R12) -/

/-- Settles O19: the dispositions IDLE and transit. -/
theorem idleAndTransitCells : Obligations.IdleAndTransitCells := by
  intro s p c ha hs hg
  refine ⟨fun hk => ?_, fun hk hd hr => ?_⟩
  · have d : dispositionOf (own s) p c = .idle := by
      simp only [dispositionOf, hg, Bool.true_eq_false, if_false, hk, kindIdle, if_true]
    exact exec_of_good rfl ha hs hg d (by simp [dispose, leaveSlot, runCleared, ha.2])
  · have d : dispositionOf (own s) p c = .transit := by
      rw [dispositionOf_other hg hk hd]
      rcases hr with ⟨rfl, h⟩ | ⟨rfl, h, h'⟩
      · exact if_neg h
      · exact (if_neg h).trans (if_neg h')
    exact exec_of_good rfl ha hs hg d (by simp [dispose, passOn, runCleared, ha.2])

/-- Settles O20: the disposition of a cell that no block takes. -/
theorem discardedCells : Obligations.DiscardedCells := by
  rintro s p c ⟨ha, hs, hg, hd⟩ hk
  have drops (h : ownDisposition p c.kind = .discarded) :
      exec (.discardCell p c) s = .next (discardDelivered (runCleared s p) p c) :=
    exec_of_good rfl ha hs hg ((dispositionOf_own hg hk hd).trans h) (by
      simp only [dispose, discardDelivered, leaveSlot, runCleared, countDropped]
      split <;> simp [ha.2])
  refine ⟨?_, ?_, ?_⟩
  · rintro rfl h
    rw [drops (if_neg h)]
    simp [discardDelivered, leaveSlot, opposite]
  · rintro rfl h
    simp only [List.mem_cons, List.not_mem_nil, or_false, not_or] at h
    obtain ⟨command, sample, ack, audit⟩ := h
    rw [drops ((if_neg sample).trans ((if_neg ack).trans (if_neg audit)))]
    have : c.kind ≠ kindCommand := command
    simp [discardDelivered, leaveSlot, opposite, this]
  · rintro rfl h
    rw [drops (by rw [h]; decide)]
    have : c.kind = kindCommand := h
    simp only [discardDelivered, leaveSlot, opposite, this, true_and, if_true, countDropped]
    rfl

/-! ### The command intake (R17, R196) -/

/-- A COMMAND finds room in the intake FIFO, and a stopped pace timer starts (R17, R196). -/
theorem takeIn_joins (c : Cell) (h : s.ports.intake.length < 16) (hp : s.interp.pace ≠ .waiting) :
    takeIn s c = onInterp (onPorts s (fun p => { p with intake := p.intake ++ [c] }))
      (fun i => { i with pace := if i.pace = .stopped then .running 1 else i.pace }) := by
  have room : s.ports.intake.length < Config.intakeCapacity := h
  obtain ⟨pending, ports, tracker, tables, arbiter, engine, meas, tickets, calendar, schedules,
    ⟨pace, assemblies, slots, order, units⟩, agenda, clock, ageMs⟩ := s
  cases pace with
  | stopped => simp only [takeIn, room, if_true]; rfl
  | running ms => simp only [takeIn, room, if_true]; rfl
  | waiting => exact absurd rfl hp

/-- A waiting interpreter takes the COMMAND that joins the empty FIFO as the pace timer running out does (R196). -/
theorem takeIn_waiting (c : Cell) (h : s.ports.intake = []) (hp : s.interp.pace = .waiting) (ms : Nat) :
    takeIn s c = paceExpired (onInterp (onPorts s (fun p => { p with intake := [c] }))
      (fun i => { i with pace := .running ms })) := by
  simp only [takeIn, h, List.length_nil, Config.intakeCapacity, Nat.zero_lt_succ, if_true, onPorts_interp, hp,
    paceExpired, onPorts_ports, onInterp_ports, List.nil_append]
  rfl

theorem takeIn_overrun (c : Cell) (h : 16 ≤ s.ports.intake.length) :
    takeIn s c = modPort s .north (fun x => { x with intakeOverrun := true, dropped := count32 x.dropped }) := by
  simp only [takeIn, Config.intakeCapacity, Nat.not_lt.2 h, if_false, countDropped, modPort_modPort]

theorem live_of_awake (f : State → State) (ha : s.ports.resetAsserted = false) :
    live f s = .next (settle settleFuel (f s)) := by
  simp only [live, ha, Bool.false_eq_true, if_false]

/-- The pace timer running out (R196). -/
theorem exec_paceTimerExpiry {ms : Nat} (hp : s.interp.pace = .running ms) (ha : s.ports.resetAsserted = false) :
    exec .paceTimerExpiry s = .next (settle settleFuel (paceExpired s)) := by
  simp only [exec, execPaceTimerExpiry]
  rw [live_of_awake _ ha, hp]

/-- Settles O21: the three ways of a COMMAND at the intake FIFO. -/
theorem commandIntake : Obligations.CommandIntake := by
  rintro s c ⟨ha, hs, hg, hd⟩ hk
  have d : dispositionOf (own s) .north c = .command := by
    rw [dispositionOf_own hg (by rw [hk]; decide) hd]
    exact if_pos hk
  have joins : deliverCell s .north c = takeIn (giveSlot (runCleared s .north) .south) c := by
    rw [deliverCell_good hs hg, d]
    rfl
  refine ⟨fun hl hp => ?_, fun he hp ms => ?_, fun hl => ?_⟩
  · exact exec_of_delivered rfl ha (joins.trans (takeIn_joins c hl hp)) ha.2
  · rw [exec_of_rowCell s (p := .north) (c := c) rfl, onLink_of_awake _ _ _ ha.1,
      live_of_awake (fun s => deliverCell s .north c) ha.1, joins,
      takeIn_waiting (s := giveSlot (runCleared s .north) .south) c he hp ms]
    refine (exec_paceTimerExpiry (ms := ms) ?_ ?_).symm
    · rfl
    · exact ha.1
  · exact exec_of_delivered rfl ha (joins.trans (takeIn_overrun c hl)) ha.2

/-! ### Insertion (R11 to R14) -/

theorem exec_northInsertion (ha : Awake s) (h : insertNorth s = t) (ht : t.agenda = []) :
    exec .northInsertion s = .next t := by
  subst h
  exact live_of_settled ha.1 ht

theorem exec_southInsertion (ha : Awake s) (h : insertSouth s = t) (ht : t.agenda = []) :
    exec .southInsertion s = .next t := by
  subst h
  exact live_of_settled ha.1 ht

/-- A free-running slot is an insertion opportunity while the opposite receiver is out of SYNC (R11). -/
theorem exec_freeRunningSlot (p : Side) (ha : Awake s) : exec (.freeRunningSlot p) s =
    .next (if (portAt s (opposite p)).delineation = .sync then s else giveSlot s p) := by
  simp only [exec, execFreeRunningSlot]
  exact live_of_settled (f := fun s => if (portAt s (opposite p)).delineation = .sync then s else giveSlot s p) ha.1
    (by split <;> simp [ha.2])

/-- Settles O22: the free-running slot, and the queues of the two insertions in turn. -/
theorem insertionSendsOldest : Obligations.InsertionSendsOldest := by
  intro s c rest ha
  refine ⟨fun p => ⟨fun h => ?_, fun h => ?_⟩, fun hn hu hq => ?_, fun hn hu hq => ?_, fun hn hq => ?_,
    fun hn hq => ?_⟩
  · rw [exec_freeRunningSlot p ha, if_neg h]
  · rw [exec_freeRunningSlot p ha, if_pos h]
  · refine exec_northInsertion ha ?_ ha.2
    simp only [insertNorth, Nat.ne_of_gt hn, if_false, onPorts_ports, hu, hq]
    simp only [transmit, onPorts, hu]
  · refine exec_northInsertion ha ?_ ha.2
    simp only [insertNorth, Nat.ne_of_gt hn, if_false, onPorts_ports, hu, hq]
    simp only [transmit, onPorts, hu, hq]
  · refine exec_southInsertion ha ?_ ha.2
    simp only [insertSouth, Nat.ne_of_gt hn, if_false, onPorts_ports, hq]
    rfl
  · refine exec_southInsertion ha ?_ ha.2
    simp only [insertSouth, Nat.ne_of_gt hn, if_false, onPorts_ports, hq]
    simp only [transmit, onPorts, hq]

/-! ### READ_STATUS (R18, R200) -/

/-- A command that finds its places and is permitted is carried out against them, and its answer joins (R196 to
R198). -/
theorem takeCommand_accepted {src : Octet} {tag : Half} {c : Command} (hr : answerPlaces (commandCode c) ≤ normalRoom s)
    (hc : c ≠ .restart) (hp : permitted (reservePlaces s (answerPlaces (commandCode c))) src c = true) :
    takeCommand s src tag c =
      let r := carryOut (reservePlaces s (answerPlaces (commandCode c))) src c
      joinNormal (releasePlaces r.1 (answerPlaces (commandCode c)))
        (answerCells (own s) src tag (commandCode c) r.2) := by
  simp only [takeCommand, Nat.not_lt.2 hr, if_false, hc, false_and, acceptCommand, judgeCommand, hp, if_true]

theorem delineationCode_mem (d : Delineation) : (Config.delineationCode d).toNat ∈ [1, 2, 3] := by
  have hm : d ∈ [Delineation.hunt, .presync, .sync] := by cases d <;> decide
  have low := Config.namedCode_pos [Delineation.hunt, .presync, .sync] Config.delineationOrder d
  have high := Config.namedCode_le Config.delineationOrder hm
  rw [Config.delineationCode, Config.namedCode_field 8 Config.delineationOrder hm (by decide)]
  simp only [List.length_cons, List.length_nil] at high
  simp only [List.mem_cons, List.not_mem_nil, or_false]
  omega

theorem portFlags_eq (p : Port) : portFlags p = octet ((if p.checkError then 1 else 0) +
    (if p.delineationLost then 2 else 0) + (if p.intakeOverrun then 4 else 0)) := by
  simp only [portFlags, flagOctet]
  cases p.checkError <;> cases p.delineationLost <;> cases p.intakeOverrun <;> rfl

theorem routineCount_eq (q : List Entry) : routineCount q = q.countP (fun x => x.cls ≠ .demand) := by
  refine List.countP_congr fun x _ => ?_
  simp [isRoutine, isDemand]

/-- What READ_STATUS leaves once its places are given back: the flags of both ports clear for 0x02 (R18). -/
theorem readStatus_released (s : State) (src : Octet) (k : Nat) :
    releasePlaces (readStatus (reservePlaces s k) src).1 k = { s with ports := { s.ports with
      north := if src = maintenance then clearFlags s.ports.north else s.ports.north
      south := if src = maintenance then clearFlags s.ports.south else s.ports.south } } := by
  simp only [readStatus]
  split <;> simp only [releasePlaces, reservePlaces, onPorts, Nat.add_sub_cancel]

/-- The cells of READ_STATUS's answer (R200). -/
theorem readStatus_cells (s : State) (src : Octet) (tag : Half) :
    answerCells (own s) src tag 29#8 (readStatusAnswer s) =
      [makeCell 0x52#8 (own s) src (octets2 tag.toNat ++ [29#8, 1#8, 2#8, portFlags s.ports.north,
        portFlags s.ports.south, serviceCode s.arbiter.service,
        if s.arbiter.service = .starting then serviceCode s.arbiter.returnTo else 0#8,
        octet (freeSlotCount s), octet s.arbiter.queue.length, octet (routineCount s.arbiter.queue)]),
       makeCell 0x53#8 (own s) src (octets2 tag.toNat ++ [1#8] ++ portReply s.ports.north),
       makeCell 0x53#8 (own s) src (octets2 tag.toNat ++ [2#8] ++ portReply s.ports.south)] := by
  simp only [answerCells, responseCell, replyCell, readStatusAnswer, List.zipIdx_cons, List.zipIdx_nil, List.map_cons,
    List.map_nil, List.append_assoc, List.cons_append, List.nil_append]
  rfl

/-- Settles O40: READ_STATUS answers as it is taken and clears the flags for 0x02. -/
theorem readStatusClearsFlags : Obligations.ReadStatusClearsFlags := by
  rintro s src tag ⟨ha, room, held⟩
  refine ⟨?_, fun d k => ⟨delineationCode_mem d, Config.delineationCode_inj⟩⟩
  have taken : takeCommand s src tag .readStatus = joinNormal (releasePlaces (readStatus (reservePlaces s 3) src).1 3)
      (answerCells (own s) src tag 29#8 (readStatusAnswer s)) :=
    takeCommand_accepted (c := .readStatus) room nofun (Bool.or_eq_true_iff.2 (.inr held))
  rw [readStatus_released, readStatus_cells] at taken
  rw [exec_of_rowCommand s (c := .readStatus) rfl, live_of_settled ha.1 (by rw [taken]; exact ha.2), taken]
  simp only [portFlags_eq, portReply, routineCount_eq, List.append_assoc, List.cons_append, List.nil_append]
  rfl

end Sys2Proof.Machine
end

section
/-! PROOFS. The fields of the cells the part makes, the cells that leave the URGENT queue, and the joining of the offer
backlogs. -/

namespace Sys2Proof.Machine
open Sys2Proof

variable {s t : State} {i : Instr}

/-! ### Fields of the cells the part makes (R211) -/

/-- An octet the layout leaves unused is 0. -/
theorem payloadAt_makeCell (kind src dst : Octet) (p : List Octet) {i : Nat} (hi : i < 12) :
    payloadAt (makeCell kind src dst p) i = p.getD i 0#8 := by
  simp only [payloadAt, makeCell, padPayload, List.getD_eq_getElem?_getD, List.getElem?_take, hi, if_true]
  by_cases h : i < p.length
  · rw [List.getElem?_append_left h]
  · rw [List.getElem?_append_right (by omega), List.getElem?_eq_none (l := p) (by omega),
      List.getElem?_replicate_of_lt (by omega)]
    rfl

theorem octet_toNat {n : Nat} (h : n < 256) : (octet n).toNat = n := Nat.mod_eq_of_lt h

/-- Two octets read back the number they are of (R211). -/
theorem octets2_toNat {n : Nat} (h : n < 65536) : (octet (n / 256) ++ octet n : Half).toNat = n := by
  simp only [octet, BitVec.toNat_append, BitVec.toNat_ofNat]
  rw [Nat.shiftLeft_eq, ← Nat.shiftLeft_eq, ← Nat.shiftLeft_add_eq_or_of_lt (Nat.mod_lt _ (by decide)),
    Nat.shiftLeft_eq]
  omega

theorem shelfOf_shelfAddress {n : Nat} (h : n ≤ 15) : shelfOf (shelfAddress n) = some n := by
  interval_cases n <;> rfl

theorem headOf_headAddress {b : Nat} (h : b ≤ 3) : headOf (headAddress b) = some b := by
  interval_cases b <;> rfl

theorem orderCode_inj {k l : OrderKind} (h : orderCode k = orderCode l) : k = l := by
  revert h
  cases k <;> cases l <;> decide

theorem relayOrderCell_tag (own : Octet) {tag : Nat} (o : Order) (h : tag < 256) :
    (payloadAt (relayOrderCell own tag o) 0).toNat = tag := by
  rw [relayOrderCell, payloadAt_makeCell _ _ _ _ (by decide)]
  exact octet_toNat h

theorem relayOrderCell_code (own : Octet) (tag : Nat) (o : Order) :
    payloadAt (relayOrderCell own tag o) 1 = orderCode o.kind := payloadAt_makeCell _ _ _ _ (by decide)

/-- The LEN of an access order (section 11.5). -/
theorem relayOrderCell_line (own : Octet) (tag : Nat) {o : Order} (hk : o.kind = .accessOperate) (h : o.line < 65536) :
    (field2 (relayOrderCell own tag o) 3).toNat = o.line := by
  rw [relayOrderCell, field2, payloadAt_makeCell _ _ _ _ (by decide), payloadAt_makeCell _ _ _ _ (by decide), hk]
  exact octets2_toNat h

/-! ### Changes of one entry -/

/-- Only what becomes of the entry as it is matters to a change of it. -/
theorem tabMod_congr {α : Type} [DecidableEq α] {d : α} {tab : Tab α} {k : Nat} {f g : α → α}
    (h : f (tabGet d tab k) = g (tabGet d tab k)) : tabMod d tab k f = tabMod d tab k g :=
  congrArg (tabPut d tab k) h

theorem modShelf_congr {n : Nat} {f g : Shelf → Shelf} (h : f (shelfAt s n) = g (shelfAt s n)) :
    modShelf s n f = modShelf s n g := by
  simp only [modShelf, onTracker, tabMod_congr (d := shelfZero) (tab := s.tracker.shelves) h]

/-- A mark changed from under test to under test offers no report (R66). -/
theorem setMark_underTest {len : Nat} {m : Mark} (b : Bool) (h : markOf s len ≠ .free) (hm : m ≠ .free) :
    setMark s len m b = writeMark s len m := by
  simp only [setMark, h, hm, false_and, if_false, not_false_eq_true, and_false, ne_eq]

theorem sessionAt_modSession_same {id : Nat} {x : Session} {f : Session → Session} (h : sessionAt s id = some x) :
    sessionAt (modSession s id f) id = some (f x) := by
  rw [sessionAt_modSession, if_pos rfl, h]
  rfl

theorem lineOf_writeMark (s : State) (len k : Nat) (m : Mark) : lineOf (writeMark s len m) k =
    if k = len then { lineOf s len with blocked := m ≠ .free } else lineOf s k :=
  lineOf_modLine ..

/-- What a session table entry gives when its line's session is looked up. -/
theorem sessionAt_of_onLine {len id : Nat} {x : Session} (h : sessionOnLine s len = some (id, x)) :
    sessionAt s id = some x ∧ x.line = len ∧ id < 8 := by
  have mem := List.mem_of_find?_eq_some h
  have line := List.find?_some h
  obtain ⟨k, hk, e⟩ := List.mem_filterMap.1 mem
  obtain ⟨y, hy, e⟩ := Option.map_eq_some_iff.1 e
  cases e
  exact ⟨hy, of_decide_eq_true line, List.mem_range.1 hk⟩

/-! ### URGENT cells (R13, R22, R109) -/

/-- The oldest URGENT cell leaves Port N with what it brings about. -/
theorem insertNorth_urgent {c : Cell} {rest : List Cell} (hn : 0 < s.ports.northSlots) (hu : s.ports.urgent = c :: rest) :
    insertNorth s = urgentLeft { s with ports := { s.ports with
      northSlots := s.ports.northSlots - 1, urgent := rest, northTx := .cell c } } c := by
  simp only [insertNorth, Nat.ne_of_gt hn, if_false, onPorts_ports, hu]
  rfl

theorem urgentLeft_unblocked {c : Cell} (hk : c.kind = 0x41#8) (h : payloadAt c 2 ≠ 1#8) : urgentLeft s c = s := by
  simp only [urgentLeft, kindTestBlock, hk, if_true, h, if_false]

theorem urgentLeft_blocked {c : Cell} (hk : c.kind = 0x41#8) (h : payloadAt c 2 = 1#8) :
    urgentLeft s c = blockedReportLeft s (field2 c 0).toNat := by
  simp only [urgentLeft, kindTestBlock, hk, if_true, h]

theorem urgentLeft_report {c : Cell} {r : Report} {h : Hook} (hk : c.kind = 0x11#8)
    (hr : reportOf (payloadAt c 2) = some r) (hm : reportMeaning r = some h) :
    urgentLeft s c = modLine s (field2 c 0).toNat (fun l => { l with lastForwarded := h }) := by
  have : c.kind ≠ kindTestBlock := by rw [hk]; decide
  simp only [urgentLeft, this, if_false, hr, forwardReport, hm]

/-- A BLOCKED report for a line without a DIAL session in RESERVED changes nothing. -/
theorem blockedReportLeft_other {len : Nat} (h : ∀ id x, sessionOnLine s len = some (id, x) →
    x.bus.isSome = true ∨ x.state ≠ .reserved) : blockedReportLeft s len = s := by
  unfold blockedReportLeft
  split
  · rename_i id x e
    refine if_neg fun hb => ?_
    rcases h id x e with hs | hs
    · rw [Option.isNone_iff_eq_none.1 hb.1] at hs; cases hs
    · exact hs hb.2
  · rfl

/-- A BLOCKED report begins a DIAL session in RESERVED (R109). -/
theorem blockedReportLeft_dial {len id n : Nat} {x : Session} (h : sessionOnLine s len = some (id, x))
    (hb : x.bus = none) (hs : x.state = .reserved) (hm : markOf s len ≠ .free)
    (hp : (programAt s x.program).steps = [.dial n]) :
    blockedReportLeft s len = modSession (putCollector (writeMark s len .inSession) id
      (openCollector n ((lineOf s len).hook = .idle))) id
      (fun x => { x with state := if (lineOf s len).hook = .idle then .awaitOffHook else .collecting }) := by
  have limit : dialLimit (writeMark s len .inSession) x = n := by
    show (match (programAt s x.program).steps with | [.dial n] => n | _ => 0) = n
    rw [hp]
  simp only [blockedReportLeft, h, hb, hs, Option.isNone_none, and_self, if_true,
    setMark_underTest true hm (show Mark.inSession ≠ .free by decide), limit, decide_eq_true_eq]

/-- Settles O23: what each kind of URGENT cell brings about as it leaves. -/
theorem urgentSentFirst : Obligations.UrgentSentFirst := by
  intro s c rest ha hn hu sent
  have leaves {t : State} (h : urgentLeft sent c = t) (ht : t.agenda = []) : exec .northInsertion s = .next t :=
    exec_northInsertion ha ((insertNorth_urgent hn hu).trans h) ht
  refine ⟨fun hk hp => ?_, fun hk hp => ⟨fun ho => ?_, fun id x n ho hb hs hm hd => ?_⟩,
    fun code h hc hk hp => ?_⟩
  · exact leaves (urgentLeft_unblocked hk (by rw [hp]; decide)) ha.2
  · exact leaves ((urgentLeft_blocked hk hp).trans (blockedReportLeft_other ho)) ha.2
  · have left := (urgentLeft_blocked (s := sent) hk hp).trans (blockedReportLeft_dial ho hb hs hm hd)
    rw [show lineOf sent (field2 c 0).toNat = lineOf s (field2 c 0).toNat from rfl] at left
    have here : sessionAt s id = some x := (sessionAt_of_onLine ho).1
    refine ⟨_, leaves left ha.2, fun hw => ?_, fun hw => ?_, fun k hk => ⟨?_, ?_⟩, ?_, ?_, ?_, ?_,
      fun k hk => ⟨?_, ?_⟩, rfl⟩
    · exact (sessionAt_modSession_same here).trans (by simp only [if_pos hw])
    · exact (sessionAt_modSession_same here).trans (by simp only [if_neg hw])
    · exact (sessionAt_modSession ..).trans (if_neg hk)
    · exact (collectorAt_putCollector ..).trans (if_neg hk)
    · refine (congrArg Collector.phase ((collectorAt_putCollector ..).trans (if_pos rfl))).trans ?_
      simp only [openCollector, decide_eq_true_eq]
    · have opened := (collectorAt_putCollector (writeMark sent (field2 c 0).toNat .inSession) id id
        (openCollector n ((lineOf s (field2 c 0).toNat).hook = .idle))).trans (if_pos rfl)
      exact opened.trans (congrArg (fun p => { collectorZero with phase := p, limit := n })
        (congrArg Collector.phase opened).symm)
    · exact (markOf_writeMark ..).trans (if_pos rfl)
    · exact (lineOf_writeMark ..).trans (if_pos rfl)
    · exact (markOf_writeMark ..).trans (if_neg hk)
    · exact (lineOf_writeMark ..).trans (if_neg hk)
  · simp only [List.mem_cons, List.not_mem_nil, or_false, Prod.mk.injEq] at hc
    rcases hc with ⟨rfl, rfl⟩ | ⟨rfl, rfl⟩ | ⟨rfl, rfl⟩ | ⟨rfl, rfl⟩ <;>
      exact leaves (urgentLeft_report hk (by rw [hp]; rfl) rfl) ha.2

/-! ### The joining of the backlogs (R14, R15) -/

/-- The state once a cell has left the head of the South backlog for the tail of its queue. -/
def southJoined (s : State) (c : Cell) (rest : List Cell) : State :=
  { s with ports := { s.ports with southQueue := s.ports.southQueue ++ [c], southBacklog := rest } }

/-- The HEAD START of a bus's window starts the window's silence timer as it joins (R126). -/
theorem headOrderJoined_start {c : Cell} {o : Octet} {b tag n m : Nat} {leg : Leg} {v : Int} {w : Window}
    (hc : c = headStartCell o b tag leg v n m) (hb : b ≤ 3) (hw : windowAt s b = some w) (hwt : w.tag = tag)
    (ht : tag < 256) :
    headOrderJoined s c = putWindow s b (some { w with silence := some (silenceLimit w.interval) }) := by
  have code : payloadAt c 0 = 1#8 := by
    rw [hc, headStartCell, payloadAt_makeCell _ _ _ _ (by decide)]
    rfl
  have tagged : (payloadAt c 1).toNat = w.tag := by
    rw [hc, hwt, headStartCell, payloadAt_makeCell _ _ _ _ (by decide)]
    exact octet_toNat ht
  have bus : headOf c.dst = some b := by rw [hc]; exact headOf_headAddress hb
  simp only [headOrderJoined, bus, hw, code, tagged, and_self, if_true]

theorem exec_offerBacklogJoin_urgent (ha : Awake s) (h : joinUrgentBacklog s = t) (ht : t.agenda = []) :
    exec (.offerBacklogJoin .urgent) s = .next t := by
  subst h
  exact live_of_settled (f := joinUrgentBacklog) ha.1 ht

theorem exec_offerBacklogJoin_south (ha : Awake s) (h : joinSouthBacklog s = t) (ht : t.agenda = []) :
    exec (.offerBacklogJoin .south) s = .next t := by
  subst h
  exact live_of_settled (f := joinSouthBacklog) ha.1 ht

/-- A joining does what the kind of the cell asks for. -/
theorem joinSouthBacklog_joins {c : Cell} {rest : List Cell} (h : s.ports.southBacklog = c :: rest)
    (hr : s.ports.southQueue.length < 32) : joinSouthBacklog s =
      if c.kind = kindRelayOrder then relayOrderJoined (southJoined s c rest) c
      else if c.kind = kindAuditOrder then auditOrderJoined (southJoined s c rest) c
      else if c.kind = kindHeadOrder then headOrderJoined (southJoined s c rest) c
      else southJoined s c rest := by
  simp only [joinSouthBacklog, h, Config.southCapacity, hr, if_true]
  rfl

theorem joinSouthBacklog_full (h : 32 ≤ s.ports.southQueue.length) : joinSouthBacklog s = s := by
  unfold joinSouthBacklog
  split
  · exact if_neg (Nat.not_lt.2 h)
  · rfl

theorem joinUrgentBacklog_full (h : 16 ≤ s.ports.urgent.length) : joinUrgentBacklog s = s := by
  unfold joinUrgentBacklog
  split
  · exact if_neg (Nat.not_lt.2 h)
  · rfl

/-- An order's own entry, which no other entry shares the tag of, is the one its cell finds. -/
theorem find_order {before after : List OutstandingOrder} {o : OutstandingOrder} {p : OutstandingOrder → Bool}
    (hp : p o = true) (hother : ∀ x ∈ before, p x = false) : (before ++ o :: after).find? p = some o := by
  rw [List.find?_append, List.find?_eq_none.2 fun x hx => by rw [hother x hx]; exact nofun, Option.none_or,
    List.find?_cons_of_pos hp]

/-- Starting the timer of one tag changes that tag's entry alone. -/
theorem map_timer {before after : List OutstandingOrder} {o : OutstandingOrder} (tm : Option Nat)
    (h : ∀ x ∈ before ++ after, x.tag ≠ o.tag) :
    (before ++ o :: after).map (fun x => if x.tag = o.tag then { x with timer := tm } else x) =
      before ++ { o with timer := tm } :: after := by
  have same (l : List OutstandingOrder) (hl : ∀ x ∈ l, x.tag ≠ o.tag) :
      l.map (fun x => if x.tag = o.tag then { x with timer := tm } else x) = l :=
    (List.map_congr_left fun x hx => if_neg (hl x hx)).trans (List.map_id l)
  rw [List.map_append, List.map_cons, if_pos rfl, same before fun x hx => h x (List.mem_append_left _ hx),
    same after fun x hx => h x (List.mem_append_right _ hx)]

section
variable {c : Cell} {before after : List OutstandingOrder} {o : OutstandingOrder} {own : Octet}
  (ho : s.engine.orders = before ++ o :: after) (ht : o.tag < 256) (hn : o.timer = none)
  (hd : ∀ x ∈ before ++ after, x.tag ≠ o.tag) (hc : c = relayOrderCell own o.tag o.order)

/-- The part with the timer of the joined order's entry running (R90). -/
def orderTimed (s : State) (before : List OutstandingOrder) (o : OutstandingOrder) (after : List OutstandingOrder) :
    State :=
  { s with engine := { s.engine with orders := before ++ { o with timer := some 40 } :: after } }

include ho ht hd hc

theorem relayOrder_timed : onEngine s (fun e => { e with orders := e.orders.map (fun x =>
    if x.tag = (payloadAt c 0).toNat then { x with timer := some Config.orderMs } else x) }) =
      orderTimed s before o after := by
  have tag : (payloadAt c 0).toNat = o.tag := hc ▸ relayOrderCell_tag own o.order ht
  simp only [onEngine, ho, tag, map_timer (some Config.orderMs) hd]
  rfl

include hn

theorem relayOrder_found : s.engine.orders.find? (fun x => x.tag = (payloadAt c 0).toNat ∧ x.timer = none ∧
    shelfAddress x.order.shelf = c.dst ∧ orderCode x.order.kind = payloadAt c 1) = some o := by
  have tag : (payloadAt c 0).toNat = o.tag := hc ▸ relayOrderCell_tag own o.order ht
  rw [ho]
  refine find_order (decide_eq_true ⟨tag.symm, hn, by rw [hc]; rfl, by rw [hc, relayOrderCell_code]⟩) fun x hx => ?_
  exact decide_eq_false fun e => hd x (List.mem_append_left _ hx) (e.1.trans tag)

/-- A riser order's or an ACCESS RELEASE's joining starts its timer and does no more (R90). -/
theorem relayOrderJoined_plain (hk : o.order.kind ∈ [OrderKind.riserOperate, .accessRelease, .riserRelease]) :
    relayOrderJoined s c = orderTimed s before o after := by
  simp only [relayOrderJoined, relayOrder_found ho ht hn hd hc, relayOrder_timed ho ht hd hc]
  simp only [List.mem_cons, List.not_mem_nil, or_false] at hk
  rcases hk with hk | hk | hk <;> rw [hk]

/-- A RELEASE ALL's joining is the time R115 keeps. -/
theorem relayOrderJoined_releaseAll (hk : o.order.kind = .releaseAll) :
    relayOrderJoined s c = onEngine (orderTimed s before o after) (fun e => { e with
      releaseAllAt := tabPut none e.releaseAllAt o.order.shelf (some s.clock) }) := by
  simp only [relayOrderJoined, relayOrder_found ho ht hn hd hc, relayOrder_timed ho ht hd hc, hk]
  rfl

/-- A session's ACCESS OPERATE cuts its line off as it joins (R15, R93). -/
theorem relayOrderJoined_access {id : Nat} (hk : o.order.kind = .accessOperate) (hw : o.order.owner = .session id) :
    relayOrderJoined s c = modSession (cutLine (orderTimed s before o after) o.order.line) id
      (fun x => { x with state := .connecting }) := by
  simp only [relayOrderJoined, relayOrder_found ho ht hn hd hc, relayOrder_timed ho ht hd hc, hk, hw]

end

theorem lineOf_cutLine (s : State) (len k : Nat) : lineOf (cutLine s len) k =
    if k = len then { lineOf s len with cutOff := true, blocked := true } else lineOf s k := by
  rw [cutLine, lineOf_writeMark, lineOf_modLine, if_pos rfl, lineOf_modLine]
  split <;> rfl

theorem markOf_cutLine (s : State) (len k : Nat) :
    markOf (cutLine s len) k = if k = len then .inSession else markOf s k := markOf_writeMark ..

/-- The cell of an order given up before has no entry (R37; log entry 16). -/
theorem relayOrderJoined_stray {c : Cell} (h : ∀ x ∈ s.engine.orders, x.tag ≠ (payloadAt c 0).toNat) :
    relayOrderJoined s c = strayOrderJoined s c := by
  have none : s.engine.orders.find? (fun x => x.tag = (payloadAt c 0).toNat ∧ x.timer = none ∧
      shelfAddress x.order.shelf = c.dst ∧ orderCode x.order.kind = payloadAt c 1) = none :=
    List.find?_eq_none.2 fun x hx => by simp only [h x hx, false_and, decide_false]; exact nofun
  simp only [relayOrderJoined, none]

theorem releaseToCome_iff {len : Nat} : releaseToCome s len = true ↔
    (∃ y ∈ s.engine.orders, y.order.kind = .accessRelease ∧ y.order.line = len) ∨
      ∃ y ∈ s.engine.waiting, y.kind = .accessRelease ∧ y.line = len := by
  simp [releaseToCome, List.any_append, List.any_eq_true]

/-- Settles O24: the two queues' room, and the effect of a South cell's joining by its kind. -/
theorem backlogJoins : Obligations.BacklogJoins := by
  intro s c rest ha
  refine ⟨fun hb hr => ?_, fun hf => ?_, fun hb hr hk => ?_, fun hf => ?_, fun hb hr => ?_⟩
  · refine exec_offerBacklogJoin_urgent ha ?_ ha.2
    simp only [joinUrgentBacklog, hb, Config.urgentCapacity, hr, if_true]
    rfl
  · exact exec_offerBacklogJoin_urgent ha (joinUrgentBacklog_full hf) ha.2
  · refine exec_offerBacklogJoin_south ha ((joinSouthBacklog_joins hb hr).trans ?_) ha.2
    rw [hk]
    rfl
  · exact exec_offerBacklogJoin_south ha (joinSouthBacklog_full hf) ha.2
  · intro joined
    have joins {u : State} (h : joinSouthBacklog s = u) (hu : u.agenda = []) :
        exec (.offerBacklogJoin .south) s = .next u := exec_offerBacklogJoin_south ha h hu
    have relay (h : c.kind = kindRelayOrder) : joinSouthBacklog s = relayOrderJoined joined c :=
      (joinSouthBacklog_joins hb hr).trans (if_pos h)
    refine ⟨fun before o after ho ht hn hd hc => ?_, fun tag o ht hl hc hd => ?_, fun n a hn hs hm ht hc => ?_,
      fun b w leg v hb' hw ht hc => ?_⟩
    · have other (x) (hx : x ∈ before ++ after) : x.tag ≠ o.tag := (hd x hx).1
      have order := relay (by rw [hc]; rfl)
      refine ⟨fun hk => ?_, fun hk => ?_, fun id x hk hw hx hl => ?_⟩
      · exact joins (order.trans (relayOrderJoined_plain (s := joined) ho ht hn other hc hk)) ha.2
      · have all := order.trans (relayOrderJoined_releaseAll (s := joined) ho ht hn other hc hk)
        refine ⟨_, joins all ha.2, ?_, rfl⟩
        exact tabGet_tabPut_same none s.engine.releaseAllAt o.order.shelf (some s.clock)
      · have cut := order.trans (relayOrderJoined_access (s := joined) ho ht hn other hc hk hw)
        rw [← hl] at cut
        let timed := orderTimed joined before o after
        have line := lineOf_cutLine timed x.line
        have mark := markOf_cutLine timed x.line
        refine ⟨_, joins cut ha.2, sessionAt_modSession_same (s := cutLine timed x.line) hx, ?_, ?_,
          fun k hk => ⟨?_, ?_⟩, fun k hk => ?_, rfl⟩
        · exact (line x.line).trans (if_pos rfl)
        · exact (mark x.line).trans (if_pos rfl)
        · exact (line k).trans (if_neg hk)
        · exact (mark k).trans (if_neg hk)
        · exact (sessionAt_modSession (cutLine timed x.line) id k _).trans (if_neg hk)
    · have stray := (relay (by rw [hc]; rfl)).trans (relayOrderJoined_stray (s := joined) fun x hx => by
        rw [hc, relayOrderCell_tag _ _ ht]
        exact hd x hx)
      intro toCome
      have come : toCome ↔ releaseToCome joined o.line = true := releaseToCome_iff.symm
      refine ⟨fun hk hcome => joins (stray.trans ?_) ha.2, fun hno => joins (stray.trans ?_) ha.2⟩
      · have line : (field2 c 3).toNat = o.line := hc ▸ relayOrderCell_line (own s) tag hk (by omega)
        simp only [strayOrderJoined, line]
        exact if_pos ⟨by rw [hc, relayOrderCell_code, hk], come.1 hcome⟩
      · refine if_neg fun h => ?_
        have hk : o.kind = .accessOperate := orderCode_inj ((hc ▸ relayOrderCell_code (own s) tag o).symm.trans h.1)
        have line : (field2 c 3).toNat = o.line := hc ▸ relayOrderCell_line (own s) tag hk (by omega)
        exact hno.elim (fun hno => hno hk) fun hno => hno (come.2 (line ▸ h.2))
    · have kind : c.kind = kindAuditOrder := by rw [hc]; rfl
      have audit : joinSouthBacklog s = auditOrderJoined joined c :=
        (joinSouthBacklog_joins hb hr).trans ((if_neg (by rw [kind]; decide)).trans (if_pos kind))
      refine joins (audit.trans ?_) ha.2
      have tag : (payloadAt c 0).toNat = a.tag := by
        rw [hc, auditOrderCell, payloadAt_makeCell _ _ _ _ (by decide)]
        exact octet_toNat ht
      have shelf : shelfOf c.dst = some n := by rw [hc]; exact shelfOf_shelfAddress hn
      simp only [auditOrderJoined, shelf, tag]
      refine modShelf_congr ?_
      rw [show (shelfAt joined n).audit = some a from hs]
      simp only [Option.map_some, hm, and_self, if_true]
      rfl
    · have kind : c.kind = kindHeadOrder := by rw [hc]; rfl
      have head : joinSouthBacklog s = headOrderJoined joined c := (joinSouthBacklog_joins hb hr).trans
        ((if_neg (by rw [kind]; decide)).trans ((if_neg (by rw [kind]; decide)).trans (if_pos kind)))
      exact joins (head.trans (headOrderJoined_start (s := joined) hc hb' hw rfl ht)) ha.2

end Sys2Proof.Machine
end

section
/-! PROOFS. Relay orders that find an entry and room, and warm restart with no session running. -/

namespace Sys2Proof.Machine
open Sys2Proof

variable {s t : State} {i : Instr}

/-! ### An order that finds an entry and room (R90) -/

/-- The part with an order placed: its tag issued, its entry with the timer running, its cell in the South queue. -/
def orderPlaced (s : State) (o : Order) : State :=
  { s with
    ports := { s.ports with southQueue := s.ports.southQueue ++ [relayOrderCell (own s) (nextOrderTag s) o] }
    engine := { s.engine with
      candidate := (nextOrderTag s + 1) % 256
      orders := s.engine.orders ++ [{ tag := nextOrderTag s, order := o, timer := some 40 }] } }

/-- The part with an order's tag issued and its entry made, its cell not yet joined. -/
def orderEntered (s : State) (o : Order) : State :=
  { s with engine := { s.engine with
      candidate := (nextOrderTag s + 1) % 256
      orders := s.engine.orders ++ [{ tag := nextOrderTag s, order := o, timer := none }] } }

theorem placeOrder_eq (s : State) (o : Order) :
    placeOrder s o = offerSouth (orderEntered s o) (relayOrderCell (own s) (nextOrderTag s) o) := rfl

theorem offerSouth_joins (c : Cell) (hq : s.ports.southQueue.length < 32) (hb : s.ports.southBacklog = []) :
    offerSouth s c = joinSouth s c := if_pos ⟨hq, hb⟩

/-- With the queue full or a backlog before it, a cell that does not wait already joins the backlog (R15). -/
theorem offerSouth_waits {c : Cell} (h : 32 ≤ s.ports.southQueue.length ∨ s.ports.southBacklog ≠ [])
    (hc : c ∉ s.ports.southBacklog) :
    offerSouth s c = { s with ports := { s.ports with southBacklog := s.ports.southBacklog ++ [c] } } := by
  have full : ¬ (s.ports.southQueue.length < Config.southCapacity ∧ s.ports.southBacklog = []) := fun r =>
    h.elim (fun hq => absurd r.1 (Nat.not_lt.2 hq)) fun hb => hb r.2
  simp only [offerSouth, full, if_false, hc]
  rfl

theorem requestOrder_places (o : Order) (ho : s.engine.orders.length < 16) (hw : s.engine.waiting = []) :
    requestOrder s o = placeOrder s o := if_pos (decide_eq_true ⟨ho, hw⟩)

/-- The entry a placed order takes, its timer not yet running. -/
def newEntry (s : State) (o : Order) : OutstandingOrder := { tag := nextOrderTag s, order := o, timer := none }

/-- The part with an order's entry made and its cell at the tail of the South queue. -/
def orderJoining (s : State) (o : Order) : State :=
  { orderEntered s o with ports := { s.ports with
    southQueue := s.ports.southQueue ++ [relayOrderCell (own s) (nextOrderTag s) o] } }

/-- The new entry's tag is no other entry's (R90). -/
theorem newEntry_other (o : Order) (ho : s.engine.orders.length < 16) :
    ∀ x ∈ s.engine.orders ++ [], x.tag ≠ (newEntry s o).tag := fun x hx h => by
  rw [List.append_nil] at hx
  exact nextOrderTag_fresh s (by omega) (List.mem_append_left _ (List.mem_map.2 ⟨x, hx, h⟩))

/-- A relay order that finds room joins the South queue as soon as its entry is made. -/
theorem placeOrder_joins (o : Order) (hq : s.ports.southQueue.length < 32) (hb : s.ports.southBacklog = []) :
    placeOrder s o = relayOrderJoined (orderJoining s o) (relayOrderCell (own s) (nextOrderTag s) o) := by
  rw [placeOrder_eq, offerSouth_joins (s := orderEntered s o) _ hq hb, joinSouth]
  exact if_pos rfl

section
variable (o : Order) (ho : s.engine.orders.length < 16) (hq : s.ports.southQueue.length < 32)
  (hb : s.ports.southBacklog = [])

include ho hq hb

theorem placeOrder_plain (hk : o.kind ∈ [OrderKind.riserOperate, .accessRelease, .riserRelease]) :
    placeOrder s o = orderPlaced s o :=
  (placeOrder_joins o hq hb).trans (relayOrderJoined_plain (s := orderJoining s o) (o := newEntry s o) (own := own s) rfl
    (nextOrderTag_lt s) rfl (newEntry_other o ho) rfl hk)

theorem placeOrder_releaseAll (hk : o.kind = .releaseAll) : placeOrder s o = onEngine (orderPlaced s o)
    (fun e => { e with releaseAllAt := tabPut none e.releaseAllAt o.shelf (some s.clock) }) :=
  (placeOrder_joins o hq hb).trans (relayOrderJoined_releaseAll (s := orderJoining s o) (o := newEntry s o) (own := own s) rfl
    (nextOrderTag_lt s) rfl (newEntry_other o ho) rfl hk)

theorem placeOrder_access {id : Nat} (hk : o.kind = .accessOperate) (hw : o.owner = .session id) :
    placeOrder s o = modSession (cutLine (orderPlaced s o) o.line) id (fun x => { x with state := .connecting }) :=
  (placeOrder_joins o hq hb).trans (relayOrderJoined_access (s := orderJoining s o) (o := newEntry s o) (own := own s) rfl
    (nextOrderTag_lt s) rfl (newEntry_other o ho) rfl hk hw)

end

/-! ### Warm restart with no session and no bus held (R209) -/

/-- A notice that no unit has asked for is offered to none (R208). -/
theorem notify_none (n : Notice) (h : s.interp.units = []) : notify s n = s := by
  unfold notify
  induction List.range 9 with
  | nil => rfl
  | cons u rest ih =>
    have silent : (unitAt s u).mask = [] := by simp [unitAt, h, unitZero]
    rw [List.foldl_cons, silent, if_neg List.not_mem_nil, ih]

/-- The audits' timers are the shelf table's. -/
theorem startLostAudits_frame (s : State) :
    ∃ x, startLostAudits s = { s with tracker := { s.tracker with shelves := x } } := by
  unfold startLostAudits
  induction List.range 16 generalizing s with
  | nil => exact ⟨_, rfl⟩
  | cons n rest ih => exact ih (modShelf s n _)

/-- An HOURLY checker is kept (R143). -/
theorem checkerRestart_hourly {k : Nat} (hm : (headAt s k).mode = .hourly) : checkerRestart s k = s := if_pos hm

/-- A CONTINUOUS checker that is not DEGRADED is zeroed (R143). -/
theorem checkerRestart_calm {k : Nat} {c : Checker} (hc : checkerAt s k = c) (hd : c.degraded = false)
    (hm : (headAt s k).mode ≠ .hourly) :
    checkerRestart s k = putChecker s k { c with running := 0, latched := 0 } := by
  simp only [checkerRestart, hm, if_false, hc, hd, Bool.false_eq_true]

/-- The checkers' restart without a DEGRADED head raises no notice: the CONTINUOUS ones are zeroed (R143). -/
theorem checkersRestart_frame (hd : ∀ h, (checkerAt s h).degraded = false) (k : Nat) :
    ∃ x, (List.range k).foldl checkerRestart s = { s with meas := { s.meas with checkers := x } } ∧
      ∀ h, tabGet checkerZero x h = if h < k ∧ (headAt s h).mode ≠ .hourly
        then { checkerAt s h with running := 0, latched := 0 } else checkerAt s h := by
  induction k with
  | zero => exact ⟨_, rfl, fun h => (if_neg (by omega)).symm⟩
  | succ k ih =>
    obtain ⟨x, e, hx⟩ := ih
    rw [List.range_succ, List.foldl_append, List.foldl_cons, List.foldl_nil, e]
    have here : tabGet checkerZero x k = checkerAt s k := (hx k).trans (if_neg (by omega))
    by_cases hm : (headAt s k).mode = .hourly
    · refine ⟨x, checkerRestart_hourly hm, fun h => (hx h).trans ?_⟩
      by_cases hk : h = k
      · subst hk; simp only [hm, ne_eq, not_true_eq_false, and_false, if_false]
      · simp only [Nat.lt_succ_iff_lt_or_eq, hk, or_false]
    · refine ⟨_, checkerRestart_calm here (hd k) hm, fun h => ?_⟩
      rw [tabGet_tabPut, hx]
      by_cases hk : h = k
      · subst hk; rw [if_pos rfl, if_pos ⟨Nat.lt_succ_self h, hm⟩]
      · simp only [Nat.lt_succ_iff_lt_or_eq, hk, or_false, if_false]

/-- An ACTIVE run becomes INCOMPLETE, its timer stopped; what it waits for is dropped in any state (R195). -/
theorem runRestart_eq (r : SweepRun) : runRestart r = { r with
    outstanding := [], deferredLines := []
    state := if r.state = .active then .incomplete else r.state
    timer := if r.state = .active then none else r.timer } := by
  by_cases h : r.state = .active <;> simp [runRestart, h]

/-- The schedules' restart (R195). -/
theorem schedulesRestart_frame (s : State) : ∃ x, schedulesRestart s = { s with schedules := x } ∧
    ∀ n, n < 8 → tabGet scheduleZero x n = { scheduleAt s n with run := runRestart (scheduleAt s n).run } := by
  have upTo (k : Nat) : ∃ x, (List.range k).foldl (fun s n => modRun s n runRestart) s = { s with schedules := x } ∧
      ∀ n, tabGet scheduleZero x n = if n < k then { scheduleAt s n with run := runRestart (scheduleAt s n).run }
        else scheduleAt s n := by
    induction k with
    | zero => exact ⟨_, rfl, fun n => (if_neg (by omega)).symm⟩
    | succ k ih =>
      obtain ⟨x, e, hx⟩ := ih
      rw [List.range_succ, List.foldl_append, List.foldl_cons, List.foldl_nil, e]
      refine ⟨_, rfl, fun n => ?_⟩
      rw [tabGet_tabMod, hx, hx]
      by_cases hn : n = k
      · subst hn; simp
      · simp only [Nat.lt_succ_iff_lt_or_eq, hn, or_false, if_false]
  obtain ⟨x, e, hx⟩ := upTo 8
  exact ⟨x, e, fun n hn => (hx n).trans (if_pos hn)⟩

/-- A bus that is FREE without quarantine or retry stays as it is (R118). -/
theorem restartBus_calm {b : Nat} {x : Bus} (hx : busAt s b = x) (free : x.state = .free)
    (quarantine : x.quarantine = none) (retry : x.retry = none) :
    restartBus s b = modBus s b (fun _ => x) := by
  have kept : ({ x with quarantine := none, retry := x.retry.map restartRetry } : Bus) = x := by
    rw [retry, ← quarantine]; exact congrArg (fun r => { x with retry := r }) retry.symm
  have same : modBus s b (fun x => { x with quarantine := none, retry := x.retry.map restartRetry }) =
      modBus s b (fun _ => x) :=
    congrArg (fun t => onEngine s (fun e => { e with buses := t })) (tabMod_congr (hx.symm ▸ kept))
  have calm : (busAt (modBus s b (fun _ => x)) b).state ≠ .quarantine := by
    rw [show busAt (modBus s b (fun _ => x)) b = x from
      (tabGet_tabMod busZero s.engine.buses b b (fun _ => x)).trans (if_pos rfl), free]
    exact nofun
  rw [restartBus, same, if_neg calm]

theorem busesRestart_frame (hb : ∀ b, (busAt s b).state = .free ∧ (busAt s b).quarantine = none ∧
    (busAt s b).retry = none) (k : Nat) :
    ∃ x, (List.range k).foldl restartBus s = { s with engine := { s.engine with buses := x } } ∧
      ∀ b, tabGet busZero x b = busAt s b := by
  induction k with
  | zero => exact ⟨_, rfl, fun _ => rfl⟩
  | succ k ih =>
    obtain ⟨x, e, hx⟩ := ih
    obtain ⟨free, quarantine, retry⟩ := hb k
    rw [List.range_succ, List.foldl_append, List.foldl_cons, List.foldl_nil, e]
    refine ⟨_, restartBus_calm (hx k) free quarantine retry, fun b => ?_⟩
    rw [tabGet_tabMod]
    by_cases h : b = k
    · rw [if_pos h, h]
    · rw [if_neg h, hx]

/-- The RELEASE ALL orders of the first shelves' start-up release (R114), all finding an entry and room. -/
theorem startUpOrders_frame (hw : s.engine.waiting = []) (ho : s.engine.orders = []) (hq : s.ports.southQueue = [])
    (hb : s.ports.southBacklog = []) {k : Nat} (hk : k ≤ 16) :
    ∃ t, (List.range k).foldl (fun s n => requestOrder s (releaseAllOrder n (.startUp n))) s = t ∧
      t.engine.orders.length = k ∧
      t.ports.southQueue.map (fun c => (c.dst, payloadAt c 1)) =
        (List.range k).map (fun n => (BitVec.ofNat 8 (0x10 + n), 5#8)) ∧
      t = { s with
        ports := { s.ports with southQueue := t.ports.southQueue }
        engine := { s.engine with
          orders := t.engine.orders, candidate := t.engine.candidate, releaseAllAt := t.engine.releaseAllAt } } := by
  induction k with
  | zero => exact ⟨s, rfl, by rw [ho]; rfl, by rw [hq]; rfl, rfl⟩
  | succ k ih =>
    obtain ⟨t, e, len, cells, frame⟩ := ih (by omega)
    rw [List.range_succ, List.foldl_append, List.foldl_cons, List.foldl_nil, e]
    have waiting : t.engine.waiting = [] := (congrArg (·.engine.waiting) frame).trans hw
    have backlog : t.ports.southBacklog = [] := (congrArg (·.ports.southBacklog) frame).trans hb
    have room : t.ports.southQueue.length = k := by
      have := congrArg List.length cells
      simpa only [List.length_map, List.length_range] using this
    refine ⟨_, (requestOrder_places _ (by omega) waiting).trans
      (placeOrder_releaseAll _ (by omega) (by omega) backlog rfl), ?_, ?_, ?_⟩
    · show (t.engine.orders ++ [_]).length = k + 1
      rw [List.length_append, len, List.length_singleton]
    · show (t.ports.southQueue ++ [_]).map _ = _
      rw [List.map_append, cells, List.map_append]
      exact congrArg (fun c => _ ++ [c]) (Prod.ext rfl rfl)
    · rw [frame]
      rfl

/-- With no session running and no bus held the engine's restart begins the start-up release alone (R114, R117, R118). -/
theorem engineRestart_quiet (hs : ∀ id, sessionAt s id = none) (hb : ∀ b, (busAt s b).state = .free ∧
    (busAt s b).holder = .none ∧ (busAt s b).quarantine = none ∧ (busAt s b).retry = none)
    (hq : s.ports.southQueue = []) (hl : s.ports.southBacklog = []) :
    ∃ t, engineRestart s = t ∧ (∀ b, busAt t b = busAt s b) ∧ t.engine.orders.length = 16 ∧
      t.ports.southQueue.map (fun c => (c.dst, payloadAt c 1)) =
        (List.range 16).map (fun n => (BitVec.ofNat 8 (0x10 + n), 5#8)) ∧
      t = { s with
        ports := { s.ports with southQueue := t.ports.southQueue }
        engine := { s.engine with
          buses := t.engine.buses, orders := t.engine.orders, waiting := [], candidate := t.engine.candidate
          releaseAllAt := t.engine.releaseAllAt, startUp := List.range 16 }
        meas := { s.meas with windows := [], collectors := [] } } := by
  let emptied : State := { s with
    engine := { s.engine with orders := [], waiting := [], startUp := [] }
    meas := { s.meas with windows := [], collectors := [] } }
  have noCleanUp : cleanUpsInProgress s = [] := by
    refine List.filterMap_eq_nil_iff.2 fun b _ => if_neg ?_
    rw [(hb b).2.1]
    exact nofun
  have noSession : (List.range Config.sessionPlaces).foldl (restartSession s.engine s.meas) emptied = emptied := by
    induction List.range Config.sessionPlaces with
    | nil => rfl
    | cons id rest ih =>
      have free : restartSession s.engine s.meas emptied id = emptied := by
        simp only [restartSession, show sessionAt emptied id = none from hs id]
      rw [List.foldl_cons, free, ih]
  obtain ⟨x, buses, kept⟩ := busesRestart_frame (s := emptied) (fun b => ⟨(hb b).1, (hb b).2.2⟩) 4
  obtain ⟨t, orders, len, cells, frame⟩ := startUpOrders_frame (s := { emptied with engine := { emptied.engine with
    buses := x, startUp := List.range 16 } }) rfl rfl hq hl (k := 16) (by omega)
  have run : engineRestart s = t := by
    rw [← orders]
    show beginStartUp ((List.range 4).foldl restartBus ((cleanUpsInProgress s).foldl requestOrder
      ((List.range Config.sessionPlaces).foldl (restartSession s.engine s.meas) emptied))) = _
    rw [noSession, noCleanUp, List.foldl_nil, buses]
    rfl
  have same : t.engine.buses = x := congrArg (·.engine.buses) frame
  refine ⟨t, run, fun b => ?_, len, cells, ?_⟩
  · rw [show busAt t b = tabGet busZero x b from congrArg (tabGet busZero · b) same, kept]
    rfl
  · rw [same]
    exact frame

/-- With no session running every result slot is FREE after warm restart (R209). -/
theorem restartSlot_free (hs : ∀ id, sessionAt s id = none) (n : Nat) : restartSlot s n = .free := by
  have none : liveSessions s = [] := by
    refine List.filterMap_eq_nil_iff.2 fun id _ => ?_
    rw [hs id]
    rfl
  refine if_neg fun h => ?_
  rw [slotKept, none] at h
  exact absurd h.2 nofun

/-- The result slots after warm restart (R209). -/
def slotsRestarted (s : State) : Tab Slot :=
  (List.range Config.resultSlots).foldl (fun t n => tabPut .free t n (restartSlot s n)) s.interp.slots

/-- The part with its interpreter restarted, no unit having asked for notices (R209). -/
def interpreterRestarted (s : State) : State :=
  { s with
    interp := { s.interp with
      pace := .running 1, assemblies := [], slots := slotsRestarted s, units := [], fillingOrder := [] }
    arbiter := recordReturn s.arbiter }

theorem interpreterRestarted_eq (hn : s.interp.units = []) :
    onArbiter (interpRestart s) recordReturn = interpreterRestarted s := by
  have units : (List.range 9).foldl
      (fun t u => tabMod unitZero t u (fun x => { x with pending := [], resync := false })) [] = [] := by decide
  simp only [interpRestart, onInterp, hn, units]
  rfl

/-- Without notices or waiting reports the restart up to the queue's emptying tells no unit and offers no report. -/
theorem restartedQueue_quiet (hn : s.interp.units = []) :
    ∃ x, restartedQueue s [] = { interpreterRestarted s with
      tracker := { s.tracker with shelves := x }, arbiter := { recordReturn s.arbiter with queue := [] } } := by
  obtain ⟨x, shelves⟩ := startLostAudits_frame (interpreterRestarted s)
  refine ⟨x, ?_⟩
  simp only [restartedQueue, reofferTestBlocks, List.foldl_nil, interpreterRestarted_eq hn]
  rw [notify_none _ rfl, shelves]
  rfl

/-- With no session running every result slot is FREE after warm restart (R209). -/
theorem slotsRestarted_free (hs : ∀ id, sessionAt s id = none) {n : Nat} (hn : n < 32) :
    tabGet Slot.free (slotsRestarted s) n = .free :=
  ((tabGet_putAll _ _ _ _ _).trans (if_pos (List.mem_range.2 hn))).trans (restartSlot_free hs n)

/-- The part with the warm restart's RESPONSE alone in the ports (R21). -/
def portsEmptied (s : State) (answer : Cell) : State :=
  { s with ports := { portsRestart s.ports with normal := [answer] } }

/-- RESTART whose group is held makes the warm restart (R63, R209). -/
theorem takeCommand_restart {src : Octet} {tag : Half} (hr : 1 ≤ normalRoom s) (hg : holdsGroup s src .service = true) :
    takeCommand s src tag .restart = takeRestart s src tag := by
  have room : ¬ normalRoom s < answerPlaces (commandCode .restart) := Nat.not_lt.2 hr
  rw [takeCommand, if_neg room, if_pos ⟨rfl, hg⟩]

/-- The RESPONSE of an answer without data (section 11.6). -/
theorem responseCell_plain (o src : Octet) (tag : Half) (code : Octet) (r : ResponseCode) :
    responseCell o src tag code (plainAnswer r) =
      makeCell 0x52#8 o src (octets2 tag.toNat ++ [code, responseCode r, 0#8]) := by
  simp only [responseCell, plainAnswer, List.append_nil]
  rfl

/-- Settles O54, each block's restart read from its frame in the order of R209. -/
theorem restartKeepsAndEmpties : Obligations.RestartKeepsAndEmpties := by
  unfold Obligations.RestartKeepsAndEmpties
  intro s src tag ⟨⟨ha, hag⟩, hr, hg⟩ hn hu hub hs hau hd hb
  let answer := responseCell (own s) src tag 3#8 (plainAnswer .done)
  obtain ⟨shelves, queue⟩ := restartedQueue_quiet (s := portsEmptied s answer) hn
  have noReports : waitingTestBlocks s.ports = [] := by
    simp only [waitingTestBlocks, hu, hub]
    exact List.filter_eq_nil_iff.2 fun n _ => by simp
  let tabled : State := { interpreterRestarted (portsEmptied s answer) with
    tracker := { s.tracker with shelves := shelves }
    arbiter := { recordReturn s.arbiter with queue := [] }, tables := { s.tables with buffers := [] } }
  obtain ⟨x, checkers, zeroed⟩ := checkersRestart_frame (s := tabled) hd 4
  let checked : State := { tabled with meas := { s.meas with checkers := x } }
  obtain ⟨y, schedules, incomplete⟩ := schedulesRestart_frame checked
  let scheduled : State := { checked with schedules := y }
  obtain ⟨t, engine, buses, len, cells, frame⟩ := engineRestart_quiet (s := scheduled) hs hb rfl rfl
  have run : takeCommand s src tag .restart = t := by
    rw [takeCommand_restart hr hg, takeRestart, warmRestart_eq, noReports]
    show engineRestart (schedulesRestart ((List.range 4).foldl checkerRestart
      (tablesRestart (restartedQueue (portsEmptied s answer) [])))) = t
    rw [queue]
    show engineRestart (schedulesRestart ((List.range 4).foldl checkerRestart tabled)) = t
    rw [checkers]
    show engineRestart (schedulesRestart checked) = t
    rw [schedules]
    exact engine
  have step : exec (.restart src tag) s = .next t := by
    rw [exec_of_rowCommand s rfl, live_of_settled (f := fun s => takeCommand s src tag .restart) ha, run]
    show (takeCommand s src tag .restart).agenda = []
    rw [run, frame]
    exact hag
  refine ⟨t, step, ?_⟩
  rw [frame]
  have alone : answer = makeCell 0x52#8 (own s) src (octets2 tag.toNat ++ [3#8, 1#8, 0#8]) :=
    responseCell_plain ..
  refine ⟨rfl, rfl, rfl, rfl, rfl, ?_, cells, rfl, rfl, len, fun b => ⟨buses b, rfl, hs b, rfl⟩, fun h hh => ?_,
    fun n hn => slotsRestarted_free hs hn, rfl, rfl, rfl, fun n hn => ?_, rfl, rfl, rfl, rfl, rfl⟩
  · rw [← alone]
    show ({ portsRestart s.ports with normal := [answer], southQueue := t.ports.southQueue } : Ports) = _
    simp only [portsRestart, hu, hub]
  · refine (zeroed h).trans ?_
    by_cases hm : (headAt s h).mode = .hourly
    · rw [if_pos hm]
      exact if_neg fun r => r.2 hm
    · rw [if_neg hm]
      exact if_pos ⟨by omega, hm⟩
  · have run := incomplete n hn
    have config := congrArg Schedule.config run
    refine ⟨config, (congrArg Schedule.run run).trans ?_⟩
    exact runRestart_eq _

end Sys2Proof.Machine
end

section
/-! PROOFS. What a step hands on, the hook state of a line written, and the order acknowledgements of chapter 5. -/

namespace Sys2Proof.Machine
open Sys2Proof

variable {s t u : State} {i : Instr}

/-! ### Examinations handed on -/

/-- `t` comes of `s` with at most `k` examinations handed on, and no other work. -/
def Hands (k : Nat) (s t : State) : Prop := ∃ j, j ≤ k ∧ t.agenda = s.agenda ++ List.replicate j .examine

theorem Hands.of_eq (h : t.agenda = s.agenda) : Hands 0 s t := ⟨0, Nat.le_refl 0, h.trans (List.append_nil _).symm⟩

theorem Hands.refl (s : State) : Hands 0 s s := .of_eq rfl

theorem Hands.trans {j k : Nat} (h : Hands j s t) (h' : Hands k t u) : Hands (j + k) s u := by
  obtain ⟨a, ha, ea⟩ := h
  obtain ⟨b, hb, eb⟩ := h'
  refine ⟨a + b, by omega, ?_⟩
  rw [eb, ea, List.append_assoc, List.replicate_append_replicate]

theorem Hands.mono {j k : Nat} (h : Hands j s t) (hk : j ≤ k) : Hands k s t :=
  let ⟨a, ha, ea⟩ := h
  ⟨a, ha.trans hk, ea⟩

theorem hands_examineLater (s : State) : Hands 1 s (examineLater s) := ⟨1, Nat.le_refl 1, rfl⟩

/-- A delivery that hands on a few examinations of an empty queue, or outside IN_SERVICE, leaves no work. -/
theorem exec_of_examined {p : Side} {c : Cell} {k : Nat} (h : rowCell i = some (p, c)) (ha : Awake s)
    (hd : deliverCell s p c = t) (hands : Hands k s t) (hk : k ≤ 16)
    (hq : t.arbiter.queue = [] ∨ t.arbiter.service ≠ .inService) :
    exec i s = .next { t with agenda := s.agenda } := by
  subst hd
  obtain ⟨j, hj, agenda⟩ := hands
  rw [ha.2, List.nil_append] at agenda
  rw [exec_of_rowCell s h, onLink_of_awake _ _ _ ha.1,
    live_of_examine (f := fun s => deliverCell s p c) j (by unfold settleFuel; omega) ha.1 agenda hq, ha.2]

/-! ### The hook state of a line (R24, R120) -/

/-- A window as the ringing count of a shelf rises to `r` (R120). -/
def followedWindow (n r : Nat) (w : Window) : Window :=
  if w.line / 256 = n ∧ w.kind ≠ .settling then { w with ringingMax := max w.ringingMax r } else w

/-- One bus's window follows the ringing count of a shelf. -/
def followOne (n : Nat) (s : State) (b : Nat) : State :=
  match windowAt s b with
  | some w =>
    if lineShelf w.line = n ∧ w.kind ≠ .settling then
      putWindow s b (some { w with ringingMax := max w.ringingMax (shelfAt s n).ringing })
    else s
  | none => s

theorem followRinging_eq (s : State) (n : Nat) : followRinging s n = (List.range 4).foldl (followOne n) s := rfl

theorem followOne_frame (s : State) (n b : Nat) :
    ∃ x, followOne n s b = { s with meas := { s.meas with windows := x } } ∧
      ∀ k, tabGet none x k =
        if k = b then (windowAt s b).map (followedWindow n (shelfAt s n).ringing) else windowAt s k := by
  have kept {w : Option Window} (hw : windowAt s b = w) (k : Nat) : windowAt s k = if k = b then w else windowAt s k := by
    by_cases hk : k = b
    · rw [if_pos hk, hk, hw]
    · rw [if_neg hk]
  cases hw : windowAt s b with
  | none => exact ⟨_, by simp only [followOne, hw], kept hw⟩
  | some w =>
    by_cases hf : w.line / 256 = n ∧ w.kind ≠ .settling
    · refine ⟨tabPut none s.meas.windows b (some (followedWindow n (shelfAt s n).ringing w)), ?_,
        fun k => tabGet_tabPut ..⟩
      simp only [followOne, hw, followedWindow, lineShelf, hf, ne_eq, not_false_eq_true, and_self, if_true]
      rfl
    · refine ⟨s.meas.windows, ?_, ?_⟩
      · simp only [followOne, hw, lineShelf, hf, if_false]
      · rw [Option.map_some, followedWindow, if_neg hf]
        exact kept hw

theorem followRinging_frame (s : State) (n : Nat) :
    ∃ x, followRinging s n = { s with meas := { s.meas with windows := x } } ∧
      ∀ b, tabGet none x b =
        (windowAt s b).map (fun w => if b < 4 then followedWindow n (shelfAt s n).ringing w else w) := by
  have upTo (k : Nat) : ∃ x, (List.range k).foldl (followOne n) s = { s with meas := { s.meas with windows := x } } ∧
      ∀ b, tabGet none x b =
        (windowAt s b).map (fun w => if b < k then followedWindow n (shelfAt s n).ringing w else w) := by
    induction k with
    | zero => exact ⟨_, rfl, fun b => by simp only [Nat.not_lt_zero, if_false, Option.map_id']; rfl⟩
    | succ k ih =>
      obtain ⟨x, e, hx⟩ := ih
      obtain ⟨y, f, hy⟩ := followOne_frame { s with meas := { s.meas with windows := x } } n k
      rw [List.range_succ, List.foldl_append, List.foldl_cons, List.foldl_nil, e, f]
      refine ⟨y, rfl, fun b => (hy b).trans ?_⟩
      have here (b : Nat) : windowAt { s with meas := { s.meas with windows := x } } b = _ := hx b
      rw [here, here]
      by_cases hb : b = k
      · subst hb
        rw [if_pos rfl]
        simp only [Nat.lt_irrefl, if_false, Nat.lt_succ_self, if_true, Option.map_id']
        rfl
      · simp only [hb, if_false, Nat.lt_succ_iff_lt_or_eq, or_false]
  rw [followRinging_eq]
  exact upTo 4

/-- `t` comes of `s` by the line `len` becoming `l`, its shelf's counts and windows following it. -/
structure HookWritten (s t : State) (len : Nat) (l : Line) : Prop where
  line : lineOf t len = l
  others : ∀ k, k ≠ len → lineOf t k = lineOf s k
  shelf : ∀ k, shelfAt t k = if k = len / 256 then { shelfAt s (len / 256) with
      ringing := hookCount t.tracker (len / 256) isRinging, offHook := hookCount t.tracker (len / 256) isOff }
    else shelfAt s k
  window : ∀ k, windowAt t k = (windowAt s k).map (fun w =>
    if k < 4 ∧ w.line / 256 = len / 256 ∧ w.kind ≠ .settling then
      { w with ringingMax := max w.ringingMax (hookCount t.tracker (len / 256) isRinging) } else w)
  listed : ∃ table v, t.tracker.lines = tabPut lineZero table len v
  frame : t = { s with
    tracker := { s.tracker with lines := t.tracker.lines, shelves := t.tracker.shelves }
    meas := { s.meas with windows := t.meas.windows }, agenda := t.agenda }

theorem hands_writeHook (s : State) (len : Nat) (h : Hook) : Hands 1 s (writeHook s len h) := by
  let counted := recountShelf (modLine s len (fun l => { l with hook := h, writtenAt := s.tracker.ageClock })) (len / 256)
  obtain ⟨x, follow, -⟩ := followRinging_frame counted (len / 256)
  have written : writeHook s len h = if (lineOf s len).hook = h then followRinging counted (len / 256)
      else examineLater (followRinging counted (len / 256)) := rfl
  rw [written, follow]
  split
  · exact (Hands.of_eq rfl).mono (Nat.zero_le 1)
  · exact hands_examineLater _

theorem hookWritten_writeHook (s : State) (len : Nat) (h : Hook) :
    HookWritten s (writeHook s len h) len { lineOf s len with hook := h, writtenAt := s.tracker.ageClock } := by
  let moved := modLine s len (fun l => { l with hook := h, writtenAt := s.tracker.ageClock })
  let counted := recountShelf moved (len / 256)
  obtain ⟨x, follow, windows⟩ := followRinging_frame counted (len / 256)
  let followed : State := { counted with meas := { counted.meas with windows := x } }
  have written : writeHook s len h = if (lineOf s len).hook = h then followRinging counted (len / 256)
      else examineLater (followRinging counted (len / 256)) := rfl
  have line (k : Nat) : lineOf moved k = if k = len then _ else lineOf s k := lineOf_modLine ..
  have shelf (k : Nat) : shelfAt counted k = if k = len / 256 then _ else shelfAt moved k := shelfAt_modShelf ..
  have done : HookWritten s followed len { lineOf s len with hook := h, writtenAt := s.tracker.ageClock } := {
    line := (line len).trans (if_pos rfl)
    others := fun k hk => (line k).trans (if_neg hk)
    shelf := shelf
    window := fun k => by
      rw [show windowAt followed k = tabGet none x k from rfl, windows k, shelf, if_pos rfl]
      simp only [ite_and, followedWindow]
      rfl
    listed := ⟨_, _, rfl⟩
    frame := rfl }
  rw [written, follow]
  split
  · exact done
  · exact ⟨done.line, done.others, done.shelf, done.window, done.listed, rfl⟩

/-- A hook state written behind another for the same line, no window being open: the later one stands. -/
theorem HookWritten.over {p : Ports} {len : Nat} {l l' : Line} (h : HookWritten s t len l)
    (h' : HookWritten { t with ports := p } u len l') (hw : ∀ k, windowAt s k = none) :
    HookWritten { s with ports := p } u len l' where
  line := h'.line
  others := fun k hk => (h'.others k hk).trans (h.others k hk)
  shelf := fun k => by
    have first (k : Nat) : shelfAt { t with ports := p } k = _ := h.shelf k
    rw [h'.shelf k, first, first, if_pos rfl]
    by_cases hk : k = len / 256
    · rw [if_pos hk, if_pos hk]; rfl
    · rw [if_neg hk, if_neg hk, if_neg hk]; rfl
  window := fun k => by
    have closed : windowAt { t with ports := p } k = _ := h.window k
    rw [h'.window k, closed, show windowAt { s with ports := p } k = none from hw k, hw k]
    rfl
  listed := h'.listed
  frame := by
    rw [h'.frame, h.frame]

/-- The line and its counts before the acknowledged release, the cut-off not read by them. -/
theorem hookWritten_cleared (s : State) (len : Nat) (h : Hook) :
    HookWritten s (writeHook (modLine s len (fun l => { l with cutOff := false })) len h) len
      { lineOf s len with cutOff := false, hook := h, writtenAt := s.tracker.ageClock } := by
  let cleared := modLine s len (fun l => { l with cutOff := false })
  have line (k : Nat) : lineOf cleared k = if k = len then _ else lineOf s k := lineOf_modLine ..
  have written := hookWritten_writeHook cleared len h
  exact {
    line := written.line.trans (by rw [line, if_pos rfl]; rfl)
    others := fun k hk => (written.others k hk).trans ((line k).trans (if_neg hk))
    shelf := written.shelf
    window := written.window
    listed := written.listed
    frame := written.frame }

theorem joinSouth_lineOrder {c : Cell} (hk : c.kind = 0x12#8) :
    joinSouth s c = { s with ports := { s.ports with southQueue := s.ports.southQueue ++ [c] } } := by
  simp only [joinSouth, hk]
  rfl

section
variable {len : Nat} {h : Hook} {held : Option Cell} (hq : s.ports.southQueue.length ≤ 30)
  (hb : s.ports.southBacklog = [])

/-- The hook write of an acknowledged release, before a held ring order. -/
def released (s : State) (len : Nat) (h : Hook) : State :=
  writeHook (modLine s len (fun l => { l with cutOff := false })) len h

include hq hb

/-- A held ring order joins and rings the line (R38). -/
theorem accessReleased_held {c : Cell} (hk : c.kind = 0x12#8) : accessReleased s len h (some c) = writeHook
    { released s len h with ports := { s.ports with southQueue := s.ports.southQueue ++ [c] } } len .ringing := by
  have ports : (released s len h).ports = s.ports := congrArg (·.ports) (hookWritten_cleared s len h).frame
  have joins := offerSouth_joins (s := released s len h) c (by rw [ports]; omega) (by rw [ports, hb])
  rw [joinSouth_lineOrder hk, ports] at joins
  rw [← joins]
  rfl

variable (hk : ∀ c, held = some c → c.kind = 0x12#8)

include hk

/-- The ACCESS RELEASE of a line acknowledged: the cut-off is cleared, the hook state written, and a held ring order
joins the South queue, ringing the line (R38). -/
theorem hookWritten_accessReleased (hw : held = none ∨ ∀ k, windowAt s k = none) :
    HookWritten { s with ports := { s.ports with southQueue := s.ports.southQueue ++ held.toList } }
      (accessReleased s len h held) len { lineOf s len with
        cutOff := false, hook := if held = none then h else .ringing, writtenAt := s.tracker.ageClock } := by
  have written : HookWritten s (released s len h) len _ := hookWritten_cleared s len h
  cases held with
  | none =>
    rw [Option.toList_none, List.append_nil]
    exact written
  | some c =>
    rw [accessReleased_held hq hb (hk c rfl)]
    have clock : (released s len h).tracker.ageClock = s.tracker.ageClock := congrArg (·.tracker.ageClock) written.frame
    have rung : ({ lineOf (released s len h) len with
        hook := .ringing, writtenAt := (released s len h).tracker.ageClock } : Line) =
        { lineOf s len with cutOff := false, hook := .ringing, writtenAt := s.tracker.ageClock } := by
      rw [written.line, clock]
    rw [if_neg nofun, ← rung]
    exact written.over (hookWritten_writeHook _ len .ringing) (hw.resolve_left nofun)

theorem hands_accessReleased : Hands 2 s (accessReleased s len h held) := by
  have first : Hands 1 s (released s len h) := hands_writeHook (modLine s len _) len h
  cases held with
  | none => exact first.mono (by omega)
  | some c =>
    rw [accessReleased_held hq hb (hk c rfl)]
    let joined : State := { released s len h with ports := { s.ports with southQueue := s.ports.southQueue ++ [c] } }
    have join : Hands 0 (released s len h) joined := .of_eq rfl
    exact (first.trans join).trans (hands_writeHook joined len .ringing)

end

/-! ### An order acknowledgement (R91) -/

/-- The part with an ORDER ACK's slot given, its order not looked up. -/
def ackSlot (s : State) : State := giveSlot (runCleared s .south) .north

/-- The part with an acknowledged order's entry removed. -/
def ackTaken (s : State) (orders : List OutstandingOrder) : State :=
  { ackSlot s with engine := { s.engine with orders := orders } }

/-- The acknowledgement answers an entry: its tag, from the order's shelf, with a hook code where one is due. -/
def Answers (c : Cell) (o : OutstandingOrder) : Prop :=
  o.tag = (payloadAt c 0).toNat ∧ c.src = shelfAddress o.order.shelf ∧
    (o.order.kind = .accessRelease → (ackHook c).isSome)

theorem ackDelivered_ignored {c : Cell} (h : ∀ x ∈ s.engine.orders, ¬ Answers c x) :
    ackDelivered (runCleared s .south) c = ackSlot s := by
  have unanswered : ackedOrder (leaveSlot (runCleared s .south) .south) c = none :=
    List.find?_eq_none.2 fun x hx => by rw [decide_eq_true_eq]; exact h x hx
  simp only [ackDelivered, unanswered]
  rfl

theorem ackDelivered_taken {c : Cell} {before after : List OutstandingOrder} {o : OutstandingOrder}
    (h : s.engine.orders = before ++ o :: after) (hd : ∀ x ∈ before ++ after, x.tag ≠ o.tag) (ha : Answers c o) :
    ackDelivered (runCleared s .south) c = orderAcked (ackTaken s (before ++ after)) o.order (ackHook c) := by
  have found : ackedOrder (leaveSlot (runCleared s .south) .south) c = some o := by
    show s.engine.orders.find? _ = _
    rw [h]
    exact find_order (decide_eq_true ha) fun x hx => decide_eq_false fun hx' =>
      hd x (List.mem_append_left _ hx) (hx'.1.trans ha.1.symm)
  have rest : s.engine.orders.filter (fun x => x.tag ≠ o.tag) = before ++ after := by
    have kept (l : List OutstandingOrder) (hl : ∀ x ∈ l, x.tag ≠ o.tag) : l.filter (fun x => x.tag ≠ o.tag) = l :=
      List.filter_eq_self.2 fun x hx => decide_eq_true (hl x hx)
    rw [h, List.filter_append, List.filter_cons_of_neg (by simp), ← List.filter_append, kept _ hd]
  have removed : removeOrder (leaveSlot (runCleared s .south) .south) o.tag = ackTaken s (before ++ after) :=
    congrArg (fun l => { ackSlot s with engine := { s.engine with orders := l } }) rest
  simp only [ackDelivered, found, removed]

theorem exec_orderAck {c : Cell} {k : Nat} (h : OwnArrives s .south c) (hk : c.kind = 0x22#8)
    (hd : ackDelivered (runCleared s .south) c = t) (hands : Hands k s t) (hle : k ≤ 16)
    (hq : t.arbiter.queue = [] ∨ t.arbiter.service ≠ .inService) :
    exec (.orderAck c) s = .next { t with agenda := s.agenda } := by
  obtain ⟨ha, hs, hg, hdst⟩ := h
  have kind : dispositionOf (own s) .south c = .orderAck :=
    (dispositionOf_own hg (by rw [hk]; decide) hdst).trans (by rw [hk]; rfl)
  exact exec_of_examined rfl ha ((deliverCell_good hs hg).trans (kind ▸ hd)) hands hle hq

end Sys2Proof.Machine
end

section
/-! PROOFS. A bus and riser freed, a session's request returned, and O55. -/

namespace Sys2Proof.Machine
open Sys2Proof

variable {s t u : State} {i : Instr}

/-! ### A riser and a bus are freed (R98, R99, R106) -/

/-- `t` comes of `s` by the riser of shelf `n` and bus `b` becoming FREE, a running quarantine being kept. -/
structure Freed (s t : State) (n b : Nat) : Prop where
  bus : busAt t b = { busAt s b with
    state := if (busAt s b).quarantine.isSome then .quarantine else .free, holder := .none }
  buses : ∀ k, k ≠ b → busAt t k = busAt s k
  riser : riserAt t n = .free
  risers : ∀ k, k ≠ n → riserAt t k = riserAt s k
  hands : Hands 2 s t
  frame : t = { s with
    engine := { s.engine with buses := t.engine.buses, risers := t.engine.risers }, agenda := t.agenda }

/-- A riser's part of the clean-up: FREE, and an examination if it was not. -/
theorem freeRiser_frame (s : State) (n : Nat) : ∃ x, ∃ j ≤ 1, freeRiser s n = { s with
    engine := { s.engine with risers := x }, agenda := s.agenda ++ List.replicate j .examine } ∧
    ∀ k, tabGet Riser.free x k = if k = n then .free else riserAt s k := by
  by_cases h : riserAt s n = .free
  · refine ⟨s.engine.risers, 0, by omega, ?_, fun k => ?_⟩
    · rw [freeRiser, if_pos h, List.replicate_zero, List.append_nil]
    · by_cases hk : k = n
      · rw [if_pos hk, hk]; exact h
      · rw [if_neg hk]; rfl
  · exact ⟨_, 1, by omega, if_neg h, fun k => tabGet_tabPut ..⟩

/-- A bus that was ATTACHED becomes FREE without a notice (R88). -/
theorem setBusState_freed {b : Nat} (h : (busAt s b).state = .attached) :
    setBusState s b .free = examineLater (modBus s b (fun x => { x with state := .free })) := by
  simp only [setBusState, h]
  rfl

/-- A bus's part: without a holder, and FREE unless its quarantine timer runs (R106). -/
theorem busReleased_frame {b : Nat} (hr : (busAt s b).removePending = false)
    (hs : (busAt s b).state = if (busAt s b).quarantine.isSome then .quarantine else .attached) :
    ∃ x, ∃ j ≤ 1, busReleased s b = { s with
      engine := { s.engine with buses := x }, agenda := s.agenda ++ List.replicate j .examine } ∧
      ∀ k, tabGet busZero x k = if k = b then { busAt s b with
        state := if (busAt s b).quarantine.isSome then .quarantine else .free, holder := .none } else busAt s k := by
  let held := modBus s b (fun x => { x with holder := .none })
  have bus (k : Nat) : busAt held k = if k = b then { busAt s b with holder := .none } else busAt s k := busAt_modBus ..
  have here : busAt held b = { busAt s b with holder := .none } := (bus b).trans (if_pos rfl)
  cases hq : (busAt s b).quarantine.isSome with
  | true =>
    rw [hq, if_pos rfl] at hs
    refine ⟨_, 0, by omega, (if_pos (by rw [here, hq])).trans ?_, fun k => (bus k).trans ?_⟩
    · rw [List.replicate_zero, List.append_nil]; rfl
    · rw [if_pos rfl, ← hs]
  | false =>
    rw [hq, if_neg nofun] at hs
    have pending : ¬ (busAt held b).removePending = true := by rw [here, hr]; exact nofun
    have free : busReleased s b = busToFree held b := if_neg (by rw [here, hq]; exact nofun)
    have attached : (busAt held b).state = .attached := by rw [here, hs]
    rw [free, busToFree, if_neg pending, setBusState_freed attached]
    have freed (k : Nat) : busAt (modBus held b (fun x => { x with state := .free })) k =
        if k = b then { busAt held b with state := .free } else busAt held k := busAt_modBus ..
    refine ⟨_, 1, by omega, rfl, fun k => (freed k).trans ?_⟩
    by_cases hk : k = b
    · rw [if_pos hk, if_pos hk, here]; rfl
    · rw [if_neg hk, if_neg hk, bus, if_neg hk]

theorem freed_busReleased {n b : Nat} (hr : (busAt s b).removePending = false)
    (hs : (busAt s b).state = if (busAt s b).quarantine.isSome then .quarantine else .attached) :
    Freed s (busReleased (freeRiser s n) b) n b := by
  obtain ⟨x, j, hj, e, hx⟩ := freeRiser_frame s n
  rw [e]
  obtain ⟨y, k, hk, f, hy⟩ := busReleased_frame (s := { s with
    engine := { s.engine with risers := x }, agenda := s.agenda ++ List.replicate j .examine }) hr hs
  rw [f]
  exact {
    bus := (hy b).trans (if_pos rfl)
    buses := fun k hk => (hy k).trans (if_neg hk)
    riser := (hx n).trans (if_pos rfl)
    risers := fun k hk => (hx k).trans (if_neg hk)
    hands := ⟨j + k, by omega, by rw [← List.replicate_append_replicate, ← List.append_assoc]⟩
    frame := rfl }

/-! ### A session's request returned (R83) -/

/-- Without URGENT cells a TEST BLOCK report joins the queue (R15, R40). -/
theorem offerTestBlock_alone (len : Nat) (b : Bool) (hu : s.ports.urgent = []) (hb : s.ports.urgentBacklog = []) :
    offerTestBlock s len b = { modLine s len (fun l => { l with blocked := b }) with
      ports := { s.ports with urgent := [testBlockCell (own s) len b] } } := by
  simp [offerTestBlock, offerUrgent, hu, hb, Config.urgentCapacity, onPorts, own]

/-- What the synthesised report is read from does not hold the block value (R41). -/
theorem synthesisedReport_blocked (l : Line) (b : Bool) :
    synthesisedReport { l with blocked := b } = synthesisedReport l := rfl

/-- The part with a line's mark FREE and its UNBLOCKED report alone in the URGENT queue. -/
def unblockedAlone (s : State) (len : Nat) : State :=
  { modLine (writeMark s len .free) len (fun l => { l with blocked := false }) with
    ports := { s.ports with urgent := [testBlockCell (own s) len false] } }

theorem lineOf_unblockedAlone (s : State) (len k : Nat) :
    lineOf (unblockedAlone s len) k = if k = len then { lineOf s len with blocked := false } else lineOf s k := by
  refine (lineOf_modLine (s := writeMark s len .free) len k _).trans ?_
  rw [lineOf_writeMark, lineOf_writeMark, if_pos rfl]
  by_cases hk : k = len
  · rw [if_pos hk, if_pos hk]
  · rw [if_neg hk, if_neg hk, if_neg hk]

theorem unblockedAlone_frame (s : State) (len : Nat) : ∃ l m, unblockedAlone s len = { s with
      ports := { s.ports with urgent := [testBlockCell (own s) len false] }
      tracker := { s.tracker with lines := l }, arbiter := { s.arbiter with marks := m } } ∧
    (∀ k, tabGet lineZero l k = if k = len then { lineOf s len with blocked := false } else lineOf s k) ∧
    ∀ k, tabGet Mark.free m k = if k = len then .free else markOf s k :=
  ⟨_, _, rfl, lineOf_unblockedAlone s len, fun k => markOf_writeMark s len k .free⟩

/-- A line's mark becomes FREE, no URGENT cell waiting and no report being synthesised: UNBLOCKED joins (R40, R41). -/
theorem setMark_unblocked {len : Nat} {synth : Bool} (hm : markOf s len ≠ .free) (hu : s.ports.urgent = [])
    (hb : s.ports.urgentBacklog = []) (hs : synth = false ∨ synthesisedReport (lineOf s len) = none) :
    setMark s len .free synth = examineLater (unblockedAlone s len) := by
  have alone : offerTestBlock (writeMark s len .free) len false = unblockedAlone s len :=
    offerTestBlock_alone len false hu hb
  have silent : offerUnblocked (writeMark s len .free) len synth = unblockedAlone s len := by
    simp only [offerUnblocked, alone, lineOf_unblockedAlone, if_true, synthesisedReport_blocked]
    split
    · next r hr => exact if_neg (by rw [hs.resolve_right (by rw [hr]; exact nofun)]; exact nofun)
    · rfl
  rw [setMark, if_neg fun h => hm h.1, if_pos ⟨hm, rfl⟩]
  exact congrArg examineLater silent

/-- `t` comes of `s` by the end of session `id`, of a line whose request rejoins an empty queue as `e`. -/
structure Returned (s t : State) (id : Nat) (x : Session) (e : Entry) : Prop where
  gone : sessionAt t id = none
  sessions : ∀ k, k ≠ id → sessionAt t k = sessionAt s k
  mark : markOf t x.line = .free
  marks : ∀ k, k ≠ x.line → markOf t k = markOf s k
  line : lineOf t x.line = { lineOf s x.line with blocked := false }
  lines : ∀ k, k ≠ x.line → lineOf t k = lineOf s k
  table : t.tracker.lines = (unblockedAlone s x.line).tracker.lines
  hands : Hands 3 s t
  frame : t = { s with
    ports := { s.ports with urgent := [testBlockCell (own s) x.line false] }
    tracker := { s.tracker with lines := t.tracker.lines }
    arbiter := { s.arbiter with marks := t.arbiter.marks, queue := [e] }
    engine := { s.engine with sessions := t.engine.sessions }, agenda := t.agenda }

/-- A demand request rejoins an empty queue (R83). -/
theorem giveBack_empty {e : Entry} (hq : s.arbiter.queue = []) (he : e.cls = .demand) :
    giveBack s e = examineLater { s with arbiter := { s.arbiter with queue := [e] } } := by
  simp only [giveBack, hq, List.find?_nil, isDemand, he]
  rw [if_pos (by decide), if_pos (by decide), joinQueue, hq]
  rfl

/-- How a session gives its request back, as the queue's entry. -/
def entryOf (x : Session) : Returning → Entry
  | .abandoned => returnedEntry x x.retries true
  | .failed => returnedEntry x (x.retries + 1) false

theorem returnRequest_demand {x : Session} {ret : Returning} (hx : x.cls = .demand) :
    returnRequest s x ret = giveBack s (entryOf x ret) := by
  cases ret with
  | abandoned => exact if_pos hx
  | failed => rfl

/-- A demand session without an outcome ends, its request rejoining the queue (R83). -/
theorem returned_finishSession {id : Nat} {x : Session} {synth : Bool} {ret : Returning} (hx : sessionAt s id = some x)
    (hc : x.cls = .demand) (ho : x.outcome = none) (hm : markOf s x.line ≠ .free) (hq : s.arbiter.queue = [])
    (hu : s.ports.urgent = []) (hb : s.ports.urgentBacklog = [])
    (hs : synth = false ∨ synthesisedReport (lineOf s x.line) = none) :
    Returned s (finishSession s id .free synth ret) id x (entryOf x ret) := by
  let gone := putSession s id none
  have marked : setMark gone x.line .free synth = examineLater (unblockedAlone gone x.line) :=
    setMark_unblocked (s := gone) hm hu hb hs
  have demand : (entryOf x ret).cls = .demand := by cases ret <;> exact hc
  have back := (returnRequest_demand (s := examineLater (unblockedAlone gone x.line)) hc (ret := ret)).trans
    (giveBack_empty hq demand)
  have run : finishSession s id .free synth ret = examineLater (examineLater {
      examineLater (unblockedAlone gone x.line) with
      arbiter := { (unblockedAlone gone x.line).arbiter with queue := [entryOf x ret] } }) := by
    simp only [finishSession, hx, ho]
    rw [marked]
    exact congrArg examineLater back
  obtain ⟨l, m, frame, lines, marks⟩ := unblockedAlone_frame gone x.line
  rw [run, frame]
  exact {
    gone := (sessionAt_putSession (s := s) id id none).trans (if_pos rfl)
    sessions := fun k hk => (sessionAt_putSession (s := s) id k none).trans (if_neg hk)
    mark := (marks x.line).trans (if_pos rfl)
    marks := fun k hk => (marks k).trans (if_neg hk)
    line := (lines x.line).trans (if_pos rfl)
    lines := fun k hk => (lines k).trans (if_neg hk)
    table := (congrArg (·.tracker.lines) frame).symm
    hands := ⟨3, Nat.le_refl 3, by simp only [examineLater_agenda, List.append_assoc]; rfl⟩
    frame := rfl }

end Sys2Proof.Machine
end

section
/-! PROOFS. An order acknowledgement's effect on a session, on generic states, and O55. -/

namespace Sys2Proof.Machine
open Sys2Proof

variable {s t u : State} {i : Instr}

/-! ### A session's line is cut off, its session changed -/

theorem cutLine_frame (s : State) (len : Nat) : ∃ l m, cutLine s len = { s with
      tracker := { s.tracker with lines := l }, arbiter := { s.arbiter with marks := m } } ∧
    (∀ k, tabGet lineZero l k =
      if k = len then { lineOf s len with cutOff := true, blocked := true } else lineOf s k) ∧
    ∀ k, tabGet Mark.free m k = if k = len then .inSession else markOf s k :=
  ⟨_, _, rfl, lineOf_cutLine s len, markOf_cutLine s len⟩

theorem modSession_frame {id : Nat} {x : Session} (f : Session → Session) (hx : sessionAt s id = some x) :
    ∃ e, modSession s id f = { s with engine := { s.engine with sessions := e } } ∧
      ∀ k, tabGet none e k = if k = id then some (f x) else sessionAt s k :=
  ⟨_, rfl, fun k => (sessionAt_modSession (s := s) id k f).trans (by rw [hx]; rfl)⟩

theorem modBus_frame (s : State) (b : Nat) (f : Bus → Bus) :
    ∃ y, modBus s b f = { s with engine := { s.engine with buses := y } } ∧
      ∀ k, tabGet busZero y k = if k = b then f (busAt s b) else busAt s k :=
  ⟨_, rfl, fun _ => tabGet_tabMod ..⟩

theorem putWindow_frame (s : State) (b : Nat) (v : Option Window) :
    ∃ w, putWindow s b v = { s with meas := { s.meas with windows := w } } ∧
      ∀ k, tabGet none w k = if k = b then v else windowAt s k :=
  ⟨_, rfl, fun _ => tabGet_tabPut ..⟩

/-- RISER OPERATE acknowledged and the hook test passed, the ACCESS OPERATE takes an entry (R93). -/
theorem requestAccess_placed {id : Nat} {x : Session} (hx : sessionAt s id = some x) (ht : hookTest s x = true)
    (ho : s.engine.orders.length < 16) (hw : s.engine.waiting = []) :
    requestAccess s id = placeOrder s (accessOperateOrder x.line (.session id)) := by
  have entry : orderEntryFree s = true := decide_eq_true ⟨ho, hw⟩
  simp only [requestAccess, tryAccess, hx, entry, ht, if_true]

/-- Its cell joining, the line is cut off and the session CONNECTING (R93). -/
theorem requestAccess_joins {id : Nat} {x : Session} (hx : sessionAt s id = some x) (ht : hookTest s x = true)
    (ho : s.engine.orders.length < 16) (hw : s.engine.waiting = []) (hq : s.ports.southQueue.length < 32)
    (hb : s.ports.southBacklog = []) :
    let placed := orderPlaced s (accessOperateOrder x.line (.session id))
    ∃ l m e, requestAccess s id = { placed with
        tracker := { s.tracker with lines := l }, arbiter := { s.arbiter with marks := m }
        engine := { placed.engine with sessions := e } } ∧
      (∀ k, tabGet lineZero l k =
        if k = x.line then { lineOf s x.line with cutOff := true, blocked := true } else lineOf s k) ∧
      (∀ k, tabGet Mark.free m k = if k = x.line then .inSession else markOf s k) ∧
      ∀ k, tabGet none e k = if k = id then some { x with state := .connecting } else sessionAt s k := by
  intro placed
  obtain ⟨l, m, cut, lines, marks⟩ := cutLine_frame placed x.line
  obtain ⟨e, connecting, sessions⟩ := modSession_frame (s := cutLine placed x.line)
    (fun x => { x with state := .connecting }) (hx : sessionAt (cutLine placed x.line) id = some x)
  refine ⟨l, m, e, ?_, lines, marks, sessions⟩
  rw [requestAccess_placed hx ht ho hw, placeOrder_access _ ho hq hb rfl rfl]
  exact connecting.trans (by rw [cut]; rfl)

/-! ### A window opened and its HEAD START joining (R119, R126) -/

/-- The window's silence timer starts as its HEAD START joins (R126). -/
theorem joinSouth_headStart {b tag : Nat} {w : Window} (o : Octet) (leg : Leg) (v : Int) (n m : Nat) (hb : b ≤ 3)
    (hw : windowAt s b = some w) (hwt : w.tag = tag) (ht : tag < 256) :
    joinSouth s (headStartCell o b tag leg v n m) =
      putWindow { s with ports := { s.ports with
        southQueue := s.ports.southQueue ++ [headStartCell o b tag leg v n m] } } b
        (some { w with silence := some (silenceLimit w.interval) }) := by
  generalize hc : headStartCell o b tag leg v n m = c
  have kind : c.kind = kindHeadOrder := by rw [← hc]; rfl
  have head : joinSouth s c =
      headOrderJoined { s with ports := { s.ports with southQueue := s.ports.southQueue ++ [c] } } c :=
    (if_neg (by rw [kind]; decide)).trans ((if_neg (by rw [kind]; decide)).trans (if_pos kind))
  rw [head]
  exact headOrderJoined_start hc.symm hb hw hwt ht

/-- A settling window as it is opened and its HEAD START joins (R95, R119, R126). -/
def settlingWindow (tag line interval : Nat) (leg : Leg) : Window :=
  { tag := tag, kind := .settling, leg := leg, line := line, sized := 16, interval := interval, taken := 0, sumV := 0
    sumVV := 0, sumI := 0, tail := [], lastSeq := none, lost := 0, ringingMax := 0, hazardRun := 0, belowClear := true
    atMost := false, silence := some (silenceLimit interval) }

theorem runSettling_joins {id b : Nat} {x : Session} (hx : sessionAt s id = some x) (hxb : x.bus = some b)
    (hg : x.ringGround = false) (hb3 : b ≤ 3) (ht : (busAt s b).nextTag < 256) (hq : s.ports.southQueue.length < 32)
    (hb : s.ports.southBacklog = []) :
    let tag := (busAt s b).nextTag
    let interval := (headAt s b).interval
    ∃ y w, runSettling s id = { s with
        ports := { s.ports with
          southQueue := s.ports.southQueue ++ [headStartCell (own s) b tag .tipGround 0 16 interval] }
        engine := { s.engine with buses := y }, meas := { s.meas with windows := w } } ∧
      (∀ k, tabGet busZero y k = if k = b then { busAt s b with nextTag := (tag + 1) % 256 } else busAt s k) ∧
      ∀ k, tabGet none w k = if k = b then some (settlingWindow tag x.line interval .tipGround) else windowAt s k := by
  intro tag interval
  let opening := { settlingWindow tag x.line interval .tipGround with silence := none }
  obtain ⟨y, bussed, buses⟩ := modBus_frame s b (fun y => { y with nextTag := (tag + 1) % 256 })
  obtain ⟨w, opened, windows⟩ := putWindow_frame { s with engine := { s.engine with buses := y } } b (some opening)
  have run : runSettling s id = offerSouth
      (putWindow (modBus s b (fun y => { y with nextTag := (tag + 1) % 256 })) b (some opening))
      (headStartCell (own s) b tag .tipGround 0 16 interval) := by
    simp only [runSettling, hx, hxb, hg]
    rfl
  let t : State := { s with engine := { s.engine with buses := y }, meas := { s.meas with windows := w } }
  have start := joinSouth_headStart (s := t) (tag := tag) (w := opening) (own s) .tipGround 0 16 interval hb3
    ((windows b).trans (if_pos rfl)) rfl ht
  rw [run, bussed, opened, offerSouth_joins (s := t) _ hq hb, start]
  refine ⟨y, _, rfl, buses, fun k => (tabGet_tabPut ..).trans ?_⟩
  by_cases hk : k = b
  · rw [if_pos hk, if_pos hk]; rfl
  · rw [if_neg hk, if_neg hk, windows k, if_neg hk]; rfl

/-- ACCESS OPERATE acknowledged, the shelf having no ACCESS_FAIL ticket: the line is cut off, the session SETTLING, and
its tip to ground settling window open (R94, R95). -/
theorem sessionAcked_access {id b : Nat} {x : Session} {o : Order} {h : Option Hook} (hk : o.kind = .accessOperate)
    (hx : sessionAt s id = some x) (hxb : x.bus = some b) (hf : findTicket s (.shelf o.shelf) .accessFail = none)
    (hb3 : b ≤ 3) (ht : (busAt s b).nextTag < 256) (hq : s.ports.southQueue.length < 32)
    (hb : s.ports.southBacklog = []) :
    let tag := (busAt s b).nextTag
    let interval := (headAt s b).interval
    ∃ l m e y w, sessionAcked s id x o h = { s with
        ports := { s.ports with
          southQueue := s.ports.southQueue ++ [headStartCell (own s) b tag .tipGround 0 16 interval] }
        tracker := { s.tracker with lines := l }, arbiter := { s.arbiter with marks := m }
        engine := { s.engine with buses := y, sessions := e }, meas := { s.meas with windows := w } } ∧
      (∀ k, tabGet lineZero l k =
        if k = x.line then { lineOf s x.line with cutOff := true, blocked := true } else lineOf s k) ∧
      (∀ k, tabGet Mark.free m k = if k = x.line then .inSession else markOf s k) ∧
      (∀ k, tabGet none e k = if k = id then some { x with
        state := .settling, ringGround := false, belowSoFar := true, repeated := false } else sessionAt s k) ∧
      (∀ k, tabGet busZero y k = if k = b then { busAt s b with nextTag := (tag + 1) % 256 } else busAt s k) ∧
      ∀ k, tabGet none w k = if k = b then some (settlingWindow tag x.line interval .tipGround) else windowAt s k := by
  intro tag interval
  obtain ⟨l, m, cut, lines, marks⟩ := cutLine_frame s x.line
  let settles : Session → Session := fun x => { x with
    state := .settling, ringGround := false, belowSoFar := true, repeated := false }
  let lined : State := { s with tracker := { s.tracker with lines := l }, arbiter := { s.arbiter with marks := m } }
  obtain ⟨e, settling, sessions⟩ := modSession_frame (s := lined) settles hx
  let settled : State := { lined with engine := { s.engine with sessions := e } }
  obtain ⟨y, w, window, buses, windows⟩ := runSettling_joins (s := settled) ((sessions id).trans (if_pos rfl)) hxb rfl
    hb3 ht hq hb
  have run : sessionAcked s id x o h =
      runSettling (equipmentPass (modSession (cutLine s x.line) id settles) (.shelf o.shelf) .accessFail) id := by
    simp only [sessionAcked, hk]
    rfl
  have pass : equipmentPass settled (.shelf o.shelf) .accessFail = settled := by
    have unticketed : findTicket settled (.shelf o.shelf) .accessFail = none := hf
    simp only [equipmentPass, passTicket, unticketed]
  refine ⟨l, m, e, y, w, ?_, lines, marks, sessions, buses, windows⟩
  rw [run, cut, settling, pass, window]
  rfl

/-- The next tag is read from the tag issue, the order table and the audits in flight alone (R90). -/
theorem nextOrderTag_congr (ho : t.engine.orders = s.engine.orders) (hc : t.engine.candidate = s.engine.candidate)
    (ha : ∀ n, (shelfAt t n).audit = (shelfAt s n).audit) : nextOrderTag t = nextOrderTag s := by
  have tags : outstandingTags t = outstandingTags s := by simp only [outstandingTags, ho, ha]
  rw [nextOrderTag, tags, hc, nextOrderTag]

theorem HookWritten.audit {len : Nat} {l : Line} (h : HookWritten s t len l) (n : Nat) :
    (shelfAt t n).audit = (shelfAt s n).audit := by
  rw [h.shelf]
  split
  · next hn => rw [hn]
  · rfl

theorem HookWritten.nextTag {len : Nat} {l : Line} (h : HookWritten s t len l) : nextOrderTag t = nextOrderTag s :=
  nextOrderTag_congr (congrArg (·.engine.orders) h.frame) (congrArg (·.engine.candidate) h.frame) h.audit

/-- An order placed behind a hook write is that hook write behind the order placed. -/
theorem HookWritten.placed {len : Nat} {l : Line} (o : Order) (h : HookWritten s t len l) :
    HookWritten (orderPlaced s o) (orderPlaced t o) len l where
  line := h.line
  others := h.others
  shelf := h.shelf
  window := h.window
  listed := h.listed
  frame := by
    simp only [orderPlaced, h.nextTag]
    rw [h.frame]
    rfl

/-- An order that finds an entry and room, requested behind a hook write (R98, R99). -/
theorem requestOrder_written {len : Nat} {l : Line} {o : Order} (h : HookWritten s t len l)
    (hk : o.kind ∈ [OrderKind.riserOperate, .accessRelease, .riserRelease])
    (ho : s.engine.orders.length < 16) (hw : s.engine.waiting = []) (hq : s.ports.southQueue.length < 32)
    (hb : s.ports.southBacklog = []) : requestOrder t o = orderPlaced t o := by
  have engine : t.engine = s.engine := congrArg (·.engine) h.frame
  have ports : t.ports = s.ports := congrArg (·.ports) h.frame
  rw [← engine] at ho hw
  rw [← ports] at hq hb
  exact (requestOrder_places o ho hw).trans (placeOrder_plain o ho hq hb hk)

/-- The part with a session's ACCESS RELEASE acknowledged and its held ring order joined. -/
def ringReleased (s : State) (id : Nat) (held : Option Cell) : State :=
  { modSession s id (fun x => { x with accessReleased := true, held := none }) with
    ports := { s.ports with southQueue := s.ports.southQueue ++ held.toList } }

/-- ACCESS RELEASE acknowledged: the hook state written, a held ring order joining, and the RISER RELEASE following
(R38, R98). -/
theorem sessionAcked_release {id b : Nat} {x : Session} {o : Order} {h : Hook} (hk : o.kind = .accessRelease)
    (ho : s.engine.orders.length < 16) (hw : s.engine.waiting = []) (hq : s.ports.southQueue.length ≤ 30)
    (hb : s.ports.southBacklog = []) (hb' : x.bus = some b) (hl : o.line = x.line)
    (hy : ∀ c, x.held = some c → c.kind = 0x12#8) (hwin : x.held = none ∨ ∀ k, windowAt s k = none) :
    let order := riserReleaseOrder (lineShelf x.line) b (.session id)
    HookWritten (orderPlaced (ringReleased s id x.held) order) (sessionAcked s id x o (some h)) x.line
      { lineOf s x.line with
        cutOff := false, hook := if x.held = none then h else .ringing, writtenAt := s.tracker.ageClock } ∧
    Hands 2 s (sessionAcked s id x o (some h)) := by
  intro order
  let kept := modSession s id (fun x => { x with accessReleased := true, held := none })
  have written : HookWritten (ringReleased s id x.held) (accessReleased kept x.line h x.held) x.line
      { lineOf s x.line with
        cutOff := false, hook := if x.held = none then h else .ringing, writtenAt := s.tracker.ageClock } :=
    hookWritten_accessReleased (s := kept) hq hb hy hwin
  have hands : Hands 2 s (accessReleased kept x.line h x.held) := hands_accessReleased (s := kept) hq hb hy
  have run : sessionAcked s id x o (some h) = requestOrder (accessReleased kept x.line h x.held) order := by
    simp only [sessionAcked, hk, hb', hl]
    rfl
  have queued : (s.ports.southQueue ++ x.held.toList).length < 32 := by
    cases x.held <;> simp <;> omega
  have placed := requestOrder_written (o := order) written (by simp [order, riserReleaseOrder]) ho hw queued hb
  rw [run, placed]
  exact ⟨written.placed order, hands⟩

/-- An ACCESS RELEASE of a clean-up acknowledged (R38, R99). -/
theorem cleanUpAcked_release {b : Nat} {o : Order} {h : Hook} (hk : o.kind = .accessRelease)
    (ho : s.engine.orders.length < 16) (hw : s.engine.waiting = []) (hq : s.ports.southQueue.length ≤ 30)
    (hb : s.ports.southBacklog = []) :
    let order := riserReleaseOrder o.shelf b (.cleanUp b)
    HookWritten (orderPlaced s order) (cleanUpAcked s b o (some h)) o.line
      { lineOf s o.line with cutOff := false, hook := h, writtenAt := s.tracker.ageClock } ∧
    Hands 2 s (cleanUpAcked s b o (some h)) := by
  intro order
  have written : HookWritten s (accessReleased s o.line h none) o.line
      { lineOf s o.line with cutOff := false, hook := h, writtenAt := s.tracker.ageClock } :=
    hookWritten_cleared s o.line h
  have hands : Hands 2 s (accessReleased s o.line h none) := hands_accessReleased hq hb nofun
  have run : cleanUpAcked s b o (some h) = requestOrder (accessReleased s o.line h none) order := if_pos hk
  rw [run, requestOrder_written (o := order) written (by simp [order, riserReleaseOrder]) ho hw (by omega) hb]
  exact ⟨written.placed order, hands⟩

/-- The shelf's riser release state is written, with an examination where the shelf becomes open (R32). -/
theorem setReleased_frame (s : State) (n : Nat) (v : Bool) : ∃ j ≤ 1, setReleased s n v =
    { modShelf s n (fun x => { x with released := v }) with agenda := s.agenda ++ List.replicate j .examine } := by
  let moved := modShelf s n (fun x => { x with released := v })
  by_cases h : openForAccess moved n = true ∧ openForAccess s n = false
  · exact ⟨1, Nat.le_refl 1, if_pos h⟩
  · exact ⟨0, Nat.zero_le 1, (if_neg h).trans (by rw [List.replicate_zero, List.append_nil]; rfl)⟩

/-- A shelf's start-up release is done; the last ends STARTING (R63, R114). -/
theorem startUpDone_frame {n : Nat} (h : n ∈ s.engine.startUp) : ∃ j ≤ 1, startUpDone s n = { s with
    engine := { s.engine with startUp := s.engine.startUp.filter (fun k => k ≠ n) }
    arbiter := { s.arbiter with
      service := if s.arbiter.service = .starting ∧ (∀ k ∈ s.engine.startUp, k = n) then s.arbiter.returnTo
        else s.arbiter.service }
    agenda := s.agenda ++ List.replicate j .examine } := by
  have last : s.engine.startUp.filter (fun k => k ≠ n) = [] ↔ ∀ k ∈ s.engine.startUp, k = n := by
    simp [List.filter_eq_nil_iff]
  by_cases hc : s.arbiter.service = .starting ∧ ∀ k ∈ s.engine.startUp, k = n
  · have ends := (if_pos h : startUpDone s n = _).trans (if_pos ⟨last.2 hc.2, hc.1⟩)
    rw [if_pos hc]
    by_cases hr : s.arbiter.returnTo = .inService
    · exact ⟨1, Nat.le_refl 1, ends.trans (if_pos hr)⟩
    · exact ⟨0, Nat.zero_le 1, ends.trans ((if_neg hr).trans (by rw [List.replicate_zero, List.append_nil]; rfl))⟩
  · rw [if_neg hc]
    refine ⟨0, Nat.zero_le 1, (if_pos h).trans ((if_neg fun r => hc ⟨r.2, last.1 r.1⟩).trans ?_)⟩
    rw [List.replicate_zero, List.append_nil]
    rfl

/-! ### An acknowledgement taken (R91) -/

theorem exec_ackTaken {c : Cell} {before after : List OutstandingOrder} {o : OutstandingOrder} {k : Nat}
    (h : OwnArrives s .south c) (hk : c.kind = 0x22#8) (ho : s.engine.orders = before ++ o :: after)
    (hd : ∀ x ∈ before ++ after, x.tag ≠ o.tag) (ha : Answers c o)
    (run : orderAcked (ackTaken s (before ++ after)) o.order (ackHook c) = t)
    (hands : Hands k (ackTaken s (before ++ after)) t) (hle : k ≤ 16)
    (hq : t.arbiter.queue = [] ∨ t.arbiter.service ≠ .inService) :
    exec (.orderAck c) s = .next { t with agenda := s.agenda } := by
  have agenda : Hands k s t := hands
  exact exec_orderAck h hk ((ackDelivered_taken ho hd ha).trans run) agenda hle hq

theorem ackHook_of {c : Cell} {h : Hook}
    (hc : (payloadAt c 1, h) ∈ [(1#8, Hook.idle), (2#8, .offHook), (4#8, .parked)]) : ackHook c = some h := by
  simp only [List.mem_cons, Prod.mk.injEq, List.not_mem_nil, or_false] at hc
  unfold ackHook
  obtain ⟨e, rfl⟩ | ⟨e, rfl⟩ | ⟨e, rfl⟩ := hc <;> rw [e] <;> rfl

theorem ackHook_none {c : Cell} (hc : payloadAt c 1 ∉ [1#8, 2#8, 4#8]) : ackHook c = none := by
  simp only [List.mem_cons, List.not_mem_nil, or_false, not_or] at hc
  have ne {k : Nat} (hk : payloadAt c 1 ≠ BitVec.ofNat 8 k) (h : k < 256) : (payloadAt c 1).toNat ≠ k := fun e =>
    hk (BitVec.eq_of_toNat_eq (by rw [e, BitVec.toNat_ofNat, Nat.mod_eq_of_lt h]))
  have n1 := ne hc.1 (by omega)
  have n2 := ne hc.2.1 (by omega)
  have n4 := ne hc.2.2 (by omega)
  unfold ackHook
  generalize (payloadAt c 1).toNat = m at n1 n2 n4
  match m with
  | 0 | 3 => rfl
  | 1 | 2 | 4 => contradiction
  | m + 5 => rfl

end Sys2Proof.Machine
end

section
/-! PROOFS. The order acknowledgements by owner and kind, and O55. -/

namespace Sys2Proof.Machine
open Sys2Proof

variable {s t u : State} {i : Instr}

/-! ### The cells of placed orders (section 11.5) -/

theorem orderPlaced_eq {c : Cell} {o : Order} (h : relayOrderCell (own s) (nextOrderTag s) o = c) :
    orderPlaced s o = { s with
      ports := { s.ports with southQueue := s.ports.southQueue ++ [c] }
      engine := { s.engine with
        candidate := (nextOrderTag s + 1) % 256
        orders := s.engine.orders ++ [{ tag := nextOrderTag s, order := o, timer := some 40 }] } } := by
  subst h
  rfl

/-- The RISER RELEASE of a shelf, as it is addressed to the source of a cell from there. -/
theorem relayOrderCell_riserRelease {a src : Octet} {n tag : Nat} (hc : src = BitVec.ofNat 8 (0x10 + n)) (b : Nat)
    (w : Owner) : relayOrderCell a tag (riserReleaseOrder n b w) =
      makeCell 0x21#8 a src ([BitVec.ofNat 8 tag, 4#8, BitVec.ofNat 8 b] ++ octets2 0) := by
  subst hc
  rfl

/-- The ACCESS OPERATE of a line, as it is addressed to the source of a cell from its shelf. -/
theorem relayOrderCell_access {a src : Octet} {len tag : Nat} (hc : src = BitVec.ofNat 8 (0x10 + len / 256))
    (w : Owner) : relayOrderCell a tag (accessOperateOrder len w) =
      makeCell 0x21#8 a src ([BitVec.ofNat 8 tag, 2#8, 0#8] ++ octets2 len) := by
  subst hc
  rfl

/-! ### A taken acknowledgement -/

/-- An ORDER ACK that answers the entry `o`, no request waiting. -/
structure AckArrives (s : State) (c : Cell) (before after : List OutstandingOrder) (o : OutstandingOrder) : Prop where
  arrives : OwnArrives s .south c
  kind : c.kind = 0x22#8
  orders : s.engine.orders = before ++ o :: after
  other : ∀ x ∈ before ++ after, x.tag ≠ o.tag
  answers : Answers c o
  quiet : NoRequests s

section
variable {c : Cell} {before after : List OutstandingOrder} {o : OutstandingOrder} {k : Nat}
  (h : AckArrives s c before after o)

include h

theorem AckArrives.taken (run : orderAcked (ackTaken s (before ++ after)) o.order (ackHook c) = t)
    (hands : Hands k (ackTaken s (before ++ after)) t) (hle : k ≤ 16)
    (hq : t.arbiter.queue = [] ∨ t.arbiter.service ≠ .inService) :
    exec (.orderAck c) s = .next { t with agenda := s.agenda } :=
  exec_ackTaken h.arrives h.kind h.orders h.other h.answers run hands hle hq

/-- A fresh RELEASE ALL is acknowledged (R32). -/
theorem AckArrives.freshRelease {n : Nat} (how : o.order.owner = .freshRelease n) : exec (.orderAck c) s =
    .next (modShelf (ackTaken s (before ++ after)) n (fun x => { x with released := true })) := by
  obtain ⟨j, hj, frame⟩ := setReleased_frame (ackTaken s (before ++ after)) n true
  have run : orderAcked (ackTaken s (before ++ after)) o.order (ackHook c) =
      setReleased (ackTaken s (before ++ after)) n true := by simp only [orderAcked, how]
  rw [frame] at run
  exact h.taken run (k := j) ⟨j, Nat.le_refl j, rfl⟩ (by omega) (.inl h.quiet)

/-- A RELEASE ALL of the start-up release is acknowledged; the last ends STARTING (R63, R114). -/
theorem AckArrives.startUp {n : Nat} (how : o.order.owner = .startUp n) (hn : n ∈ s.engine.startUp) :
    exec (.orderAck c) s = .next { modShelf (ackTaken s (before ++ after)) n (fun x => { x with released := true }) with
      engine := { s.engine with orders := before ++ after, startUp := s.engine.startUp.filter (fun k => k ≠ n) }
      arbiter := { s.arbiter with
        service := if s.arbiter.service = .starting ∧ (∀ k ∈ s.engine.startUp, k = n) then s.arbiter.returnTo
          else s.arbiter.service } } := by
  obtain ⟨j, hj, first⟩ := setReleased_frame (ackTaken s (before ++ after)) n true
  obtain ⟨k, hk, second⟩ := startUpDone_frame (s := setReleased (ackTaken s (before ++ after)) n true) (n := n)
    (by rw [first]; exact hn)
  have run : orderAcked (ackTaken s (before ++ after)) o.order (ackHook c) =
      startUpDone (setReleased (ackTaken s (before ++ after)) n true) n := by simp only [orderAcked, how]
  rw [second, first] at run
  exact h.taken run (k := j + k)
    ⟨j + k, Nat.le_refl _, by rw [← List.replicate_append_replicate, ← List.append_assoc]⟩ (by omega) (.inl h.quiet)

/-- The RISER RELEASE of a clean-up is acknowledged: riser and bus are FREE (R99). -/
theorem AckArrives.cleanUpDone {b n : Nat} (how : o.order.owner = .cleanUp b) (hk : o.order.kind ≠ .accessRelease)
    (hs : o.order.shelf = n) (hp : (busAt s b).removePending = false)
    (hst : (busAt s b).state = if (busAt s b).quarantine.isSome then .quarantine else .attached) :
    ∃ t, exec (.orderAck c) s = .next t ∧
      busAt t b = { busAt s b with
        state := if (busAt s b).quarantine.isSome then .quarantine else .free, holder := .none } ∧
      (∀ k, k ≠ b → busAt t k = busAt s k) ∧ riserAt t n = .free ∧ (∀ k, k ≠ n → riserAt t k = riserAt s k) ∧
      t = { ackTaken s (before ++ after) with engine := { (ackTaken s (before ++ after)).engine with
        buses := t.engine.buses, risers := t.engine.risers } } := by
  have freed := freed_busReleased (s := ackTaken s (before ++ after)) (n := n) hp hst
  have run : orderAcked (ackTaken s (before ++ after)) o.order (ackHook c) =
      busReleased (freeRiser (ackTaken s (before ++ after)) n) b := by
    simp only [orderAcked, how, cleanUpAcked, hk, if_false, hs]
  generalize busReleased (freeRiser (ackTaken s (before ++ after)) n) b = u at run freed
  have queue : u.arbiter.queue = [] := (congrArg (·.arbiter.queue) freed.frame).trans h.quiet
  refine ⟨_, h.taken run freed.hands (by omega) (.inl queue), freed.bus, freed.buses, freed.riser, freed.risers, ?_⟩
  rw [freed.frame]
  rfl

end

/-- An order finds an entry and room for itself and one cell more. -/
def AckRoom (s : State) (orders : List OutstandingOrder) : Prop :=
  orders.length < 16 ∧ s.engine.waiting = [] ∧ s.ports.southBacklog = [] ∧ s.ports.southQueue.length ≤ 30

theorem AckRoom.queue {orders : List OutstandingOrder} (h : AckRoom s orders) : s.ports.southQueue.length < 32 :=
  Nat.lt_of_le_of_lt h.2.2.2 (by omega)

/-- The engine with an acknowledged order's entry removed and the order that follows placed, with the buses and sessions
of `t`. -/
def ackEngine (s : State) (orders : List OutstandingOrder) (o : Order) (t : State) : Engine :=
  { (ackTaken s orders).engine with
    buses := t.engine.buses, sessions := t.engine.sessions
    candidate := (nextOrderTag (ackTaken s orders) + 1) % 256
    orders := orders ++ [{ tag := nextOrderTag (ackTaken s orders), order := o, timer := some 40 }] }

/-- The ports with an acknowledgement's slot given and cells at the tail of the South queue. -/
def ackPorts (s : State) (cs : List Cell) : Ports :=
  { (ackSlot s).ports with southQueue := s.ports.southQueue ++ cs }

/-- The ACCESS RELEASE of a clean-up is acknowledged, its RISER RELEASE following (R38, R99). -/
theorem AckArrives.cleanUpRelease {c : Cell} {before after : List OutstandingOrder} {o : OutstandingOrder} {b len : Nat}
    {hook : Hook} (h : AckArrives s c before after o) (hr : AckRoom s (before ++ after))
    (how : o.order.owner = .cleanUp b) (hk : o.order.kind = .accessRelease) (hl : o.order.line = len)
    (hs : o.order.shelf = len / 256) (hc : c.src = BitVec.ofNat 8 (0x10 + len / 256)) (hh : ackHook c = some hook) :
    ∃ t, exec (.orderAck c) s = .next t ∧
      lineOf t len = { lineOf s len with cutOff := false, hook := hook, writtenAt := s.tracker.ageClock } ∧
      (∀ k, k ≠ len → lineOf t k = lineOf s k) ∧
      (∀ k, shelfAt t k = if k = len / 256 then { shelfAt s (len / 256) with
          ringing := hookCount t.tracker (len / 256) isRinging, offHook := hookCount t.tracker (len / 256) isOff }
        else shelfAt s k) ∧
      (∀ k, windowAt t k = (windowAt s k).map (fun w => if k < 4 ∧ w.line / 256 = len / 256 ∧ w.kind ≠ .settling then
        { w with ringingMax := max w.ringingMax (hookCount t.tracker (len / 256) isRinging) } else w)) ∧
      t = { ackTaken s (before ++ after) with
        ports := ackPorts s [makeCell 0x21#8 (own s) c.src
          ([BitVec.ofNat 8 (nextOrderTag (ackTaken s (before ++ after))), 4#8, BitVec.ofNat 8 b] ++ octets2 0)]
        tracker := { s.tracker with lines := t.tracker.lines, shelves := t.tracker.shelves }
        engine := ackEngine s (before ++ after) (riserReleaseOrder (len / 256) b (.cleanUp b)) t
        meas := { s.meas with windows := t.meas.windows } } := by
  obtain ⟨hor, hw, hb, hq⟩ := hr
  subst hl
  obtain ⟨written, hands⟩ := cleanUpAcked_release (s := ackTaken s (before ++ after)) (b := b) (h := hook) hk hor hw hq hb
  have run : orderAcked (ackTaken s (before ++ after)) o.order (ackHook c) =
      cleanUpAcked (ackTaken s (before ++ after)) b o.order (some hook) := by simp only [orderAcked, how, hh]
  generalize cleanUpAcked (ackTaken s (before ++ after)) b o.order (some hook) = u at run written hands
  have queue : u.arbiter.queue = [] := (congrArg (·.arbiter.queue) written.frame).trans h.quiet
  refine ⟨_, h.taken run hands (by omega) (.inl queue), written.line, written.others, written.shelf, written.window, ?_⟩
  rw [written.frame, hs, orderPlaced_eq (relayOrderCell_riserRelease hc b _)]
  rfl

/-! ### The orders of a metallic session -/

/-- The step of an ORDER ACK leaves session `id` as `y`, its line as `l` with the mark `m`, and its bus as `w`, and no
other session, line, mark or bus changed. -/
def SessionBecomes (s : State) (c : Cell) (id len b : Nat) (y : Option Session) (l : Line) (m : Mark) (w : Bus) (t : State) :
    Prop :=
  exec (.orderAck c) s = .next t ∧ sessionAt t id = y ∧ (∀ k, k ≠ id → sessionAt t k = sessionAt s k) ∧
  lineOf t len = l ∧ markOf t len = m ∧ busAt t b = w ∧ (∀ k, k ≠ b → busAt t k = busAt s k) ∧
  ∀ k, k ≠ len → lineOf t k = lineOf s k ∧ markOf t k = markOf s k

section
variable {c : Cell} {before after : List OutstandingOrder} {o : OutstandingOrder} {id b : Nat} {x : Session}
  (h : AckArrives s c before after o) (how : o.order.owner = .session id) (hx : sessionAt s id = some x)

include how hx in
theorem orderAcked_session {hook : Option Hook} (hh : ackHook c = hook) :
    orderAcked (ackTaken s (before ++ after)) o.order (ackHook c) =
      sessionAcked (ackTaken s (before ++ after)) id x o.order hook := by
  simp only [orderAcked, how, show sessionAt (ackTaken s (before ++ after)) id = some x from hx, hh]

include h how hx

/-- RISER OPERATE acknowledged and the hook test passed, ACCESS OPERATE joins the South queue (R93). -/
theorem AckArrives.accessJoins (hr : AckRoom s (before ++ after)) (hk : o.order.kind = .riserOperate)
    (hc : c.src = BitVec.ofNat 8 (0x10 + x.line / 256)) (ht : hookTest s x = true) :
    ∃ t, SessionBecomes s c id x.line b (some { x with state := .connecting })
        { lineOf s x.line with cutOff := true, blocked := true } .inSession (busAt s b) t ∧
      t = { ackTaken s (before ++ after) with
        ports := ackPorts s [makeCell 0x21#8 (own s) c.src
          ([BitVec.ofNat 8 (nextOrderTag (ackTaken s (before ++ after))), 2#8, 0#8] ++ octets2 x.line)]
        tracker := { s.tracker with lines := t.tracker.lines }
        arbiter := { s.arbiter with marks := t.arbiter.marks }
        engine := ackEngine s (before ++ after) (accessOperateOrder x.line (.session id)) t } := by
  obtain ⟨l, m, e, joins, lines, marks, sessions⟩ := requestAccess_joins (s := ackTaken s (before ++ after)) hx ht hr.1
    hr.2.1 hr.queue hr.2.2.1
  have run := orderAcked_session (before := before) (after := after) how hx (rfl : ackHook c = _)
  simp only [sessionAcked, hk] at run
  refine ⟨_, ⟨h.taken (run.trans joins) (.of_eq rfl) (Nat.zero_le 16) (.inl h.quiet), (sessions id).trans (if_pos rfl),
    fun k hk => (sessions k).trans (if_neg hk), (lines x.line).trans (if_pos rfl), (marks x.line).trans (if_pos rfl), rfl,
    fun _ _ => rfl, fun k hk => ⟨(lines k).trans (if_neg hk), (marks k).trans (if_neg hk)⟩⟩, ?_⟩
  rw [orderPlaced_eq (relayOrderCell_access hc _)]
  rfl

/-- With the South queue full the ACCESS OPERATE waits in the backlog, without effect on line, mark or session (R15). -/
theorem AckArrives.accessWaits {cell : Cell} (hk : o.order.kind = .riserOperate) (hor : (before ++ after).length < 16)
    (hw : s.engine.waiting = []) (hfull : 32 ≤ s.ports.southQueue.length) (ht : hookTest s x = true)
    (hcell : relayOrderCell (own s) (nextOrderTag (ackTaken s (before ++ after)))
      (accessOperateOrder x.line (.session id)) = cell) (hm : cell ∉ s.ports.southBacklog) :
    exec (.orderAck c) s = .next { ackTaken s (before ++ after) with
      ports := { (ackSlot s).ports with southBacklog := s.ports.southBacklog ++ [cell] }
      engine := { (ackTaken s (before ++ after)).engine with
        candidate := (nextOrderTag (ackTaken s (before ++ after)) + 1) % 256
        orders := before ++ after ++ [{
          tag := nextOrderTag (ackTaken s (before ++ after))
          order := accessOperateOrder x.line (.session id), timer := none }] } } := by
  subst hcell
  let acked := ackTaken s (before ++ after)
  have waits := offerSouth_waits (s := orderEntered acked (accessOperateOrder x.line (.session id)))
    (c := relayOrderCell (own s) (nextOrderTag acked) (accessOperateOrder x.line (.session id))) (.inl hfull) hm
  have run := orderAcked_session (before := before) (after := after) how hx (rfl : ackHook c = _)
  simp only [sessionAcked, hk] at run
  exact h.taken (run.trans ((requestAccess_placed (s := acked) hx ht hor hw).trans waits)) (.of_eq rfl) (Nat.zero_le 16)
    (.inl h.quiet)

/-- ACCESS OPERATE acknowledged, the session is SETTLING, its tip to ground settling window open (R94, R95, R119). -/
theorem AckArrives.settles (hr : AckRoom s (before ++ after)) (hk : o.order.kind = .accessOperate) (hxb : x.bus = some b)
    (hb : b ≤ 3) (hf : findTicket s (.shelf o.order.shelf) .accessFail = none) (ht : (busAt s b).nextTag < 256) :
    let tag := (busAt s b).nextTag
    let interval := (headAt s b).interval
    ∃ t, SessionBecomes s c id x.line b
        (some { x with state := .settling, ringGround := false, belowSoFar := true, repeated := false })
        { lineOf s x.line with cutOff := true, blocked := true } .inSession
        { busAt s b with nextTag := (tag + 1) % 256 } t ∧
      windowAt t b = some (settlingWindow tag x.line interval .tipGround) ∧
      (∀ k, k ≠ b → windowAt t k = windowAt s k) ∧
      t = { ackTaken s (before ++ after) with
        ports := ackPorts s [headStartCell (own s) b tag .tipGround 0 16 interval]
        tracker := { s.tracker with lines := t.tracker.lines }
        arbiter := { s.arbiter with marks := t.arbiter.marks }
        engine := { (ackTaken s (before ++ after)).engine with buses := t.engine.buses, sessions := t.engine.sessions }
        meas := { s.meas with windows := t.meas.windows } } := by
  intro tag interval
  obtain ⟨l, m, e, y, w, joins, lines, marks, sessions, buses, windows⟩ := sessionAcked_access
    (s := ackTaken s (before ++ after)) (h := ackHook c) hk hx hxb hf hb ht hr.queue hr.2.2.1
  have run := (orderAcked_session how hx rfl).trans joins
  refine ⟨_, ⟨h.taken run (.of_eq rfl) (Nat.zero_le 16) (.inl h.quiet), (sessions id).trans (if_pos rfl),
    fun k hk => (sessions k).trans (if_neg hk), (lines x.line).trans (if_pos rfl), (marks x.line).trans (if_pos rfl),
    (buses b).trans (if_pos rfl), fun k hk => (buses k).trans (if_neg hk),
    fun k hk => ⟨(lines k).trans (if_neg hk), (marks k).trans (if_neg hk)⟩⟩,
    (windows b).trans (if_pos rfl), fun k hk => (windows k).trans (if_neg hk), rfl⟩

/-- ACCESS RELEASE acknowledged, the hook state is written, a held ring order joins and rings the line, and RISER RELEASE
follows (R38, R98). -/
theorem AckArrives.releases {hook : Hook} (hr : AckRoom s (before ++ after)) (hk : o.order.kind = .accessRelease)
    (hxb : x.bus = some b) (hl : o.order.line = x.line) (hc : c.src = BitVec.ofNat 8 (0x10 + x.line / 256))
    (hh : ackHook c = some hook) (hheld : ∀ y, x.held = some y → y.kind = 0x12#8)
    (hwin : x.held = none ∨ ∀ k, windowAt s k = none) :
    ∃ t, SessionBecomes s c id x.line b (some { x with accessReleased := true, held := none })
        { lineOf s x.line with
          cutOff := false, hook := if x.held = none then hook else .ringing, writtenAt := s.tracker.ageClock }
        (markOf s x.line) (busAt s b) t ∧
      (∀ k, shelfAt t k = if k = x.line / 256 then { shelfAt s (x.line / 256) with
          ringing := hookCount t.tracker (x.line / 256) isRinging, offHook := hookCount t.tracker (x.line / 256) isOff }
        else shelfAt s k) ∧
      (∀ k, windowAt t k = (windowAt s k).map (fun w =>
        if k < 4 ∧ w.line / 256 = x.line / 256 ∧ w.kind ≠ .settling then
          { w with ringingMax := max w.ringingMax (hookCount t.tracker (x.line / 256) isRinging) } else w)) ∧
      t = { ackTaken s (before ++ after) with
        ports := ackPorts s (x.held.toList ++ [makeCell 0x21#8 (own s) c.src
          ([BitVec.ofNat 8 (nextOrderTag (ackTaken s (before ++ after))), 4#8, BitVec.ofNat 8 b] ++ octets2 0)])
        tracker := { s.tracker with lines := t.tracker.lines, shelves := t.tracker.shelves }
        engine := ackEngine s (before ++ after) (riserReleaseOrder (lineShelf x.line) b (.session id)) t
        meas := { s.meas with windows := t.meas.windows } } := by
  obtain ⟨hor, hw, hback, hq⟩ := hr
  let acked := ackTaken s (before ++ after)
  obtain ⟨written, hands⟩ := sessionAcked_release (s := acked) (id := id) (h := hook) hk hor hw hq hback hxb hl hheld hwin
  have run := orderAcked_session (before := before) (after := after) how hx hh
  generalize sessionAcked acked id x o.order (some hook) = u at run written hands
  have queue : u.arbiter.queue = [] := (congrArg (·.arbiter.queue) written.frame).trans h.quiet
  have sessions (k : Nat) : sessionAt u k = if k = id then some { x with accessReleased := true, held := none }
      else sessionAt s k := by
    rw [written.frame]
    exact (sessionAt_modSession (s := acked) id k _).trans (by rw [show sessionAt acked id = some x from hx]; rfl)
  refine ⟨_, ⟨h.taken run hands (by omega) (.inl queue), (sessions id).trans (if_pos rfl),
    fun k hk => (sessions k).trans (if_neg hk), written.line, ?_, ?_, ?_, fun k hk => ⟨written.others k hk, ?_⟩⟩,
    written.shelf, written.window, ?_⟩
  all_goals rw [written.frame]
  · rfl
  · rfl
  · exact fun _ _ => rfl
  · rfl
  · have tag : nextOrderTag (ringReleased acked id x.held) = nextOrderTag acked := nextOrderTag_congr rfl rfl fun _ => rfl
    have cells (c : Cell) : (ringReleased acked id x.held).ports.southQueue ++ [c] =
        s.ports.southQueue ++ (x.held.toList ++ [c]) := List.append_assoc ..
    rw [orderPlaced_eq (relayOrderCell_riserRelease (n := lineShelf x.line) hc b _), tag, cells]
    rfl

/-- RISER RELEASE acknowledged, riser and bus are FREE and a demand session without an outcome ends, its request rejoining
the queue with one more retry (R83, R98, R100, R106). -/
theorem AckArrives.ends (hk : o.order.kind = .riserRelease) (hs : o.order.shelf = x.line / 256) (hb : o.order.bus = b)
    (hsv : s.arbiter.service ≠ .inService) (hcl : x.cls = .demand) (hout : x.outcome = none)
    (hm : markOf s x.line ≠ .free) (hl : synthesisedReport (lineOf s x.line) = none) (hu : s.ports.urgent = [])
    (hub : s.ports.urgentBacklog = [])
    (hst : (busAt s b).state = if (busAt s b).quarantine.isSome then .quarantine else .attached)
    (hrp : (busAt s b).removePending = false) :
    ∃ t, SessionBecomes s c id x.line b none { lineOf s x.line with blocked := false } .free
        { busAt s b with
          state := if (busAt s b).quarantine.isSome then .quarantine else .free, holder := .none } t ∧
      riserAt t (x.line / 256) = .free ∧ (∀ k, k ≠ x.line / 256 → riserAt t k = riserAt s k) ∧
      t = { ackTaken s (before ++ after) with
        ports := { (ackSlot s).ports with urgent := [testBlockCell (own s) x.line false] }
        tracker := { s.tracker with lines := t.tracker.lines }
        arbiter := { s.arbiter with marks := t.arbiter.marks, queue := [{ returnedEntry x (x.retries + 1) false with cls := .demand }] }
        engine := { (ackTaken s (before ++ after)).engine with
          buses := t.engine.buses, risers := t.engine.risers, sessions := t.engine.sessions } } := by
  let acked := ackTaken s (before ++ after)
  have freed := freed_busReleased (s := acked) (n := x.line / 256) (b := b) hrp hst
  have run := orderAcked_session (before := before) (after := after) how hx (rfl : ackHook c = _)
  simp only [sessionAcked, hk, hs, hb] at run
  generalize busReleased (freeRiser acked (x.line / 256)) b = v at freed run
  have line (k : Nat) : lineOf v k = lineOf s k := by rw [freed.frame]; rfl
  have mark (k : Nat) : markOf v k = markOf s k := by rw [freed.frame]; rfl
  have session (k : Nat) : sessionAt v k = sessionAt s k := by rw [freed.frame]; rfl
  have ended := returned_finishSession (synth := true) (ret := .failed) ((session id).trans hx) hcl hout
    ((mark x.line).symm ▸ hm) (by rw [freed.frame]; exact h.quiet) (by rw [freed.frame]; exact hu)
    (by rw [freed.frame]; exact hub) (.inr ((line x.line).symm ▸ hl))
  generalize finishSession v id .free true .failed = u at run ended
  have bus (k : Nat) : busAt u k = busAt v k := by rw [ended.frame]; rfl
  have riser (k : Nat) : riserAt u k = riserAt v k := by rw [ended.frame]; rfl
  have service : u.arbiter.service = s.arbiter.service := by rw [ended.frame, freed.frame]; rfl
  refine ⟨_, ⟨h.taken run (freed.hands.trans ended.hands) (by omega) (.inr (service ▸ hsv)), ended.gone,
    fun k hk => (ended.sessions k hk).trans (session k), ended.line.trans (by rw [line]), ended.mark,
    (bus b).trans freed.bus, fun k hk => (bus k).trans (freed.buses k hk),
    fun k hk => ⟨(ended.lines k hk).trans (line k), (ended.marks k hk).trans (mark k)⟩⟩,
    (riser _).trans freed.riser, fun k hk => (riser k).trans (freed.risers k hk), ?_⟩
  rw [ended.frame, freed.frame, ← hcl]
  rfl

end

/-- Settles O55, by the owner and the kind of the order an acknowledgement answers. -/
theorem orderAckTaken : Obligations.OrderAckTaken := by
  unfold Obligations.OrderAckTaken
  intro s c before after o n h hq hk ho hn hd hs ignored freed
  have ignore (hx : ∀ x ∈ s.engine.orders, ¬ Answers c x) : exec (.orderAck c) s = .next ignored :=
    exec_orderAck h hk (ackDelivered_ignored hx) (.of_eq rfl) (Nat.zero_le 16) (.inl hq)
  have arrives (hc : c.src = BitVec.ofNat 8 (0x10 + n)) (ht : (payloadAt c 0).toNat = o.tag)
      (hh : o.order.kind = .accessRelease → (ackHook c).isSome) : AckArrives s c before after o :=
    ⟨h, hk, ho, hd, ⟨ht.symm, hs ▸ hc, hh⟩, hq⟩
  have plain {k : OrderKind} (hrel : o.order.kind = k) (hne : k ≠ .accessRelease) (e : o.order.kind = .accessRelease) :
      (ackHook c).isSome := absurd (hrel.symm.trans e) hne
  refine ⟨fun hc ht hrel => ?_, fun hno => ignore fun x hx ha => ?_, fun ht hrel hp => ignore fun x hx ha => ?_,
    fun hc ht b hb => ⟨fun id x how hx hxb hxl => ?_, fun len hook how hrel hl hshelf hroom hp => ?_,
      fun how hrel hpend hstate => ?_⟩⟩
  · have taken := arrives hc ht (plain hrel (by decide))
    exact ⟨taken.freshRelease, taken.startUp⟩
  · exact (hno x hx).elim (fun e => e ha.1) fun e => e ha.2.1
  · have same : x = o := by
      rw [ho, List.mem_append, List.mem_cons] at hx
      have other (hx : x ∈ before ++ after) : x = o := absurd (ha.1.trans ht) (hd x hx)
      exact hx.elim (fun hx => other (List.mem_append_left _ hx)) fun hx =>
        hx.elim id fun hx => other (List.mem_append_right _ hx)
    have hook := ha.2.2 (same ▸ hrel)
    rw [ackHook_none hp] at hook
    exact absurd hook nofun
  · subst hxl
    refine ⟨fun hrel hroom test => ?_, fun hrel hor hw hfull test hm => ?_, fun hrel hroom hf htag => ?_,
      fun hrel hroom hl hheld hwin hook hp => ?_, fun hrel hbus hsv hcl hout hm hidle hfwd hu hub hst hrp => ?_⟩
    · exact (arrives hc ht (plain hrel (by decide))).accessJoins how hx hroom hrel hc (decide_eq_true test)
    · exact (arrives hc ht (plain hrel (by decide))).accessWaits how hx hrel hor hw hfull (decide_eq_true test)
        (relayOrderCell_access hc _) hm
    · exact (arrives hc ht (plain hrel (by decide))).settles how hx hroom hrel hxb hb (hs ▸ hf) htag
    · exact (arrives hc ht fun _ => ackHook_of hp ▸ rfl).releases how hx hroom hrel hxb hl hc (ackHook_of hp) hheld hwin
    · have silent : synthesisedReport (lineOf s x.line) = none := by simp only [synthesisedReport, hidle, hfwd]
      exact (arrives hc ht (plain hrel (by decide))).ends how hx hrel hs hbus hsv hcl hout hm silent hu hub hst hrp
  · subst hshelf
    exact (arrives hc ht fun _ => ackHook_of hp ▸ rfl).cleanUpRelease hroom how hrel hl hs hc (ackHook_of hp)
  · exact (arrives hc ht fun e => absurd e hrel).cleanUpDone how hrel hs hpend hstate

end Sys2Proof.Machine
end

section
/-! PROOFS. LINE REPORTs that are suppressed, consumed by a DIAL session, or abandon a session in RESERVED. -/

namespace Sys2Proof.Machine
open Sys2Proof

variable {s t u : State} {i : Instr}

/-! ### Reading a LINE REPORT (R22) -/

theorem exec_lineReport {c : Cell} {k : Nat} (h : TransitArrives s .south c) (hk : c.kind = 0x11#8)
    (hd : reportDelivered (runCleared s .south) c = t) (hands : Hands k s t) (hle : k ≤ 16)
    (hq : t.arbiter.queue = [] ∨ t.arbiter.service ≠ .inService) :
    exec (.lineReport c) s = .next { t with agenda := s.agenda } := by
  obtain ⟨ha, hs, hg, hdst⟩ := h
  have kind : dispositionOf (own s) .south c = .lineReport :=
    (dispositionOf_other hg (by rw [hk]; decide) hdst).trans (by rw [hk]; rfl)
  exact exec_of_examined rfl ha ((deliverCell_good hs hg).trans (kind ▸ hd)) hands hle hq

/-- As `exec_lineReport`, for an effect that hands nothing on. -/
theorem exec_lineReport_plain {c : Cell} (h : TransitArrives s .south c) (hk : c.kind = 0x11#8)
    (hd : reportDelivered (runCleared s .south) c = t) (ht : t.agenda = []) : exec (.lineReport c) s = .next t := by
  obtain ⟨ha, hs, hg, hdst⟩ := h
  have kind : dispositionOf (own s) .south c = .lineReport :=
    (dispositionOf_other hg (by rw [hk]; decide) hdst).trans (by rw [hk]; rfl)
  exact exec_of_delivered rfl ha ((deliverCell_good hs hg).trans (kind ▸ hd)) ht

theorem reportOf_code (r : Report) : reportOf (reportCode r) = some r := by cases r <;> rfl

theorem reportOf_known {o : Octet} (h1 : 1 ≤ o.toNat) (h6 : o.toNat ≤ 6) : ∃ r, reportOf o = some r := by
  unfold reportOf
  generalize o.toNat = n at h1 h6
  match n with
  | 1 | 2 | 3 | 4 | 5 | 6 => exact ⟨_, rfl⟩

theorem readReport_own {c : Cell} {len : Nat} {r : Report} (hl : (field2 c 0).toNat = len)
    (hs : shelfOf c.src = some (len / 256)) (hr : reportOf (payloadAt c 2) = some r) : readReport c = some (len, r) := by
  subst hl
  simp only [readReport, hr, lineShelf, hs, if_true]

theorem readReport_stranger {c : Cell} {len : Nat} (hl : (field2 c 0).toNat = len)
    (hs : shelfOf c.src ≠ some (len / 256)) : readReport c = none := by
  subst hl
  simp only [readReport, lineShelf, hs, if_false]
  split <;> rfl

/-- A report's code and hook meaning, as R22's table pairs them. -/
theorem report_of_meaning {code : Octet} {meaning : Option Hook}
    (h : (code, meaning) ∈ [(1#8, some Hook.offHook), (2#8, some .idle), (3#8, none), (4#8, none), (5#8, some .parked),
      (6#8, some .offHook)]) : ∃ r, reportCode r = code ∧ reportMeaning r = meaning := by
  simp only [List.mem_cons, Prod.mk.injEq, List.not_mem_nil, or_false] at h
  obtain ⟨rfl, rfl⟩ | ⟨rfl, rfl⟩ | ⟨rfl, rfl⟩ | ⟨rfl, rfl⟩ | ⟨rfl, rfl⟩ | ⟨rfl, rfl⟩ := h
  · exact ⟨.offHook, rfl, rfl⟩
  · exact ⟨.onHook, rfl, rfl⟩
  · exact ⟨.loopOpen, rfl, rfl⟩
  · exact ⟨.loopClose, rfl, rfl⟩
  · exact ⟨.park, rfl, rfl⟩
  · exact ⟨.ringTrip, rfl, rfl⟩

/-- `t` comes of `s` by a report with the given hook meaning applied to the line `len` (R22, R24). -/
structure ReportApplied (s t : State) (len : Nat) (meaning : Option Hook) : Prop where
  line : lineOf t len = { lineOf s len with
    hook := meaning.getD (lineOf s len).hook, writtenAt := s.tracker.ageClock }
  others : ∀ k, k ≠ len → lineOf t k = lineOf s k
  shelf : ∀ k, shelfAt t k = if meaning ≠ none ∧ k = len / 256 then { shelfAt s (len / 256) with
      ringing := hookCount t.tracker (len / 256) isRinging, offHook := hookCount t.tracker (len / 256) isOff }
    else shelfAt s k
  window : ∀ b, windowAt t b = (windowAt s b).map (fun w =>
    if meaning ≠ none ∧ b < 4 ∧ w.line / 256 = len / 256 ∧ w.kind ≠ .settling then
      { w with ringingMax := max w.ringingMax (hookCount t.tracker (len / 256) isRinging) } else w)
  hands : Hands 1 s t
  frame : t = { s with
    tracker := { s.tracker with lines := t.tracker.lines, shelves := t.tracker.shelves }
    meas := { s.meas with windows := t.meas.windows }, agenda := t.agenda }

theorem reportApplied_applyReport (s : State) (len : Nat) (r : Report) :
    ReportApplied s (applyReport s len r) len (reportMeaning r) := by
  cases hr : reportMeaning r with
  | none =>
    have apply : applyReport s len r = modLine s len (fun l => { l with writtenAt := s.tracker.ageClock }) := by
      simp only [applyReport, hr]
    rw [apply]
    exact {
      line := (lineOf_modLine (s := s) len len _).trans (if_pos rfl)
      others := fun k hk => (lineOf_modLine (s := s) len k _).trans (if_neg hk)
      shelf := fun k => (if_neg fun h => h.1 rfl).symm
      window := fun b => by
        simp only [ne_eq, not_true_eq_false, false_and, if_false, Option.map_id']
        rfl
      hands := (Hands.refl s).mono (Nat.zero_le 1)
      frame := rfl }
  | some h =>
    have apply : applyReport s len r = writeHook s len h := by simp only [applyReport, hr]
    have written := hookWritten_writeHook s len h
    rw [apply]
    exact {
      line := written.line
      others := written.others
      shelf := fun k => (written.shelf k).trans (by simp)
      window := fun b => (written.window b).trans (by simp)
      hands := hands_writeHook s len h
      frame := written.frame }

/-! ### A report consumed by a DIAL session (R35, R109, R110, R133 to R135) -/

theorem reportDelivered_dial {c : Cell} {len id : Nat} {r : Report} {x : Session} (hr : readReport c = some (len, r))
    (hc : (lineOf s len).cutOff = false) (hx : sessionOnLine s len = some (id, x))
    (hst : x.state = .awaitOffHook ∨ x.state = .collecting) :
    reportDelivered s c = leaveSlot (dialReport (applyReport s len r) id x r (field2 c 3).toNat) .south := by
  simp only [reportDelivered, hr, reportDisposed, hc, hx, Bool.false_eq_true, if_false]
  obtain h | h := hst <;> rw [h]

/-- AWAIT_OFF_HOOK ends with an off-hook report (R109). -/
theorem dialReport_opens {id stamp : Nat} {x : Session} {r : Report} (hst : x.state = .awaitOffHook)
    (hr : isOffHookReport r = true) : dialReport s id x r stamp =
      putCollector (modSession s id (fun x => { x with state := .collecting })) id
        (collectReport (collectorAt s id) r stamp) := by
  cases r <;> simp [isOffHookReport] at hr <;> simp [dialReport, hst]

/-- Any other report but an ON_HOOK in COLLECTING leaves the session as it is, below the digit limit. -/
theorem dialReport_kept {id stamp : Nat} {x : Session} {r : Report} {a : Collector}
    (hst : x.state = .awaitOffHook ∧ isOffHookReport r = false ∨ x.state = .collecting ∧ r ≠ .onHook)
    (ha : collectReport (collectorAt s id) r stamp = a) (hl : a.digits.length < a.limit) :
    dialReport s id x r stamp = putCollector s id a := by
  have room : limitReached a = false := decide_eq_false (Nat.not_le.2 hl)
  have changed : collectorChanged s id x a = putCollector s id a := by simp [collectorChanged, room]
  obtain ⟨h, hr⟩ | ⟨h, hr⟩ := hst
  · cases r <;> simp [isOffHookReport] at hr <;> simp [dialReport, h, ha, changed]
  · cases r <;> simp at hr <;> simp [dialReport, h, ha, changed]

section
variable {z : Collector} {stamp : Nat}

theorem collectReport_off {r : Report} (hz : z.phase = .waiting) (hr : isOffHookReport r = true) :
    collectReport z r stamp = { z with phase := .active, loopOpen := false, closedSince := some stamp } := by
  cases r <;> simp [isOffHookReport] at hr <;> simp [collectReport, hz]

theorem collectReport_waiting {r : Report} (hz : z.phase = .waiting) (hr : isOffHookReport r = false) :
    collectReport z r stamp = z := by
  cases r <;> simp [isOffHookReport] at hr <;> simp [collectReport, hz]

theorem collectReport_hook {r : Report} (hz : z.phase = .active) (hr : r ≠ .loopOpen ∧ r ≠ .loopClose) :
    collectReport z r stamp = z := by
  cases r <;> simp at hr <;> simp [collectReport, hz]

theorem collectReport_loop (opens : Bool) (hz : z.phase = .active) :
    collectReport z (if opens then .loopOpen else .loopClose) stamp = loopReport z opens stamp := by
  cases opens <;> simp [collectReport, hz]

/-- A report of the loop as it is taken to be changes nothing (R134). -/
theorem loopReport_same {opens : Bool}
    (h : (z.pending = none ∧ z.loopOpen = opens) ∨ ∃ since, z.pending = some (opens, since)) :
    loopReport z opens stamp = z := by
  obtain ⟨hp, hl⟩ | ⟨since, hp⟩ := h
  · simp [loopReport, hp, hl]
  · simp [loopReport, hp]

/-- A change of the loop becomes pending (R134). -/
theorem loopReport_pends {opens : Bool} (hp : z.pending = none) (hl : z.loopOpen ≠ opens) :
    loopReport z opens stamp = makePending z opens stamp := by
  simp [loopReport, hp, hl]

/-- A change back within 10 ms is dropped with the pending one (R134). -/
theorem loopReport_drops {o opens : Bool} {since : Nat} (hp : z.pending = some (o, since)) (ho : o ≠ opens)
    (he : elapsed since stamp < 10) :
    loopReport z opens stamp = { z with pending := none, timer := if z.loopOpen then none else some 251 } := by
  simp only [loopReport, hp, ho, he, if_false, if_true]
  rfl

/-- A change back later confirms the pending one, and becomes pending below the digit limit (R134). -/
theorem loopReport_confirms {o opens : Bool} {since : Nat} {y : Collector} (hp : z.pending = some (o, since))
    (ho : o ≠ opens) (he : 10 ≤ elapsed since stamp) (hy : confirmPending z = y) (hl : y.digits.length < y.limit) :
    loopReport z opens stamp = makePending y opens stamp := by
  have room : limitReached y = false := decide_eq_false (Nat.not_le.2 hl)
  simp only [loopReport, hp, ho, Nat.not_lt.2 he, if_false, hy, room, Bool.false_eq_true]

theorem confirmPending_close {since : Nat} (hp : z.pending = some (false, since)) :
    confirmPending z = { z with
      pending := none, loopOpen := false, latestLength := elapsed z.latestStart since, closedSince := some since } := by
  simp [confirmPending, hp, confirmClose]

/-- A break begins, the closed interval before it being short of a digit's end (R135, R136). -/
theorem confirmPending_open {since : Nat} (hp : z.pending = some (true, since)) (hl : z.digits.length < z.limit)
    (hs : ∀ k, z.closedSince = some k → 1 ≤ z.breaks → elapsed k since < 251) :
    confirmPending z = { z with
      pending := none, loopOpen := true, latestStart := since, breaks := z.breaks + 1
      firstStart := if z.breaks = 0 then since else z.firstStart
      earlierSum := if z.breaks = 0 then z.earlierSum else z.earlierSum + z.latestLength } := by
  simp only [confirmPending, hp, if_true, confirmOpen]
  cases hc : z.closedSince with
  | none => simp [limitReached, hl]
  | some k =>
    have short : ¬ (251 ≤ elapsed k since ∧ 1 ≤ z.breaks) := fun h => Nat.not_lt.2 h.1 (hs k hc h.2)
    simp [limitReached, hl, short]

end

/-- A LINE REPORT consumed by the DIAL session `id`, which becomes `y` with collector `a`: the line, its shelf and the
windows follow the report's hook meaning, and the last forwarded value is kept (R35). -/
def Consumed (s : State) (c : Cell) (len id : Nat) (meaning : Option Hook) (y : Session) (a : Collector) : Prop :=
  ∃ t, (exec (.lineReport c) s = .next t ∧
    lineOf t len = { lineOf s len with
      hook := meaning.getD (lineOf s len).hook, writtenAt := s.tracker.ageClock } ∧
    (∀ k, k ≠ len → lineOf t k = lineOf s k) ∧
    (∀ k, shelfAt t k = if meaning ≠ none ∧ k = len / 256 then { shelfAt s (len / 256) with
        ringing := hookCount t.tracker (len / 256) isRinging, offHook := hookCount t.tracker (len / 256) isOff }
      else shelfAt s k) ∧
    (∀ b, windowAt t b = (windowAt s b).map (fun w =>
      if meaning ≠ none ∧ b < 4 ∧ w.line / 256 = len / 256 ∧ w.kind ≠ .settling then
        { w with ringingMax := max w.ringingMax (hookCount t.tracker (len / 256) isRinging) } else w)) ∧
    ∀ k, k ≠ id → sessionAt t k = sessionAt s k) ∧
  sessionAt t id = some y ∧ collectorAt t id = a ∧ (∀ k, k ≠ id → collectorAt t k = collectorAt s k) ∧
  t = { s with
    ports := (giveSlot (runCleared s .south) .north).ports
    tracker := { s.tracker with lines := t.tracker.lines, shelves := t.tracker.shelves }
    engine := { s.engine with sessions := t.engine.sessions }
    meas := { s.meas with windows := t.meas.windows, collectors := t.meas.collectors } }

theorem applyReport_read (s : State) (len id : Nat) (r : Report) :
    collectorAt (applyReport (runCleared s .south) len r) id = collectorAt s id ∧
    (applyReport (runCleared s .south) len r).engine = s.engine := by
  rw [(reportApplied_applyReport (runCleared s .south) len r).frame]
  exact ⟨rfl, rfl⟩

section
variable {c : Cell} {len id : Nat} {r : Report} {x : Session} (h : TransitArrives s .south c) (hk : c.kind = 0x11#8)
  (hq : NoRequests s) (hr : readReport c = some (len, r)) (hc : (lineOf s len).cutOff = false)
  (hx : sessionOnLine s len = some (id, x)) (hst : x.state = .awaitOffHook ∨ x.state = .collecting)

include h hk hq hr hc hx hst

/-- A report that changes the session's table and collector alone is consumed. -/
theorem consumed_of_dialReport {e : Tab (Option Session)} {y : Session} {a : Collector}
    (hd : dialReport (applyReport (runCleared s .south) len r) id x r (field2 c 3).toNat =
      putCollector { applyReport (runCleared s .south) len r with
        engine := { s.engine with sessions := e } } id a)
    (he : ∀ k, tabGet none e k = if k = id then some y else sessionAt s k) :
    Consumed s c len id (reportMeaning r) y a := by
  have applied := reportApplied_applyReport (runCleared s .south) len r
  have run := reportDelivered_dial (s := runCleared s .south) hr hc hx hst
  rw [hd] at run
  generalize applyReport (runCleared s .south) len r = u at applied run
  have queue : u.arbiter.queue = [] := (congrArg (·.arbiter.queue) applied.frame).trans hq
  let taken := leaveSlot (putCollector { u with engine := { s.engine with sessions := e } } id a) .south
  have hands : Hands 1 s taken := applied.hands
  have collectors (k : Nat) : collectorAt taken k = if k = id then a else collectorAt s k := by
    refine (tabGet_tabPut collectorZero u.meas.collectors id k a).trans ?_
    rw [applied.frame]
    rfl
  refine ⟨_, ⟨exec_lineReport h hk run hands (by omega) (.inl queue), applied.line, applied.others, applied.shelf,
    applied.window, fun k hk => (he k).trans (if_neg hk)⟩, (he id).trans (if_pos rfl),
    (collectors id).trans (if_pos rfl), fun k hk => (collectors k).trans (if_neg hk), ?_⟩
  rw [applied.frame]
  rfl

/-- A report that leaves the session as it is, below the digit limit (R110, R134). -/
theorem consumed_kept {a : Collector}
    (hk' : x.state = .awaitOffHook ∧ isOffHookReport r = false ∨ x.state = .collecting ∧ r ≠ .onHook)
    (ha : collectReport (collectorAt s id) r (field2 c 3).toNat = a) (hl : a.digits.length < a.limit) :
    Consumed s c len id (reportMeaning r) x a := by
  obtain ⟨collector, engine⟩ := applyReport_read s len id r
  obtain ⟨hs, -, -⟩ := sessionAt_of_onLine hx
  refine consumed_of_dialReport h hk hq hr hc hx hst (e := s.engine.sessions) ?_ fun k => ?_
  · refine (dialReport_kept hk' (collector ▸ ha) hl).trans ?_
    rw [← engine]
  · by_cases hk : k = id
    · rw [if_pos hk, hk]; exact hs
    · rw [if_neg hk]; rfl

/-- An off-hook report that begins COLLECTING (R109, R133). -/
theorem consumed_opens {a : Collector} (hw : x.state = .awaitOffHook) (hoff : isOffHookReport r = true)
    (ha : collectReport (collectorAt s id) r (field2 c 3).toNat = a) :
    Consumed s c len id (reportMeaning r) { x with state := .collecting } a := by
  obtain ⟨collector, engine⟩ := applyReport_read s len id r
  obtain ⟨hs, -, -⟩ := sessionAt_of_onLine hx
  refine consumed_of_dialReport h hk hq hr hc hx hst (dialReport_opens hw hoff |>.trans ?_) fun k =>
    (sessionAt_modSession (s := s) id k (fun x => { x with state := .collecting })).trans (by rw [hs]; rfl)
  rw [collector, ha, modSession, onEngine, engine]
  rfl

end

/-! ### A DIAL session that ends without a digit (R110, R137, R144) -/

/-- A DIAL step without digits judges no class, nor does a settling verdict that is none (R144 to R149). -/
theorem judge_noDigits (p : Profile) {r : StepResult} (hk : r.kind = .dial) (hd : r.digits = []) (cl : FaultClass) :
    judge p [r] .notJudged cl = .notJudged := by
  cases cl <;>
    simp [judge, judgeLow, resistances, judgeForeignDc, judgeForeignAc, allFvValued, judgeDial, judgeHazard, hk, hd]

theorem classify_noDigits {rec : ResultRecord} {r : StepResult} (hr : rec.results = [r]) (hk : r.kind = .dial)
    (hd : r.digits = []) : classify s rec .notJudged = (s, { rec with failed := [], actions := [] }) := by
  have verdict : recordVerdict rec .notJudged = .notJudged := by simp [recordVerdict]
  simp only [classify, hr, verdict, judge_noDigits _ hk hd]
  rfl

theorem offerUrgent_frame (s : State) (c : Cell) : ∃ p, offerUrgent s c = { s with ports := p } := by
  unfold offerUrgent
  split
  · exact ⟨_, rfl⟩
  · split
    · exact ⟨_, rfl⟩
    · exact ⟨_, rfl⟩

theorem offerTestBlock_frame (s : State) (len : Nat) (b : Bool) :
    ∃ p, offerTestBlock s len b = { modLine s len (fun l => { l with blocked := b }) with ports := p } := by
  simp only [offerTestBlock]
  split
  · exact ⟨_, rfl⟩
  · obtain ⟨p, offered⟩ := offerUrgent_frame (modLine s len (fun l => { l with blocked := b }))
      (testBlockCell (own s) len b)
    exact ⟨p, offered⟩

theorem offerUnblocked_frame (s : State) (len : Nat) (b : Bool) :
    ∃ p, offerUnblocked s len b = { modLine s len (fun l => { l with blocked := false }) with ports := p } := by
  obtain ⟨p, offered⟩ := offerTestBlock_frame s len false
  simp only [offerUnblocked, offered]
  split
  · split
    · next r _ _ =>
      obtain ⟨q, reported⟩ := offerUrgent_frame { modLine s len (fun l => { l with blocked := false }) with ports := p }
        (synthReportCell (own { modLine s len (fun l => { l with blocked := false }) with ports := p }) len r)
      exact ⟨q, reported⟩
    · exact ⟨p, rfl⟩
  · exact ⟨p, rfl⟩

/-- A line's mark becomes FREE, whatever waits in the URGENT queue (R40, R41, R66). -/
theorem setMark_freed {len : Nat} (b : Bool) (hm : markOf s len ≠ .free) :
    ∃ p, setMark s len .free b = examineLater { unblockedAlone s len with ports := p } := by
  obtain ⟨p, offered⟩ := offerUnblocked_frame (writeMark s len .free) len b
  rw [setMark, if_neg fun h => hm h.1, if_pos ⟨hm, rfl⟩]
  exact ⟨p, congrArg examineLater offered⟩

/-- A demand session's record with a DIAL result without digits goes to its slot as it stands (R144, R205). -/
theorem handRecord_noDigits {id n : Nat} {x : Session} {r : StepResult} {o : EndOutcome} (hc : x.cls = .demand)
    (hv : x.verdict = .notJudged) (hs : x.slot = some n) (hq : x.requesters ≠ []) (ho : o ≠ .complete)
    (hr : x.results = [r]) (hk : r.kind = .dial) (hd : r.digits = []) :
    handRecord s id x o = onInterp (putSlot s n (.filled { sessionRecord s id x o with failed := [], actions := [] }
      (recipients x.requesters) 0)) (fun i => { i with fillingOrder := i.fillingOrder ++ [n] }) := by
  have judged : classify s (sessionRecord s id x o) x.verdict =
      (s, { sessionRecord s id x o with failed := [], actions := [] }) := by
    rw [hv]
    exact classify_noDigits hr hk hd
  have some : recipients x.requesters ≠ [] := fun h => hq (List.map_eq_nil_iff.1 h)
  simp only [handRecord, judged, hc, ho, if_false, hs, fillRecord, fillSlot, some]

theorem closeCollector_noDigits {z : Collector} (hl : z.digits.length < z.limit) (hd : z.digits = []) (hb : z.breaks = 0)
    (hp : ∀ k, z.pending ≠ some (false, k)) : (closeCollector z).digits = [] := by
  have room : limitReached z = false := decide_eq_false (Nat.not_le.2 hl)
  unfold closeCollector
  cases h : z.pending with
  | none => simp [room, hb, hd]
  | some w =>
    obtain ⟨_ | _, k⟩ := w
    · exact absurd h (hp k)
    · simp [room, hb, hd]

/-- The session as the end of its DIAL step without a digit leaves it (R137). -/
def withoutDigit (x : Session) (c : Collector) : Session :=
  { x with results := [dialResult c], outcome := some .noDigits }

theorem finishDial_noDigits {id : Nat} {x : Session} (hp : (collectorAt s id).phase ≠ .closed)
    (hd : (closeCollector (collectorAt s id)).digits = []) (hs : sessionAt s id = some x) :
    ∃ e, finishDial s id x dialOutcome = finishSession { s with
        engine := { s.engine with sessions := e }
        meas := { s.meas with collectors := tabPut collectorZero s.meas.collectors id collectorZero } }
        id .free true .failed ∧
      tabGet none e id = some (withoutDigit x (closeCollector (collectorAt s id))) := by
  let cleared := putCollector s id collectorZero
  obtain ⟨e, named, sessions⟩ := modSession_frame (s := cleared) (x := x)
    (fun x => withoutDigit x (closeCollector (collectorAt s id))) hs
  refine ⟨e, ?_, (sessions id).trans (if_pos rfl)⟩
  have opened : decide ((collectorAt s id).phase ≠ .closed) = true := decide_eq_true hp
  simp only [finishDial, opened, if_true, hd, dialOutcome]
  exact congrArg (finishSession · id .free true .failed) named

/-- The DIAL session's end: its table entry and collector are gone, its line is FREE, its record in its slot (R110). -/
theorem finishSession_noDigits {id n : Nat} {x : Session} {c : Collector} (hx : sessionAt s id = some (withoutDigit x c))
    (hc : x.cls = .demand) (hv : x.verdict = .notJudged) (hs : x.slot = some n) (hq : x.requesters ≠ [])
    (hd : c.digits = []) (hm : markOf s x.line ≠ .free) :
    ∃ t r, finishSession s id .free true .failed = t ∧ sessionAt t id = none ∧ markOf t x.line = .free ∧
      lineOf t x.line = { lineOf s x.line with blocked := false } ∧ t.meas = s.meas ∧
      t.arbiter.queue = s.arbiter.queue ∧ slotAt t n = .filled r (recipients x.requesters) 0 ∧ r.outcome = .noDigits ∧
      r.line = x.line ∧ r.session = some id ∧ Hands 2 s t := by
  let gone := putSession s id none
  obtain ⟨p, marked⟩ := setMark_freed (s := gone) true hm
  obtain ⟨l, m, frame, lines, marks⟩ := unblockedAlone_frame gone x.line
  rw [frame] at marked
  let freed : State := { s with
    ports := p, tracker := { s.tracker with lines := l }, arbiter := { s.arbiter with marks := m }
    engine := gone.engine }
  have marked : setMark gone x.line .free true = examineLater freed := marked
  have record := handRecord_noDigits (s := examineLater freed) (id := id) (x := withoutDigit x c) (o := .noDigits)
    hc hv hs hq nofun rfl rfl hd
  have run : finishSession s id .free true .failed =
      examineLater (handRecord (examineLater freed) id (withoutDigit x c) .noDigits) := by
    rw [← marked]
    simp only [finishSession, hx]
    rfl
  rw [record] at run
  let r : ResultRecord :=
    { sessionRecord (examineLater freed) id (withoutDigit x c) .noDigits with failed := [], actions := [] }
  have slot := tabGet_tabPut_same Slot.free s.interp.slots n (.filled r (recipients x.requesters) 0)
  refine ⟨_, r, run,
    (sessionAt_putSession (s := s) id id none).trans (if_pos rfl), (marks x.line).trans (if_pos rfl),
    (lines x.line).trans (if_pos rfl), rfl, rfl, slot, rfl, rfl, rfl,
    2, Nat.le_refl 2, List.append_assoc ..⟩

end Sys2Proof.Machine
end

section
/-! PROOFS. A session in RESERVED abandoned by a LINE REPORT, and O26. -/

namespace Sys2Proof.Machine
open Sys2Proof

variable {s t u : State} {i : Instr}

/-! ### An entry written twice -/

section
variable {α : Type}

theorem tabDrop_tabInsert (t : Tab α) (k : Nat) (v : α) : tabDrop (tabInsert t k v) k = tabDrop t k := by
  induction t with
  | nil => exact if_pos rfl
  | cons e rest ih =>
    obtain ⟨j, w⟩ := e
    by_cases h : k < j
    · simp only [tabInsert, h, if_true, tabDrop]
    · simp only [tabInsert, h, if_false, tabDrop, ih]

variable [DecidableEq α]

/-- The later write of an entry stands alone. -/
theorem tabPut_tabPut (d : α) (t : Tab α) (k : Nat) (v w : α) : tabPut d (tabPut d t k v) k w = tabPut d t k w := by
  have drop : tabDrop (tabPut d t k v) k = tabDrop t k := by
    have again : tabDrop (tabDrop t k) k = tabDrop t k := tabDrop_eq_self _ k (mem_tabDrop_ne t k)
    unfold tabPut
    split
    · exact again
    · rw [tabDrop_tabInsert, again]
  rw [tabPut, drop]
  rfl

theorem tabMod_tabPut (d : α) (t : Tab α) (k : Nat) (v : α) (f : α → α) :
    tabMod d (tabPut d t k v) k f = tabPut d t k (f v) := by
  rw [tabMod, tabGet_tabPut_same, tabPut_tabPut]

theorem countP_tabPut_eq {d : α} {P : Nat × α → Bool} (t : Tab α) {k : Nat} (v : α) (hd : P (k, d) = false) :
    (tabPut d t k v).countP P = (tabDrop t k).countP P + if P (k, v) then 1 else 0 := by
  unfold tabPut
  split
  · next hv => rw [hv, hd]; rfl
  · exact countP_tabInsert ..

end

/-- Two lines of one hook state count alike (R24). -/
theorem hookCount_tabPut (t : Tracker) (table : Tab Line) (len n : Nat) {v w : Line} {sort : Hook → Bool}
    (hu : sort .unknown = false) (h : v.hook = w.hook) :
    hookCount { t with lines := tabPut lineZero table len v } n sort =
      hookCount { t with lines := tabPut lineZero table len w } n sort := by
  have none : decide (lineShelf len = n ∧ sort lineZero.hook = true) = false := by
    rw [show lineZero.hook = .unknown from rfl, hu]; simp
  unfold hookCount
  rw [countP_tabPut_eq table v none, countP_tabPut_eq table w none, h]

theorem unblockedAlone_lines (s : State) (len : Nat) : (unblockedAlone s len).tracker.lines =
    tabMod lineZero (tabMod lineZero s.tracker.lines len (fun l => { l with blocked := Mark.free ≠ .free })) len
      (fun l => { l with blocked := false }) := rfl

/-- The line last written becomes FREE without moving its shelf's counts. -/
theorem hookCount_freed {len n : Nat} {sort : Hook → Bool} (hu : sort .unknown = false)
    (hl : ∃ table v, s.tracker.lines = tabPut lineZero table len v)
    (ht : t.tracker.lines = (unblockedAlone s len).tracker.lines) :
    hookCount t.tracker n sort = hookCount s.tracker n sort := by
  obtain ⟨table, v, hs⟩ := hl
  have freed : t.tracker.lines = tabPut lineZero table len { v with blocked := false } := by
    rw [ht]
    rw [unblockedAlone_lines, hs, tabMod_tabPut, tabMod_tabPut]
  have now : hookCount t.tracker n sort =
      hookCount { t.tracker with lines := tabPut lineZero table len { v with blocked := false } } n sort := by
    rw [← freed]
  have before : hookCount s.tracker n sort =
      hookCount { t.tracker with lines := tabPut lineZero table len v } n sort := by
    rw [← hs]; rfl
  rw [now, before]
  exact hookCount_tabPut _ table len n hu rfl

/-! ### A session in RESERVED abandoned (R34) -/

theorem reportDelivered_abandons {c : Cell} {len id : Nat} {r : Report} {x : Session} (hr : readReport c = some (len, r))
    (hc : (lineOf s len).cutOff = false) (hx : sessionOnLine s len = some (id, x)) (hst : x.state = .reserved)
    (hoff : isOffHookReport r = true) : reportDelivered s c =
      leaveSlot (offerUrgent (dropReserved (applyReport s len r) id false .abandoned) c) .south := by
  simp only [reportDelivered, hr, reportDisposed, hc, hx, hst, hoff, Bool.false_eq_true, if_false, if_true]
  rfl

/-- `d` comes of `s` by a report of hook meaning `h` that abandons session `id`, ports and engine set apart. -/
structure Abandoned (s d : State) (id : Nat) (x : Session) (h : Hook) : Prop where
  line : lineOf d x.line = { lineOf s x.line with blocked := false, hook := h, writtenAt := s.tracker.ageClock }
  others : ∀ k, k ≠ x.line → lineOf d k = lineOf s k
  shelf : ∀ k, shelfAt d k = if k = x.line / 256 then { shelfAt s (x.line / 256) with
      ringing := hookCount d.tracker (x.line / 256) isRinging, offHook := hookCount d.tracker (x.line / 256) isOff }
    else shelfAt s k
  window : ∀ b, windowAt d b = (windowAt s b).map (fun w =>
    if b < 4 ∧ w.line / 256 = x.line / 256 ∧ w.kind ≠ .settling then
      { w with ringingMax := max w.ringingMax (hookCount d.tracker (x.line / 256) isRinging) } else w)
  sessions : ∀ k, sessionAt d k = if k = id then none else sessionAt s k
  marks : ∀ k, markOf d k = if k = x.line then .free else markOf s k
  frame : d = { s with
    ports := d.ports
    tracker := { s.tracker with lines := d.tracker.lines, shelves := d.tracker.shelves }
    arbiter := { s.arbiter with marks := d.arbiter.marks, queue := [entryOf x .abandoned] }
    engine := d.engine, meas := { s.meas with windows := d.meas.windows }, agenda := d.agenda }

/-- A session's end behind the hook write of the report that abandons it, orders and buses set apart. -/
theorem HookWritten.abandoned {g v d : State} {id : Nat} {x : Session} {h : Hook}
    (hw : HookWritten s u x.line { lineOf s x.line with hook := h, writtenAt := s.tracker.ageClock })
    (hg : g = { u with engine := g.engine }) (hgs : g.engine.sessions = s.engine.sessions)
    (hv : Returned g v id x (entryOf x .abandoned))
    (hd : d = { v with ports := d.ports, engine := d.engine, agenda := d.agenda })
    (hds : d.engine.sessions = v.engine.sessions) : Abandoned s d id x h := by
  have gu : g.tracker = u.tracker ∧ g.meas = u.meas ∧ g.arbiter = u.arbiter := by rw [hg]; exact ⟨rfl, rfl, rfl⟩
  have vg : v.tracker.shelves = g.tracker.shelves ∧ v.meas = g.meas := by rw [hv.frame]; exact ⟨rfl, rfl⟩
  have us : u.arbiter.marks = s.arbiter.marks := by rw [hw.frame]
  have dv : d.tracker = v.tracker ∧ d.meas = v.meas ∧ d.arbiter = v.arbiter := by rw [hd]; exact ⟨rfl, rfl, rfl⟩
  have line (k : Nat) : lineOf d k = lineOf v k ∧ lineOf g k = lineOf u k := by
    simp only [lineOf, dv.1, gu.1, and_self]
  have shelf (k : Nat) : shelfAt d k = shelfAt u k := by
    simp only [shelfAt, dv.1, vg.1, gu.1]
  have window (k : Nat) : windowAt d k = windowAt u k := by
    simp only [windowAt, dv.2.1, vg.2, gu.2.1]
  have count {sort : Hook → Bool} (hs : sort .unknown = false) (n : Nat) :
      hookCount d.tracker n sort = hookCount u.tracker n sort := by
    rw [dv.1, hookCount_freed (s := g) hs (gu.1 ▸ hw.listed) hv.table, gu.1]
  have mark (k : Nat) : markOf d k = markOf v k ∧ markOf g k = markOf s k := by
    simp only [markOf, dv.2.2, gu.2.2, us, and_self]
  have session (k : Nat) : sessionAt d k = sessionAt v k ∧ sessionAt g k = sessionAt s k := by
    simp only [sessionAt, hds, hgs, and_self]
  exact {
    line := by rw [(line _).1, hv.line, (line _).2, hw.line]
    others := fun k hk => by rw [(line k).1, hv.lines k hk, (line k).2, hw.others k hk]
    shelf := fun k => by rw [shelf, hw.shelf, count rfl, count rfl]
    window := fun b => by rw [window, hw.window, count rfl]
    sessions := fun k => by
      rw [(session k).1]
      by_cases hk : k = id
      · rw [if_pos hk, hk, hv.gone]
      · rw [if_neg hk, hv.sessions k hk, (session k).2]
    marks := fun k => by
      rw [(mark k).1]
      by_cases hk : k = x.line
      · rw [if_pos hk, hk, hv.mark]
      · rw [if_neg hk, hv.marks k hk, (mark k).2]
    frame := by
      rw [hd, hv.frame, hg, hw.frame] }

/-- The part with an abandoned session's report behind its UNBLOCKED report, its slot given and its work done. -/
def reportQueued (s d : State) (c : Cell) : State :=
  { d with
    ports := { d.ports with urgent := d.ports.urgent ++ [c], northSlots := d.ports.northSlots + 1 }, agenda := s.agenda }

theorem exec_abandons {c : Cell} {id k : Nat} {r : Report} {x : Session} {d : State} (h : TransitArrives s .south c)
    (hk : c.kind = 0x11#8) (hr : readReport c = some (x.line, r)) (hc : (lineOf s x.line).cutOff = false)
    (hx : sessionOnLine s x.line = some (id, x)) (hst : x.state = .reserved) (hoff : isOffHookReport r = true)
    (hd : dropReserved (applyReport (runCleared s .south) x.line r) id false .abandoned = d)
    (hu : d.ports.urgent.length = 1) (hb : d.ports.urgentBacklog = []) (hands : Hands k s d) (hle : k ≤ 16)
    (hsv : d.arbiter.service ≠ .inService) : exec (.lineReport c) s = .next (reportQueued s d c) := by
  have run := reportDelivered_abandons (s := runCleared s .south) hr hc hx hst hoff
  have joins : offerUrgent d c = { d with ports := { d.ports with urgent := d.ports.urgent ++ [c] } } :=
    if_pos ⟨by rw [hu]; decide, hb⟩
  rw [hd, joins] at run
  exact exec_lineReport h hk run hands hle (.inr hsv)

/-- A LINE REPORT that abandons session `id`, leaving the ports but for the URGENT queue as `p` and the engine as `e`. -/
def Abandons (s : State) (c : Cell) (id : Nat) (x : Session) (meaning : Option Hook) (p : Ports) (e : Engine)
    (t : State) : Prop :=
  (exec (.lineReport c) s = .next t ∧
    lineOf t x.line = { lineOf s x.line with
      blocked := false, hook := meaning.getD (lineOf s x.line).hook, writtenAt := s.tracker.ageClock } ∧
    (∀ k, k ≠ x.line → lineOf t k = lineOf s k) ∧
    (∀ k, shelfAt t k = if meaning ≠ none ∧ k = x.line / 256 then { shelfAt s (x.line / 256) with
        ringing := hookCount t.tracker (x.line / 256) isRinging, offHook := hookCount t.tracker (x.line / 256) isOff }
      else shelfAt s k) ∧
    (∀ b, windowAt t b = (windowAt s b).map (fun w =>
      if meaning ≠ none ∧ b < 4 ∧ w.line / 256 = x.line / 256 ∧ w.kind ≠ .settling then
        { w with ringingMax := max w.ringingMax (hookCount t.tracker (x.line / 256) isRinging) } else w)) ∧
    ∀ k, k ≠ id → sessionAt t k = sessionAt s k) ∧
  sessionAt t id = none ∧ markOf t x.line = .free ∧ (∀ k, k ≠ x.line → markOf t k = markOf s k) ∧
  t = { s with
    ports := { p with urgent := [testBlockCell (own s) x.line false, c] }
    tracker := { s.tracker with lines := t.tracker.lines, shelves := t.tracker.shelves }
    arbiter := { s.arbiter with
      marks := t.arbiter.marks, queue := [{ returnedEntry x x.retries true with cls := .demand }] }
    engine := e, meas := { s.meas with windows := t.meas.windows } }

theorem Abandoned.abandons {c : Cell} {id : Nat} {x : Session} {d : State} {p : Ports} {e : Engine}
    (hd : Abandoned (runCleared s .south) d id x .offHook) (hcl : x.cls = .demand)
    (he : exec (.lineReport c) s = .next (reportQueued s d c))
    (hp : { d.ports with urgent := d.ports.urgent ++ [c], northSlots := d.ports.northSlots + 1 } =
      { p with urgent := [testBlockCell (own s) x.line false, c] })
    (hen : d.engine = e) : Abandons s c id x (some .offHook) p e (reportQueued s d c) := by
  refine ⟨⟨he, hd.line, hd.others, fun k => (hd.shelf k).trans ?_, fun b => (hd.window b).trans ?_,
    fun k hk => (hd.sessions k).trans (if_neg hk)⟩, (hd.sessions id).trans (if_pos rfl),
    (hd.marks x.line).trans (if_pos rfl), fun k hk => (hd.marks k).trans (if_neg hk), ?_⟩
  · simp only [ne_eq, reduceCtorEq, not_false_eq_true, true_and]
    rfl
  · simp only [ne_eq, reduceCtorEq, not_false_eq_true, true_and]
    rfl
  · rw [reportQueued, hp, ← hen, hd.frame, ← hcl]
    rfl

theorem applyReport_offHook {r : Report} (len : Nat) (hr : isOffHookReport r = true) :
    applyReport s len r = writeHook s len .offHook ∧ reportMeaning r = some .offHook := by
  cases r <;> simp [isOffHookReport] at hr <;> exact ⟨rfl, rfl⟩

section
variable {id b : Nat} {x : Session} {synth : Bool} {ret : Returning} (hx : sessionAt s id = some x)

include hx

theorem dropReserved_dial (hb : x.bus = none) : dropReserved s id synth ret = finishSession s id .free synth ret := by
  simp only [dropReserved, hx, hb]

/-- The RISER OPERATE never having joined, riser and bus are FREE at once (R99). -/
theorem dropReserved_unsent (hb : x.bus = some b)
    (hu : s.engine.waiting.any (fun o => o.owner = .session id ∧ o.kind = .riserOperate) = true) :
    dropReserved s id synth ret = busReleased (freeRiser
      (finishSession (giveUpOrders s (.session id)) id .free synth ret) (lineShelf x.line)) b := by
  simp only [dropReserved, hx, hb, hu, if_true]

/-- An order being out, the riser clean-up takes the bus over (R99). -/
theorem dropReserved_ordered {o : Order} (hb : x.bus = some b) (hw : s.engine.waiting = [])
    (ho : (if s.engine.orders.any (fun o => o.order.owner = .session id ∧ o.order.kind = .accessOperate)
      then accessReleaseOrder x.line (.cleanUp b) else riserReleaseOrder (lineShelf x.line) b (.cleanUp b)) = o) :
    dropReserved s id synth ret =
      startCleanUp (finishSession (giveUpOrders s (.session id)) id .free synth ret) b o := by
  simp only [dropReserved, hx, hb, hw, List.any_nil, Bool.false_eq_true, if_false, ho]

end

section
variable {c : Cell} {id : Nat} {r : Report} {x : Session} (h : TransitArrives s .south c) (hk : c.kind = 0x11#8)
  (hr : readReport c = some (x.line, r)) (hc : (lineOf s x.line).cutOff = false)
  (hx : sessionOnLine s x.line = some (id, x)) (hst : x.state = .reserved) (hoff : isOffHookReport r = true)
  (hcl : x.cls = .demand) (hout : x.outcome = none) (hm : markOf s x.line ≠ .free)
  (hsv : s.arbiter.service ≠ .inService) (hq : NoRequests s) (hu : s.ports.urgent = [])
  (hub : s.ports.urgentBacklog = [])

/-- The part as the off-hook report has been applied, before its session is dropped (R22). -/
def offHookApplied (s : State) (len : Nat) : State := writeHook (runCleared s .south) len .offHook

/-- As `offHookApplied`, the session's orders given up as `e` has them, and its end. -/
def offHookDropped (s : State) (len : Nat) (e : Engine) (id : Nat) : State :=
  finishSession { offHookApplied s len with engine := e } id .free false .abandoned

theorem offHookApplied_written (s : State) (len : Nat) : HookWritten (runCleared s .south) (offHookApplied s len) len
    { lineOf s len with hook := .offHook, writtenAt := s.tracker.ageClock } :=
  hookWritten_writeHook (runCleared s .south) len .offHook

theorem offHookApplied_hands (s : State) (len : Nat) : Hands 1 s (offHookApplied s len) :=
  hands_writeHook (runCleared s .south) len .offHook

include hx hcl hout hm hq hu hub

/-- The session's end behind the report, its orders given up as `e` has them. -/
theorem returned_offHook {e : Engine} (he : e.sessions = s.engine.sessions) :
    Returned { offHookApplied s x.line with engine := e } (offHookDropped s x.line e id) id x (entryOf x .abandoned) := by
  let g : State := { offHookApplied s x.line with engine := e }
  have frame := (offHookApplied_written s x.line).frame
  obtain ⟨hs, -, -⟩ := sessionAt_of_onLine hx
  have ports : g.ports = (runCleared s .south).ports := congrArg (·.ports) frame
  have arbiter : g.arbiter = s.arbiter := congrArg (·.arbiter) frame
  have session : sessionAt g id = some x := (congrArg (tabGet none · id) he).trans hs
  have mark : markOf g x.line = markOf s x.line := congrArg (fun a : Arbiter => tabGet Mark.free a.marks x.line) arbiter
  exact returned_finishSession session hcl hout (mark ▸ hm) (arbiter ▸ hq) (ports ▸ hu) (ports ▸ hub) (.inl rfl)

include h hk hr hc hst hoff hsv

/-- The session's end and what becomes of its bus, as the report leaves the part. -/
theorem abandons_of {e E : Engine} {d : State} {q : Ports} {k : Nat} (he : e.sessions = s.engine.sessions)
    (hrun : dropReserved (offHookApplied s x.line) id false .abandoned = d)
    (hd : d = { offHookDropped s x.line e id with
      ports := d.ports, engine := d.engine, agenda := d.agenda })
    (hds : d.engine.sessions = (offHookDropped s x.line e id).engine.sessions)
    (hands : Hands k (offHookDropped s x.line e id) d)
    (hle : k ≤ 8) (hp : d.ports = { q with urgent := [testBlockCell (own s) x.line false] })
    (hqb : q.urgentBacklog = []) (hen : d.engine = E) :
    Abandons s c id x (some .offHook) { q with northSlots := q.northSlots + 1 } E (reportQueued s d c) := by
  have written := offHookApplied_written s x.line
  have ended := returned_offHook hx hcl hout hm hq hu hub he
  have apply := (applyReport_offHook (s := runCleared s .south) x.line hoff).1
  have first : Hands 1 s { offHookApplied s x.line with engine := e } := offHookApplied_hands s x.line
  have last := (first.trans ended.hands).trans hands
  generalize offHookDropped s x.line e id = v at ended hd hds last
  have dropped := written.abandoned (g := { offHookApplied s x.line with engine := e }) rfl he ended hd hds
  have service : d.arbiter.service = s.arbiter.service := by
    rw [dropped.frame]
    rfl
  refine dropped.abandons hcl
    (exec_abandons h hk hr hc hx hst hoff (apply ▸ hrun) ?_ ?_ last (by omega) (service ▸ hsv)) ?_ hen
  · rw [hp]; rfl
  · rw [hp]; exact hqb
  · rw [hp]; rfl

omit h hk hr hc hst hoff hsv in
/-- What the session's end leaves of the ports and the engine. -/
theorem offHookDropped_read {e : Engine} (he : e.sessions = s.engine.sessions) :
    (offHookDropped s x.line e id).ports =
      { (runCleared s .south).ports with urgent := [testBlockCell (own s) x.line false] } ∧
    (offHookDropped s x.line e id).engine = { e with sessions := (offHookDropped s x.line e id).engine.sessions } ∧
    ∀ n, (shelfAt (offHookDropped s x.line e id) n).audit = (shelfAt s n).audit := by
  have written := offHookApplied_written s x.line
  have frame := (returned_offHook hx hcl hout hm hq hu hub he).frame
  have ports : (offHookApplied s x.line).ports = (runCleared s .south).ports := congrArg (·.ports) written.frame
  generalize offHookDropped s x.line e id = v at frame
  refine ⟨?_, congrArg (·.engine) frame, fun n => ?_⟩
  · rw [frame]
    show ({ (offHookApplied s x.line).ports with
      urgent := [testBlockCell (ownAddress (offHookApplied s x.line).ports.straps) x.line false] } : Ports) = _
    rw [ports]
    rfl
  · rw [frame]
    exact written.audit n

omit hx hcl hout hm hq hu hub h hk hr hc hst hoff hsv in
theorem offHookApplied_engine : (offHookApplied s x.line).engine = s.engine :=
  congrArg (·.engine) (offHookApplied_written s x.line).frame

omit hx hcl hout hm hq hu hub h hk hr hc hst hoff hsv in
theorem giveUpOrders_offHook {orders : List OutstandingOrder} {waiting : List Order} {w : Owner}
    (ho : s.engine.orders.filter (fun o => o.order.owner ≠ w) = orders)
    (hw : s.engine.waiting.filter (fun o => o.owner ≠ w) = waiting) :
    giveUpOrders (offHookApplied s x.line) w =
      { offHookApplied s x.line with engine := { s.engine with orders := orders, waiting := waiting } } := by
  rw [giveUpOrders, onEngine, offHookApplied_engine, ho, hw]

/-- A DIAL session holds no bus (R34). -/
theorem abandons_dial (hb : x.bus = none) : ∃ t, Abandons s c id x (some .offHook)
    (giveSlot (runCleared s .south) .north).ports { s.engine with sessions := t.engine.sessions } t := by
  obtain ⟨ports, engine, -⟩ := offHookDropped_read hx hcl hout hm hq hu hub (e := s.engine) rfl
  have session : sessionAt (offHookApplied s x.line) id = some x := by
    rw [sessionAt, offHookApplied_engine]
    exact (sessionAt_of_onLine hx).1
  have same : { offHookApplied s x.line with engine := s.engine } = offHookApplied s x.line := by
    rw [← offHookApplied_engine (s := s) (x := x)]
  have run : dropReserved (offHookApplied s x.line) id false .abandoned = offHookDropped s x.line s.engine id := by
    rw [dropReserved_dial session hb, offHookDropped, same]
  exact ⟨_, abandons_of h hk hr hc hx hst hoff hcl hout hm hsv hq hu hub rfl run rfl rfl (.refl _) (Nat.zero_le 8) ports
    hub engine⟩

/-- The RISER OPERATE still waiting unsent, riser and bus are FREE at once (R34, R99). -/
theorem abandons_unsent {b : Nat} {before after : List Order} {o : Order} (hb : x.bus = some b)
    (hw : s.engine.waiting = before ++ o :: after) (hk' : o.kind = .riserOperate) (ho : o.owner = .session id)
    (hother : ∀ y ∈ before ++ after, y.owner ≠ .session id)
    (hno : ∀ y ∈ s.engine.orders, y.order.owner ≠ .session id) (ha : (busAt s b).state = .attached)
    (hquar : (busAt s b).quarantine = none) (hrem : (busAt s b).removePending = false) :
    ∃ t, busAt t b = { busAt s b with state := .free, holder := .none } ∧ (∀ k, k ≠ b → busAt t k = busAt s k) ∧
      riserAt t (x.line / 256) = .free ∧ (∀ k, k ≠ x.line / 256 → riserAt t k = riserAt s k) ∧
      Abandons s c id x (some .offHook) (giveSlot (runCleared s .south) .north).ports { s.engine with
        buses := t.engine.buses, risers := t.engine.risers, sessions := t.engine.sessions
        waiting := before ++ after } t := by
  let e : Engine := { s.engine with waiting := before ++ after }
  have kept : s.engine.orders.filter (fun o => o.order.owner ≠ .session id) = s.engine.orders :=
    List.filter_eq_self.2 fun y hy => decide_eq_true (hno y hy)
  have removed : s.engine.waiting.filter (fun o => o.owner ≠ .session id) = before ++ after := by
    rw [hw, List.filter_append, List.filter_cons_of_neg (by simp [ho]), ← List.filter_append]
    exact List.filter_eq_self.2 fun y hy => decide_eq_true (hother y hy)
  have session : sessionAt (offHookApplied s x.line) id = some x := by
    rw [sessionAt, offHookApplied_engine]
    exact (sessionAt_of_onLine hx).1
  have unsent : (offHookApplied s x.line).engine.waiting.any
      (fun o => o.owner = .session id ∧ o.kind = .riserOperate) = true := by
    rw [offHookApplied_engine, hw]
    simp [ho, hk']
  obtain ⟨ports, engine, -⟩ := offHookDropped_read hx hcl hout hm hq hu hub (e := e) rfl
  have run : dropReserved (offHookApplied s x.line) id false .abandoned =
      busReleased (freeRiser (offHookDropped s x.line e id) (x.line / 256)) b := by
    rw [dropReserved_unsent session hb unsent, giveUpOrders_offHook kept removed]
    rfl
  have bus (k : Nat) : busAt (offHookDropped s x.line e id) k = busAt s k := by rw [busAt, engine]; rfl
  have riser (k : Nat) : riserAt (offHookDropped s x.line e id) k = riserAt s k := by rw [riserAt, engine]; rfl
  have freed := freed_busReleased (s := offHookDropped s x.line e id) (n := x.line / 256) (b := b)
    (by rw [bus]; exact hrem) (by rw [bus, ha, hquar]; rfl)
  generalize busReleased (freeRiser (offHookDropped s x.line e id) (x.line / 256)) b = d at run freed
  have moved : d.engine = { s.engine with
      buses := d.engine.buses, risers := d.engine.risers, sessions := d.engine.sessions
      waiting := before ++ after } := by
    rw [freed.frame, engine]
  refine ⟨reportQueued s d c, freed.bus.trans (by rw [bus, hquar]; rfl), fun k hk => (freed.buses k hk).trans (bus k),
    freed.riser, fun k hk => (freed.risers k hk).trans (riser k), ?_⟩
  refine abandons_of h hk hr hc hx hst hoff hcl hout hm hsv hq hu hub (e := e) rfl run ?_ ?_ freed.hands (by omega)
    ?_ hub moved
  · rw [freed.frame]
  · rw [freed.frame]
  · rw [freed.frame]
    exact ports

/-- An order of the session's being out, the riser clean-up takes the bus over and requests `order`, placed as
`hplace` says (R34, R99). -/
theorem abandons_ordered {b : Nat} {before after : List OutstandingOrder} {o : OutstandingOrder} {order : Order}
    {timer : Option Nat} {q : Ports} (hb : x.bus = some b) (hw : s.engine.waiting = [])
    (hord : s.engine.orders = before ++ o :: after) (ho : o.order.owner = .session id)
    (hother : ∀ y ∈ before ++ after, y.order.owner ≠ .session id) (hlen : (before ++ after).length < 16)
    (horder : (if o.order.kind = .accessOperate then accessReleaseOrder x.line (.cleanUp b)
      else riserReleaseOrder (lineShelf x.line) b (.cleanUp b)) = order) (hqb : q.urgentBacklog = [])
    (hplace : ∀ w : State,
      nextOrderTag w = nextOrderTag { s with engine := { s.engine with orders := before ++ after } } →
      w.engine.orders = before ++ after →
      w.ports = { (runCleared s .south).ports with urgent := [testBlockCell (own s) x.line false] } →
      placeOrder w order = { w with
        ports := { q with urgent := [testBlockCell (own s) x.line false] }
        engine := { w.engine with
          candidate := (nextOrderTag w + 1) % 256
          orders := before ++ after ++ [{ tag := nextOrderTag w, order := order, timer := timer }] } }) :
    let otag := nextOrderTag { s with engine := { s.engine with orders := before ++ after } }
    ∃ t, busAt t b = { busAt s b with holder := .cleanUp } ∧ (∀ k, k ≠ b → busAt t k = busAt s k) ∧
      Abandons s c id x (some .offHook) { q with northSlots := q.northSlots + 1 } { s.engine with
        buses := t.engine.buses, sessions := t.engine.sessions, candidate := (otag + 1) % 256
        orders := before ++ after ++ [{ tag := otag, order := order, timer := timer }] } t := by
  intro otag
  let e : Engine := { s.engine with orders := before ++ after }
  have removed : s.engine.orders.filter (fun o => o.order.owner ≠ .session id) = before ++ after := by
    rw [hord, List.filter_append, List.filter_cons_of_neg (by simp [ho]), ← List.filter_append]
    exact List.filter_eq_self.2 fun y hy => decide_eq_true (hother y hy)
  have kept : s.engine.waiting.filter (fun o => o.owner ≠ .session id) = s.engine.waiting := by rw [hw]; rfl
  have session : sessionAt (offHookApplied s x.line) id = some x := by
    rw [sessionAt, offHookApplied_engine]
    exact (sessionAt_of_onLine hx).1
  have access : (offHookApplied s x.line).engine.orders.any
      (fun o => o.order.owner = .session id ∧ o.order.kind = .accessOperate) =
        decide (o.order.kind = .accessOperate) := by
    have none (l : List OutstandingOrder) (hl : ∀ y ∈ l, y.order.owner ≠ .session id) :
        l.any (fun o => o.order.owner = .session id ∧ o.order.kind = .accessOperate) = false :=
      List.any_eq_false.2 fun y hy => by simp [hl y hy]
    rw [offHookApplied_engine, hord, List.any_append, List.any_cons,
      none before fun y hy => hother y (List.mem_append_left _ hy),
      none after fun y hy => hother y (List.mem_append_right _ hy)]
    simp [ho]
  obtain ⟨ports, engine, audits⟩ := offHookDropped_read hx hcl hout hm hq hu hub (e := e) rfl
  let v := offHookDropped s x.line e id
  obtain ⟨y, held, buses⟩ := modBus_frame v b (fun x => { x with holder := .cleanUp })
  let w : State := { v with engine := { v.engine with buses := y } }
  have tag : nextOrderTag w = otag :=
    nextOrderTag_congr (congrArg (·.orders) engine) (congrArg (·.candidate) engine) audits
  have orders : w.engine.orders = before ++ after := congrArg (·.orders) engine
  have waiting : w.engine.waiting = [] := (congrArg (·.waiting) engine).trans hw
  have request : requestOrder w order = placeOrder w order :=
    requestOrder_places order (by rw [orders]; exact hlen) waiting
  have run : dropReserved (offHookApplied s x.line) id false .abandoned = placeOrder w order := by
    rw [dropReserved_ordered (o := order) session hb (by rw [offHookApplied_engine, hw])
      (by rw [access, ← horder]; simp), giveUpOrders_offHook removed kept, ← request]
    exact congrArg (requestOrder · order) held
  have placed := hplace w tag orders ports
  rw [tag] at placed
  have moved : (placeOrder w order).engine = { s.engine with
      buses := y, sessions := v.engine.sessions, candidate := (otag + 1) % 256
      orders := before ++ after ++ [{ tag := otag, order := order, timer := timer }] } := by
    rw [placed, show w.engine = { e with buses := y, sessions := v.engine.sessions } from
      congrArg (fun e : Engine => { e with buses := y }) engine]
  have same (k : Nat) : busAt (offHookDropped s x.line e id) k = busAt s k := by rw [busAt, engine]; rfl
  have bus (k : Nat) : busAt (placeOrder w order) k =
      if k = b then { busAt s b with holder := .cleanUp } else busAt s k := by
    rw [busAt, moved]
    exact (buses k).trans (by rw [same, same])
  generalize placeOrder w order = d at run placed moved bus
  refine ⟨reportQueued s d c, (bus b).trans (if_pos rfl), fun k hk => (bus k).trans (if_neg hk), ?_⟩
  refine abandons_of h hk hr hc hx hst hoff hcl hout hm hsv hq hu hub (e := e) rfl run ?_ ?_ (k := 0) (.of_eq ?_)
    (Nat.zero_le 8) ?_ hqb ?_
  · rw [placed]
  · rw [placed]
  · rw [placed]
  · rw [placed]
  · rw [show (reportQueued s d c).engine = d.engine from rfl, moved]

end

end Sys2Proof.Machine
end

section
/-! PROOFS. A DIAL session ended by an ON_HOOK without a digit, and O26. -/

namespace Sys2Proof.Machine
open Sys2Proof

variable {s t u : State} {i : Instr}

/-- An ON_HOOK in COLLECTING with no digit dialled ends the session NO_DIGITS, its record in its slot (R110, R137). -/
theorem exec_noDigits {c : Cell} {id n : Nat} {x : Session} (h : TransitArrives s .south c) (hk : c.kind = 0x11#8)
    (hq : NoRequests s) (hr : readReport c = some (x.line, .onHook)) (hc : (lineOf s x.line).cutOff = false)
    (hx : sessionOnLine s x.line = some (id, x)) (hst : x.state = .collecting)
    (hp : (collectorAt s id).phase ≠ .closed) (hd : (closeCollector (collectorAt s id)).digits = [])
    (hcl : x.cls = .demand) (hv : x.verdict = .notJudged) (hs : x.slot = some n) (hrq : x.requesters ≠ [])
    (hm : markOf s x.line ≠ .free) :
    ∃ t r, exec (.lineReport c) s = .next t ∧ sessionAt t id = none ∧ markOf t x.line = .free ∧
      (lineOf t x.line).hook = .idle ∧ (lineOf t x.line).blocked = false ∧ (collectorAt t id).phase = .closed ∧
      slotAt t n = .filled r (recipients x.requesters) 0 ∧ r.outcome = .noDigits ∧ r.line = x.line ∧
      r.session = some id := by
  have run := reportDelivered_dial (s := runCleared s .south) hr hc hx (.inr hst)
  obtain ⟨collector, engine⟩ := applyReport_read s x.line id .onHook
  have applied := reportApplied_applyReport (runCleared s .south) x.line .onHook
  generalize applyReport (runCleared s .south) x.line .onHook = u at run collector engine applied
  have session : sessionAt u id = some x := by rw [sessionAt, engine]; exact (sessionAt_of_onLine hx).1
  obtain ⟨e, finish, named⟩ := finishDial_noDigits (s := u) (collector ▸ hp) (collector ▸ hd) session
  let v : State := { u with
    engine := { u.engine with sessions := e }
    meas := { u.meas with collectors := tabPut collectorZero u.meas.collectors id collectorZero } }
  have mark : markOf u x.line = markOf s x.line := congrArg (fun a : Arbiter => tabGet Mark.free a.marks x.line)
    (congrArg (·.arbiter) applied.frame)
  have marked : markOf v x.line ≠ .free := mark ▸ hm
  obtain ⟨t, r, ended, gone, freed, line, meas, queue, slot, outcome, len, sess, hands⟩ :=
    finishSession_noDigits (s := v) (c := closeCollector (collectorAt u id)) named hcl hv hs hrq (collector ▸ hd) marked
  have dial : dialReport u id x .onHook (field2 c 3).toNat = t := by
    simp only [dialReport, hst]
    exact finish.trans ended
  rw [dial] at run
  have total : Hands 3 s (leaveSlot t .south) := applied.hands.trans hands
  have none : t.arbiter.queue = [] := queue.trans ((congrArg (·.arbiter.queue) applied.frame).trans hq)
  refine ⟨_, r, exec_lineReport h hk run total (by omega) (.inl none), gone, freed, ?_, ?_, ?_, slot, outcome, len,
    sess⟩
  · show (lineOf t x.line).hook = .idle
    rw [line]
    exact congrArg Line.hook applied.line
  · show (lineOf t x.line).blocked = false
    rw [line]
  · show (tabGet collectorZero t.meas.collectors id).phase = .closed
    rw [meas, show v.meas.collectors = _ from rfl, tabGet_tabPut_same]
    rfl

/-- The codes of the reports that take a line off-hook (R22). -/
theorem isOffHookReport_code {r : Report} : isOffHookReport r = true ↔ reportCode r ∈ [1#8, 6#8] := by
  cases r <;> decide

/-- The reports that are taken in COLLECTING without any effect on the collector (R134). -/
theorem hookReport_code {r : Report} (h : reportCode r ∈ [1#8, 5#8, 6#8]) :
    r ≠ .onHook ∧ r ≠ .loopOpen ∧ r ≠ .loopClose := by
  revert h
  cases r <;> decide

theorem onHook_code {r : Report} (h : reportCode r = 2#8) : r = .onHook := by
  revert h
  cases r <;> decide

theorem loopReport_code {r : Report} {opens : Bool} (h : reportCode r = if opens then 3#8 else 4#8) :
    r = if opens then .loopOpen else .loopClose := by
  revert h
  cases opens <;> cases r <;> decide

/-- The cells a riser clean-up's orders are sent as (section 11.5). -/
theorem relayOrderCell_accessRelease {a src : Octet} {len tag : Nat} (hc : src = BitVec.ofNat 8 (0x10 + len / 256))
    (w : Owner) : relayOrderCell a tag (accessReleaseOrder len w) =
      makeCell 0x21#8 a src ([BitVec.ofNat 8 tag, 3#8, 0#8] ++ octets2 len) := by
  subst hc
  rfl

/-- Settles O26: a report cut off or from another shelf, then by the step of the DIAL session, then a session in RESERVED abandoned. -/
theorem lineReportSuppressedOrUnread : Obligations.LineReportSuppressedOrUnread := by
  unfold Obligations.LineReportSuppressedOrUnread
  intro s c len h hk hl
  refine ⟨fun hs h1 h6 hcut => ?_, fun hs => ?_, ?_⟩
  · obtain ⟨r, hr⟩ := reportOf_known h1 h6
    refine exec_lineReport_plain h hk ?_ h.1.2
    simp only [reportDelivered, readReport_own hl hs hr, reportDisposed]
    exact if_pos hcut
  · refine exec_lineReport_plain h hk ?_ h.1.2
    simp only [reportDelivered, readReport_stranger hl hs]
    rfl
  · intro n id x code meaning hq hn hln hsrc hcode hmem hcut hx applied ports z stamp consumed
    obtain ⟨r, rfl, rfl⟩ := report_of_meaning hmem
    obtain ⟨hs, rfl, -⟩ := sessionAt_of_onLine hx
    subst hln
    have read : readReport c = some (x.line, r) :=
      readReport_own hl (hsrc ▸ shelfOf_shelfAddress hn) (hcode ▸ reportOf_code r)
    refine ⟨fun hst hz hd => ?_, fun hst hz hd => ?_, fun hst hoff hcl hout hm hsv hu hub => ?_⟩
    · have dial := Or.inl hst (b := x.state = .collecting)
      refine ⟨fun hoff => ?_, fun hno => ?_⟩
      · have off := isOffHookReport_code.2 hoff
        exact consumed_opens h hk hq read hcut hx dial hst off (collectReport_off hz off)
      · have on : isOffHookReport r = false := Bool.eq_false_iff.2 fun e => hno (isOffHookReport_code.1 e)
        exact consumed_kept h hk hq read hcut hx dial (.inl ⟨hst, on⟩) (collectReport_waiting hz on) hd
    · have dial := Or.inr hst (a := x.state = .awaitOffHook)
      refine ⟨fun hh => ?_, fun opens ho => ?_, fun slot ho hdg hb hp _ hcl hv hsl hrq hout hm => ?_⟩
      · obtain ⟨hon, hloop⟩ := hookReport_code hh
        exact consumed_kept h hk hq read hcut hx dial (.inr ⟨hst, hon⟩) (collectReport_hook hz hloop) hd
      · obtain rfl := loopReport_code ho
        have notOn : (if opens then Report.loopOpen else .loopClose) ≠ .onHook := by cases opens <;> decide
        have loop (a : Collector) (ha : loopReport z opens stamp = a) (hla : a.digits.length < a.limit) :=
          consumed_kept h hk hq read hcut hx dial (.inr ⟨hst, notOn⟩) ((collectReport_loop opens hz).trans ha) hla
        refine ⟨fun hp hlo => loop z (loopReport_same (.inl ⟨hp, hlo⟩)) hd,
          fun hp hlo => loop _ (loopReport_pends hp hlo) hd,
          fun o since hp => ⟨fun e => loop z (loopReport_same (.inr ⟨since, e ▸ hp⟩)) hd,
            fun hne he => loop _ (loopReport_drops hp hne he) hd, fun eo eop he hshort => ?_, fun eo eop he => ?_⟩⟩
        · subst eo eop
          exact loop _ (loopReport_confirms (opens := false) hp (by decide) he (confirmPending_open hp hd hshort) hd) hd
        · subst eo eop
          exact loop _ (loopReport_confirms (opens := true) hp (by decide) he (confirmPending_close hp) hd) hd
      · obtain rfl := onHook_code ho
        exact exec_noDigits h hk hq read hcut hx hst (by rw [hz]; exact nofun) (closeCollector_noDigits hd hdg hb hp)
          hcl hv hsl hrq hm
    · have off := isOffHookReport_code.2 hoff
      have meaning := (applyReport_offHook (s := s) x.line off).2
      refine ⟨fun hb => ?_, fun b before o after hb hw hk' ho hother hno ha hquar hrem => ?_, ?_⟩
      · have done := abandons_dial h hk read hcut hx hst off hcl hout hm hsv hq hu hub hb
        rw [← meaning] at done
        exact done
      · have done := abandons_unsent h hk read hcut hx hst off hcl hout hm hsv hq hu hub hb hw hk' ho hother hno ha hquar
          hrem
        rw [← meaning] at done
        exact done
      · intro b before o after hb hw hord ho hother hlen otag cleans
        have ordered {order : Order} {timer : Option Nat} {q : Ports} (horder : _ = order)
            (hqb : q.urgentBacklog = []) :=
          abandons_ordered h hk read hcut hx hst off hcl hout hm hsv hq hu hub (timer := timer) hb hw hord ho hother
            hlen horder hqb
        refine ⟨fun hk' hback hroom => ?_, ?_⟩
        · have done := ordered (q := { (runCleared s .south).ports with
            southQueue := s.ports.southQueue ++ [makeCell 0x21#8 (own s) c.src
              ([BitVec.ofNat 8 otag, 4#8, BitVec.ofNat 8 b] ++ octets2 0)] }) (timer := some 40) (if_neg hk') hub
            fun w ht hwo hwp => ?_
          · rw [← meaning] at done
            exact done
          · have same : own w = own s := by rw [own, hwp]; rfl
            have cell := relayOrderCell_riserRelease (a := own w) (n := lineShelf x.line) (tag := nextOrderTag w) hsrc b
              (.cleanUp b)
            rw [placeOrder_plain _ (by rw [hwo]; exact hlen) (by rw [hwp]; exact hroom) (by rw [hwp]; exact hback)
              (by simp [riserReleaseOrder]), orderPlaced_eq cell, same, hwp, hwo, ht]
            rfl
        · intro cell hk' hback hmem
          have done := ordered (q := { (runCleared s .south).ports with southBacklog := s.ports.southBacklog ++ [cell] })
            (timer := none) (if_pos hk') hub fun w ht hwo hwp => ?_
          · rw [← meaning] at done
            exact done
          · have same : own w = own s := by rw [own, hwp]; rfl
            have sent : relayOrderCell (own w) (nextOrderTag w) (accessReleaseOrder x.line (.cleanUp b)) = cell := by
              rw [relayOrderCell_accessRelease hsrc, same, ht]
            have backlog : w.ports.southBacklog = s.ports.southBacklog := by rw [hwp]; rfl
            rw [placeOrder_eq, sent,
              offerSouth_waits (.inr (by show w.ports.southBacklog ≠ []; rw [backlog]; exact hback))
              (by show cell ∉ w.ports.southBacklog; rw [backlog]; exact hmem), orderEntered, hwp, hwo]
            rfl

end Sys2Proof.Machine
end

section
/-! PROOFS. What every step keeps of the derived counts and the block values, and O6. -/

namespace Sys2Proof.Machine
open Sys2Proof

variable {s t : State} {i : Instr}

/-- From `s` to `t` the derived counts stay those of the line table (R24) and the block values those of the marks
(R40). -/
def KeepsSupervision (s t : State) : Prop :=
  (HookCountsAgree s.tracker → HookCountsAgree t.tracker) ∧ (BlocksMatch s → BlocksMatch t)

theorem KeepsSupervision.refl (s : State) : KeepsSupervision s s := ⟨id, id⟩

theorem KeepsSupervision.trans {u : State} (h : KeepsSupervision s t) (k : KeepsSupervision t u) :
    KeepsSupervision s u := ⟨k.1 ∘ h.1, k.2 ∘ h.2⟩

theorem Follows.keepsSupervision (h : Follows s t) : KeepsSupervision s t := ⟨h.hooks, h.blocks⟩

/-- Neither law reads the ports. -/
theorem keepsSupervision_onPorts (s : State) (f : Ports → Ports) : KeepsSupervision s (onPorts s f) := ⟨id, id⟩

theorem keepsSupervision_modPort (s : State) (p : Side) (f : Port → Port) : KeepsSupervision s (modPort s p f) := by
  cases p <;> exact ⟨id, id⟩

theorem keepsSupervision_resetAssert (h : exec .resetAssert s = .next t) : KeepsSupervision s t := by
  cases ha : s.ports.resetAsserted with
  | true =>
    obtain rfl := Host.Outcome.next.inj ((exec_resetAssert_of_reset ha).symm.trans h)
    exact .refl s
  | false =>
    obtain rfl := Host.Outcome.next.inj ((exec_resetAssert_of_awake ha).symm.trans h)
    exact keepsSupervision_onPorts s _

/-- The release of RESET meets both laws whatever was before it, its tables being those of the state after reset (R42). -/
theorem keepsSupervision_powerOnReset {x : BitVec 2} (h : exec (.powerOnReset x) s = .next t) :
    KeepsSupervision s t := by
  obtain rfl := Host.Outcome.next.inj h
  obtain ⟨-, -, -, hooks, -, -, blocks, -⟩ := resetMeetsLaws
  exact ⟨fun _ => hooks, fun _ => blocks⟩

/-- A cell time in PRESYNC, of a cell of any length, changes the receiver alone. -/
theorem keepsSupervision_presyncCell {p : Side} {c : Option Cell} (h : exec (.presyncCell p c) s = .next t) :
    KeepsSupervision s t := by
  rcases follows_of_onLink h with k | k
  · exact k.keepsSupervision
  · refine .trans ?_ k.keepsSupervision
    split
    · exact keepsSupervision_modPort s p _
    · exact .refl s

theorem keepsSupervision_exec (h : exec i s = .next t) : KeepsSupervision s t := by
  cases i with
  | resetAssert => exact keepsSupervision_resetAssert h
  | powerOnReset x => exact keepsSupervision_powerOnReset h
  | presyncCell p c => exact keepsSupervision_presyncCell h
  | _ => exact (follows_exec h rfl nofun).keepsSupervision

theorem lines_tick (s : State) : (tick s).tracker.lines = s.tracker.lines := by simp only [tick]
theorem marks_tick (s : State) : (tick s).arbiter.marks = s.arbiter.marks := by simp only [tick]

theorem shelves_tick (s : State) (n : Nat) : tabGet shelfZero (tick s).tracker.shelves n =
    if n < 16 then tickShelf (tabGet shelfZero s.tracker.shelves n) else tabGet shelfZero s.tracker.shelves n := by
  simp only [tick, tabGet_tabAll]

/-- A millisecond changes the shelves' timers alone of what the counts and block values are read from. -/
theorem keepsSupervision_tick (s : State) : KeepsSupervision s (tick s) := by
  refine ⟨fun ⟨rising, counts⟩ => ⟨(lines_tick s).symm ▸ rising, fun n => ?_⟩, fun h len => ?_⟩
  · rw [shelves_tick, hookCount, hookCount, lines_tick]
    split
    · exact counts n
    · exact counts n
  · rw [lineOf, markOf, lines_tick, marks_tick]
    exact h len

/-- Settles O6: each row keeps the counts and the block values, and so does the millisecond. -/
theorem stepKeepsHookCounts : Obligations.StepKeepsHookCounts := by
  intro s t h
  rcases step_cases h with ⟨i, rest, -, h⟩ | ⟨-, i, -, -, h⟩ | ⟨-, rfl | rfl⟩
  · exact keepsSupervision_exec (s := { s with pending := rest }) h
  · exact keepsSupervision_exec h
  · exact KeepsSupervision.refl _
  · exact keepsSupervision_tick s

end Sys2Proof.Machine
end

section
/-! PROOFS. LINE REPORTs and LINE ORDERs that are passed with their effect on the line table, and O25 and O27. -/

namespace Sys2Proof.Machine
open Sys2Proof

variable {s t u : State} {i : Instr}

/-! ### Delivery by destination (R7, R9) -/

theorem deliverCell_transit {p : Side} {c : Cell} (h : TransitArrives s p c) (hk : c.kind ≠ kindIdle) :
    deliverCell s p c = dispose (runCleared s p) p c (otherDisposition p c.kind) := by
  obtain ⟨-, sync, good, other⟩ := h
  rw [deliverCell_good sync good, dispositionOf_other good hk other]

theorem deliverCell_own {p : Side} {c : Cell} (h : OwnArrives s p c) (hk : c.kind ≠ kindIdle) :
    deliverCell s p c = dispose (runCleared s p) p c (ownDisposition p c.kind) := by
  obtain ⟨-, sync, good, own⟩ := h
  rw [deliverCell_good sync good, dispositionOf_own good hk own]

theorem lineOrder_delivered {c : Cell} (h : TransitArrives s .north c) (hk : c.kind = 0x12#8) :
    deliverCell s .north c = lineOrderDelivered (runCleared s .north) c := by
  rw [deliverCell_transit h (by rw [hk]; decide), hk]
  rfl

/-! ### The line last written changed without its hook state -/

/-- A change of the line last written that keeps its hook state moves no count (R24). -/
theorem hookCount_modLine_listed {len n : Nat} {sort : Hook → Bool} {f : Line → Line}
    (hf : ∀ x, (f x).hook = x.hook) (hu : sort .unknown = false)
    (hl : ∃ table v, s.tracker.lines = tabPut lineZero table len v) :
    hookCount (modLine s len f).tracker n sort = hookCount s.tracker n sort := by
  obtain ⟨table, v, listed⟩ := hl
  have changed : (modLine s len f).tracker = { s.tracker with lines := tabPut lineZero table len (f v) } := by
    rw [← tabMod_tabPut, ← listed]
    rfl
  have before : s.tracker = { s.tracker with lines := tabPut lineZero table len v } := by rw [← listed]
  rw [changed, hookCount_tabPut s.tracker table len n hu (hf v), ← before]

theorem HookWritten.modLine {len : Nat} {l : Line} (h : HookWritten s t len l) {f : Line → Line}
    (hf : ∀ x, (f x).hook = x.hook) : HookWritten s (modLine t len f) len (f l) where
  line := by rw [lineOf_modLine, if_pos rfl, h.line]
  others := fun k hk => by rw [lineOf_modLine, if_neg hk, h.others k hk]
  shelf := fun k => by
    rw [hookCount_modLine_listed hf rfl h.listed, hookCount_modLine_listed hf rfl h.listed]
    exact h.shelf k
  window := fun k => by
    rw [hookCount_modLine_listed hf rfl h.listed]
    exact h.window k
  listed := by
    obtain ⟨table, v, listed⟩ := h.listed
    exact ⟨table, f v, (congrArg (fun x => tabMod lineZero x len f) listed).trans (tabMod_tabPut ..)⟩
  frame := congrArg (fun x => Machine.modLine x len f) h.frame

/-! ### A LINE REPORT passed (R22) -/

theorem reportDelivered_passed {c : Cell} {len : Nat} {r : Report} (hr : readReport c = some (len, r))
    (hc : (lineOf s len).cutOff = false) (hx : sessionOnLine s len = none) :
    reportDelivered s c = passReport s c len r := by
  simp only [reportDelivered, hr, reportDisposed, hc, Bool.false_eq_true, if_false, hx]

/-- A passed report with a hook meaning. -/
theorem passReport_meaning {c : Cell} {len : Nat} {r : Report} {h : Hook} (hm : reportMeaning r = some h) :
    passReport s c len r = passOn (modLine (writeHook s len h) len (fun l => { l with lastForwarded := h })) .south c := by
  simp only [passReport, applyReport, forwardReport, hm]

/-- A passed LOOP_OPEN or LOOP_CLOSE. -/
theorem passReport_loop {c : Cell} {len : Nat} {r : Report} (hm : reportMeaning r = none) :
    passReport s c len r = passOn (modLine s len (fun l => { l with writtenAt := s.tracker.ageClock })) .south c := by
  simp only [passReport, applyReport, forwardReport, hm]

/-- Settles O25: a report with a hook meaning is a hook write with its last forwarded value behind it, and a loop report
a write of the age alone. -/
theorem lineReportApplied : Obligations.LineReportApplied := by
  unfold Obligations.LineReportApplied
  intro s c n len code meaning h hq hk hsrc hn hlen hln hcode hmem hcut hx
  obtain ⟨r, rfl, hm⟩ := report_of_meaning hmem
  subst hln
  have read : readReport c = some (len, r) :=
    readReport_own hlen (hsrc ▸ shelfOf_shelfAddress hn) (hcode ▸ reportOf_code r)
  have run := reportDelivered_passed (s := runCleared s .south) read hcut hx
  cases meaning with
  | none =>
    rw [passReport_loop hm] at run
    have line (k : Nat) := lineOf_modLine (s := s) len k (fun l => { l with writtenAt := s.tracker.ageClock })
    refine ⟨_, exec_lineReport_plain h hk run h.1.2, (line len).trans (if_pos rfl),
      fun k hk => (line k).trans (if_neg hk), fun k => (if_neg fun e => e.1 rfl).symm, fun b => ?_, rfl⟩
    simp only [ne_eq, not_true_eq_false, false_and, if_false, Option.map_id']
    rfl
  | some hook =>
    rw [passReport_meaning hm] at run
    have written := (hookWritten_writeHook (runCleared s .south) len hook).modLine
      (f := fun l => { l with lastForwarded := hook }) fun _ => rfl
    have hands : Hands 1 s (modLine (writeHook (runCleared s .south) len hook) len
        (fun l => { l with lastForwarded := hook })) := hands_writeHook (runCleared s .south) len hook
    generalize modLine (writeHook (runCleared s .south) len hook) len _ = v at run written hands
    have queue : v.arbiter.queue = [] := (congrArg (·.arbiter.queue) written.frame).trans hq
    have step := exec_lineReport h hk run (t := passOn v .south c) hands (by omega) (.inl queue)
    refine ⟨_, step, written.line, written.others, fun k => (written.shelf k).trans (by simp; rfl),
      fun b => (written.window b).trans (by simp; rfl),
      congrArg (fun x => ({ passOn x .south c with agenda := s.agenda } : State)) written.frame⟩

/-! ### Ring orders for lines that are not under test (R23) -/

theorem readLineOrder_own {c : Cell} {len : Nat} {o : LineOrderCode} (hl : (field2 c 0).toNat = len)
    (hs : shelfOf c.dst = some (len / 256)) (ho : lineOrderOf (payloadAt c 2) = some o) :
    readLineOrder c = some (len, o) := by
  subst hl
  simp only [readLineOrder, ho, lineShelf, hs, if_true]

theorem underTest_free {len : Nat} (h : markOf s len = .free) : underTest s len = false := by
  simp only [underTest, h, ne_eq, not_true_eq_false, decide_false]

theorem underTest_marked {len : Nat} (h : markOf s len ≠ .free) : underTest s len = true := decide_eq_true h

theorem lineOrderDelivered_ring {c : Cell} {len : Nat} (hr : readLineOrder c = some (len, .applyRing)) :
    lineOrderDelivered s c = applyRing s c len := by
  simp only [lineOrderDelivered, hr]

theorem applyRing_passes {c : Cell} {len : Nat} (hm : markOf s len = .free) (hc : (lineOf s len).cutOff = false) :
    applyRing s c len = writeHook (passOn s .north c) len .ringing := by
  rw [applyRing, if_pos (underTest_free hm), hc]
  rfl

/-- A STOP_RING for a line in no session, not under test. -/
theorem lineOrderDelivered_stop {c : Cell} {len : Nat} (hr : readLineOrder c = some (len, .stopRing))
    (hm : markOf s len = .free) (hx : sessionOnLine s len = none) : lineOrderDelivered s c =
      if (lineOf s len).hook = .ringing then writeHook (passOn s .north c) len .idle else passOn s .north c := by
  have noHeld : dropHeldOrder (passOn s .north c) len = passOn s .north c := by
    rw [dropHeldOrder, show sessionOnLine (passOn s .north c) len = none from hx]
  have free : underTest (passOn s .north c) len = false := underTest_free (s := passOn s .north c) hm
  simp only [lineOrderDelivered, hr, stopRing, noHeld, free, Bool.false_and, true_and]
  rfl

/-- Settles O27: the order passed and the hook state it writes. -/
theorem ringOrdersOutsideTest : Obligations.RingOrdersOutsideTest := by
  unfold Obligations.RingOrdersOutsideTest
  intro s c len h hq hk hlen hs hm hx writes
  have delivered := lineOrder_delivered h hk
  have wrote (hook : Hook) (run : lineOrderDelivered (runCleared s .north) c =
      writeHook (passOn (runCleared s .north) .north c) len hook) : writes hook := by
    let passed := passOn (runCleared s .north) .north c
    have written := hookWritten_writeHook passed len hook
    have hands : Hands 1 s (writeHook passed len hook) := hands_writeHook passed len hook
    have queue : (writeHook passed len hook).arbiter.queue = [] :=
      (congrArg (·.arbiter.queue) written.frame).trans hq
    refine ⟨_, exec_of_examined rfl h.1 (delivered.trans run) hands (by omega) (.inl queue), written.line,
      written.others, fun k => (written.shelf k).trans ?_, written.window,
      congrArg (fun x => ({ x with agenda := s.agenda } : State)) written.frame⟩
    by_cases e : k = len / 256
    · subst e
      rw [if_pos rfl, if_pos rfl]
      rfl
    · rw [if_neg e, if_neg e]
      rfl
  refine ⟨fun hc hcut => wrote _ ?_, fun hc hr => wrote _ ?_, fun hc hr => ?_⟩
  · have read := readLineOrder_own (o := .applyRing) hlen hs (by rw [hc]; rfl)
    exact (lineOrderDelivered_ring read).trans (applyRing_passes (s := runCleared s .north) hm hcut)
  · have read := readLineOrder_own (o := .stopRing) hlen hs (by rw [hc]; rfl)
    exact (lineOrderDelivered_stop (s := runCleared s .north) read hm hx).trans (if_pos hr)
  · have read := readLineOrder_own (o := .stopRing) hlen hs (by rw [hc]; rfl)
    exact exec_of_delivered rfl h.1
      (delivered.trans ((lineOrderDelivered_stop (s := runCleared s .north) read hm hx).trans (if_neg hr))) h.1.2

end Sys2Proof.Machine
end

section
/-! PROOFS. Orders that go south from a session given up, ring orders for a cut-off line, and O28. -/

namespace Sys2Proof.Machine
open Sys2Proof

variable {s t u : State} {i : Instr}

/-! ### Orders sent south (R15, R90) -/

/-- `t` comes of `s` by orders to shelves and heads that join the South queue or wait for it: no LINE ORDER is among
them, Port S carries what it did, and of the rest the order table, the buses and the windows alone may change. -/
structure SentSouth (s t : State) : Prop where
  southTx : t.ports.southTx = s.ports.southTx
  cells : ∀ y ∈ t.ports.southQueue ++ t.ports.southBacklog, y.kind = 0x12#8 →
    y ∈ s.ports.southQueue ++ s.ports.southBacklog
  sessions : t.engine.sessions = s.engine.sessions
  tracker : t.tracker = s.tracker
  arbiter : t.arbiter = s.arbiter
  tickets : t.tickets = s.tickets
  interp : t.interp = s.interp
  agenda : t.agenda = s.agenda

theorem SentSouth.trans (h : SentSouth s t) (k : SentSouth t u) : SentSouth s u :=
  ⟨k.southTx.trans h.southTx, fun y hy hk => h.cells y (k.cells y hy hk) hk, k.sessions.trans h.sessions,
    k.tracker.trans h.tracker, k.arbiter.trans h.arbiter, k.tickets.trans h.tickets, k.interp.trans h.interp,
    k.agenda.trans h.agenda⟩

/-- A change of the engine that leaves its sessions. -/
theorem sentSouth_onEngine (s : State) {f : Engine → Engine} (hf : (f s.engine).sessions = s.engine.sessions) :
    SentSouth s (onEngine s f) :=
  ⟨rfl, fun _ hy _ => hy, hf, rfl, rfl, rfl, rfl, rfl⟩

theorem sentSouth_onMeas (s : State) (f : Measurement → Measurement) : SentSouth s (onMeas s f) :=
  ⟨rfl, fun _ hy _ => hy, rfl, rfl, rfl, rfl, rfl, rfl⟩

theorem SentSouth.refl (s : State) : SentSouth s s := sentSouth_onEngine s (f := id) rfl

/-- Without room a cell joins the offer backlog, or waits there already (R15). -/
theorem sentSouth_offer_waits {c : Cell} (hk : c.kind ≠ 0x12#8)
    (hr : ¬ (s.ports.southQueue.length < Config.southCapacity ∧ s.ports.southBacklog = [])) :
    SentSouth s (offerSouth s c) := by
  rw [offerSouth, if_neg hr]
  split
  · exact .refl s
  · refine ⟨rfl, fun y hy hyk => ?_, rfl, rfl, rfl, rfl, rfl, rfl⟩
    simp only [onPorts_ports, List.mem_append, List.mem_singleton] at hy ⊢
    rcases hy with hy | hy | rfl
    · exact .inl hy
    · exact .inr hy
    · exact absurd hyk hk

/-- A cell that joins the South queue and does nothing else. -/
theorem sentSouth_joined {c : Cell} (hk : c.kind ≠ 0x12#8) :
    SentSouth s { s with ports := { s.ports with southQueue := s.ports.southQueue ++ [c] } } := by
  refine ⟨rfl, fun y hy hyk => ?_, rfl, rfl, rfl, rfl, rfl, rfl⟩
  simp only [List.mem_append, List.mem_singleton] at hy ⊢
  rcases hy with (hy | rfl) | hy
  · exact .inl hy
  · exact absurd hyk hk
  · exact .inr hy

/-- HEAD STOP starts no timer as it joins (R126). -/
theorem joinSouth_headStop (o : Octet) (b tag : Nat) : joinSouth s (headStopCell o b tag) =
    { s with ports := { s.ports with southQueue := s.ports.southQueue ++ [headStopCell o b tag] } } := by
  have code : payloadAt (headStopCell o b tag) 0 = 2#8 := payloadAt_makeCell _ _ _ _ (by decide)
  have stop : ¬ payloadAt (headStopCell o b tag) 0 = 1#8 := by rw [code]; decide
  have joins : joinSouth s (headStopCell o b tag) = headOrderJoined
      (onPorts s (fun p => { p with southQueue := p.southQueue ++ [headStopCell o b tag] })) (headStopCell o b tag) := rfl
  rw [joins, headOrderJoined]
  split
  · rfl
  · split
    · rfl
    · rw [if_neg fun e => stop e.1]
      rfl

theorem sentSouth_headStop (o : Octet) (b tag : Nat) : SentSouth s (offerSouth s (headStopCell o b tag)) := by
  have kind : (headStopCell o b tag).kind ≠ 0x12#8 := by
    show (0x31#8 : Octet) ≠ _
    decide
  by_cases hr : s.ports.southQueue.length < 32 ∧ s.ports.southBacklog = []
  · rw [offerSouth_joins _ hr.1 hr.2, joinSouth_headStop]
    exact sentSouth_joined kind
  · exact sentSouth_offer_waits kind hr

/-- An order whose joining starts its own timer alone is requested: it joins, waits for room, or waits for an entry
(R15, R90). -/
theorem sentSouth_requestOrder (o : Order) (hk : o.kind ∈ [OrderKind.riserOperate, .accessRelease, .riserRelease]) :
    SentSouth s (requestOrder s o) := by
  by_cases he : orderEntryFree s = true
  · have orders : s.engine.orders.length < 16 := (of_decide_eq_true he).1
    rw [requestOrder, if_pos he]
    by_cases hr : s.ports.southQueue.length < 32 ∧ s.ports.southBacklog = []
    · rw [placeOrder_plain o orders hr.1 hr.2 hk]
      exact (sentSouth_onEngine s (f := fun e => { e with
        candidate := (nextOrderTag s + 1) % 256
        orders := e.orders ++ [{ tag := nextOrderTag s, order := o, timer := some 40 }] }) rfl).trans
        (sentSouth_joined (c := relayOrderCell (own s) (nextOrderTag s) o) (by show (0x21#8 : Octet) ≠ _; decide))
    · rw [placeOrder_eq]
      have entered : SentSouth s (orderEntered s o) := sentSouth_onEngine s (f := fun e => { e with
        candidate := (nextOrderTag s + 1) % 256
        orders := e.orders ++ [{ tag := nextOrderTag s, order := o, timer := none }] }) rfl
      exact entered.trans (sentSouth_offer_waits (by show (0x21#8 : Octet) ≠ _; decide) hr)
  · rw [requestOrder, if_neg he]
    exact sentSouth_onEngine s rfl

/-! ### A session with its bus connected, given up (R99) -/

/-- The same change of a session before the orders go as behind them. -/
theorem SentSouth.modSession (h : SentSouth s t) (id : Nat) (f : Session → Session) :
    SentSouth (modSession s id f) (modSession t id f) :=
  ⟨h.southTx, h.cells, congrArg (fun x => tabMod none x id (fun y => y.map f)) h.sessions, h.tracker, h.arbiter,
    h.tickets, h.interp, h.agenda⟩

/-- A session's part of the release it requests (R98). -/
def releasing (x : Session) : Session := { x with state := .releasing, accessReleased := false }

theorem sentSouth_requestRelease (id : Nat) (x : Session) :
    SentSouth (modSession s id releasing) (requestRelease s id x) :=
  sentSouth_requestOrder _ (by simp [accessReleaseOrder])

/-- The window of a session given up closes, and HEAD STOP goes before the ACCESS RELEASE (R99, R127). -/
theorem sentSouth_stopAndRelease {x : Session} (id : Nat) (hb : x.bus.isSome = true) :
    SentSouth (modSession s id releasing) (stopAndRelease s id x) := by
  obtain ⟨b, bus⟩ := Option.isSome_iff_exists.1 hb
  have closed : SentSouth s (closeWindow s b) :=
    sentSouth_onMeas s (fun m => { m with windows := tabPut none m.windows b none })
  simp only [stopAndRelease, bus]
  exact ((closed.trans (sentSouth_headStop _ b _)).modSession id releasing).trans (sentSouth_requestRelease id x)

/-- The release that an ending cause begins from CONNECTING, SETTLING or MEASURING, its outcome named (R99). -/
theorem sentSouth_endSession {id : Nat} {x : Session} (o : EndOutcome) (hx : sessionAt s id = some x)
    (hb : x.bus.isSome = true) (ho : x.outcome = none)
    (hst : x.state ∈ [SessionState.connecting, .settling, .measuring]) :
    SentSouth (modSession (modSession s id (fun y => { y with outcome := some o })) id releasing)
      (endSession s id o) := by
  simp only [endSession, hx, ho, Option.isSome_none, Bool.false_eq_true, if_false]
  simp only [List.mem_cons, List.not_mem_nil, or_false] at hst
  rcases hst with h | h | h
  · simp only [h]
    have givenUp : SentSouth _ (giveUpOrders (modSession s id (fun y => { y with outcome := some o })) (.session id)) :=
      sentSouth_onEngine _ rfl
    exact (givenUp.modSession id releasing).trans (sentSouth_requestRelease id x)
  · simp only [h]
    exact sentSouth_stopAndRelease id hb
  · simp only [h]
    exact sentSouth_stopAndRelease id hb

/-- An ending cause finds nothing to begin on a session that has its outcome or is releasing (R99). -/
theorem endSession_later {id : Nat} {x : Session} (hx : sessionAt s id = some x)
    (h : x.outcome.isSome = true ∨ x.state = .releasing) : endSession s id .abortedCall = s := by
  simp only [endSession, hx]
  split
  · rfl
  · next ho =>
    rw [h.resolve_left ho]
    rfl

/-! ### APPLY_RING for a cut-off line (R36, R37, R39) -/

theorem refuseRing_frame (s : State) (len : Nat) : (refuseRing s len).agenda = s.agenda := by
  obtain ⟨p, offered⟩ := offerTestBlock_frame s len true
  rw [refuseRing, offered]
  rfl

section
variable {c : Cell} {len id : Nat} {x : Session}

/-- A session that yields to a call: not a demand one, or on an EMERGENCY line (R36). -/
theorem yields_iff : (x.cls ≠ .demand ∨ ∃ d, directoryAt s len = some d ∧ d.emergency = true) ↔
    ¬ (x.cls = .demand ∧ isEmergency s len = false) := by
  have flag : (∃ d, directoryAt s len = some d ∧ d.emergency = true) ↔ isEmergency s len = true := by
    unfold isEmergency
    cases directoryAt s len with
    | none => simp
    | some d => simp
  rw [flag, Decidable.not_and_iff_or_not, Bool.not_eq_false]

theorem applyRing_free (hm : markOf s len = .free) (hc : (lineOf s len).cutOff = true) :
    applyRing s c len = leaveSlot s .north := by
  rw [applyRing, if_pos (underTest_free hm), if_pos hc]

theorem applyRing_alone (hm : markOf s len ≠ .free) (hx : sessionOnLine s len = none) :
    applyRing s c len = refuseRing s len := by
  simp only [applyRing, underTest_marked hm, Bool.true_eq_false, if_false, hx]

section
variable (hm : markOf s len ≠ .free) (hc : (lineOf s len).cutOff = true) (hx : sessionOnLine s len = some (id, x))
include hm hc hx

theorem applyRing_dial (hb : x.bus = none) : applyRing s c len = refuseRing s len := by
  simp only [applyRing, underTest_marked hm, Bool.true_eq_false, if_false, hx, hb, Option.isNone_none, if_true, hc,
    ite_self]

theorem applyRing_metallic (hb : x.bus.isSome = true) : applyRing s c len =
    if x.cls = .demand ∧ isEmergency s len = false then refuseRing s len else holdRing s c id x := by
  have bus : x.bus.isNone = false := by rw [Option.isNone_eq_false_iff]; exact hb
  simp only [applyRing, underTest_marked hm, Bool.true_eq_false, if_false, hx, bus, Bool.false_eq_true, hc, if_true]

end

/-- The order held against the session, which then hears of the call (R37). -/
theorem holdRing_held (hh : x.held = none) : holdRing s c id x =
    leaveSlot (endSession (modSession s id (fun y => { y with held := some c })) id .abortedCall) .north := by
  simp only [holdRing, hh, Option.isSome_none, Bool.false_eq_true, if_false]

end

/-- Settles O28, by the mark and the session of the cut-off line. -/
theorem applyRingNeverPassesCutOff : Obligations.ApplyRingNeverPassesCutOff := by
  unfold Obligations.ApplyRingNeverPassesCutOff
  intro s c len id x h hk hlen hs hc held consumed refused
  have read := readLineOrder_own (o := .applyRing) hlen hs (by rw [hc]; rfl)
  have delivered := (lineOrder_delivered h hk).trans (lineOrderDelivered_ring read)
  have ends {t : State} (run : applyRing (runCleared s .north) c len = t) (ht : t.agenda = []) :
      exec (.lineOrder c) s = .next t := exec_of_delivered rfl h.1 (delivered.trans run) ht
  have refuses (run : applyRing (runCleared s .north) c len = refuseRing (runCleared s .north) len) :
      exec (.lineOrder c) s = .next refused := ends run ((refuseRing_frame _ len).trans h.1.2)
  have marked (hm : markOf s len ≠ .free) : markOf (runCleared s .north) len ≠ .free := hm
  refine ⟨fun hm hcut hx hb => ?_, fun hm hx => ?_, fun hcut => ⟨fun hm => ?_, fun hm hx hb => ?_⟩⟩
  · have run := applyRing_metallic (s := runCleared s .north) (c := c) (marked (by rw [hm]; nofun)) hcut hx hb
    have session : sessionAt s id = some x := (sessionAt_of_onLine hx).1
    have holds (hh : held) : applyRing (runCleared s .north) c len = holdRing (runCleared s .north) c id x :=
      run.trans (if_neg (yields_iff.1 hh))
    let waits := modSession (runCleared s .north) id (fun y => { y with held := some c })
    have waiting : sessionAt waits id = some { x with held := some c } := sessionAt_modSession_same session
    refine ⟨fun hh hsome => ?_, fun hh hnone hlater => ?_, fun hh hnone hout hst => ?_, fun hh => ?_⟩
    · refine ends ((holds hh).trans ?_) h.1.2
      rw [holdRing, if_pos hsome]
      rfl
    · have later : endSession waits id .abortedCall = waits := endSession_later waiting hlater
      refine ends ((holds hh).trans ((holdRing_held hnone).trans ?_)) h.1.2
      rw [later]
      rfl
    · have sent := sentSouth_endSession (s := waits) .abortedCall waiting hb hout hst
      have named := sessionAt_modSession_same (f := fun y => { y with outcome := some .abortedCall }) waiting
      have table (j : Nat) : sessionAt (endSession waits id .abortedCall) j = _ :=
        congrArg (fun e => tabGet none e j) sent.sessions
      refine ⟨_, ends ((holds hh).trans (holdRing_held hnone)) (sent.agenda.trans h.1.2),
        (table id).trans (sessionAt_modSession_same named), fun j hj => (table j).trans ?_, sent.southTx, sent.cells,
        sent.tracker, sent.arbiter, sent.tickets, sent.interp⟩
      have other (u : State) (f : Session → Session) : sessionAt (modSession u id f) j = sessionAt u j := by
        rw [sessionAt_modSession, if_neg hj]
      exact (other _ releasing).trans ((other waits _).trans (other (runCleared s .north) _))
    · exact refuses (run.trans (if_pos (Decidable.not_not.1 fun no => hh (yields_iff.2 no))))
  · exact refuses (applyRing_alone (marked (by rw [hm]; nofun)) hx)
  · exact ends (applyRing_free (s := runCleared s .north) hm hcut) h.1.2
  · exact refuses (applyRing_dial (s := runCleared s .north) hm hcut hx hb)

end Sys2Proof.Machine
end

section
/-! PROOFS. A shelf's freshness and audit attempts: heartbeat and audit timers that run out, audit reports kept or
discarded, and O31, O33 and O34. -/

namespace Sys2Proof.Machine
open Sys2Proof

variable {s t u : State} {i : Instr}

/-! ### One shelf changed twice -/

theorem modShelf_modShelf (s : State) (n : Nat) (f g : Shelf → Shelf) :
    modShelf (modShelf s n f) n g = modShelf s n (fun x => g (f x)) := by
  have twice : tabMod shelfZero (tabMod shelfZero s.tracker.shelves n f) n g =
      tabMod shelfZero s.tracker.shelves n (fun x => g (f x)) := tabMod_tabPut ..
  simp only [modShelf, onTracker, twice]

theorem shelfAt_modShelf_same (s : State) (n : Nat) (f : Shelf → Shelf) :
    shelfAt (modShelf s n f) n = f (shelfAt s n) := (shelfAt_modShelf ..).trans (if_pos rfl)

theorem shelfAt_modShelf_other {n k : Nat} (f : Shelf → Shelf) (h : k ≠ n) :
    shelfAt (modShelf s n f) k = shelfAt s k := (shelfAt_modShelf ..).trans (if_neg h)

/-- The address a cell came from is the shelf's (section "Unit addresses"). -/
theorem shelfAddress_of_shelfOf {a : Octet} {n : Nat} (h : shelfOf a = some n) : shelfAddress n = a ∧ n ≤ 15 := by
  unfold shelfOf at h
  split at h
  · next range =>
    obtain rfl := Option.some.inj h
    refine ⟨BitVec.eq_of_toNat_eq ?_, by omega⟩
    rw [shelfAddress, octet, BitVec.toNat_ofNat]
    omega
  · cases h

/-! ### SUPERVISION_LOST (R113) -/

/-- A session as its shelf `n` is no longer trusted. -/
def marksLost (n : Nat) (x : Session) : Session :=
  if x.line / 256 = n then { x with supervisionLost := true } else x

theorem loseSupervision_frame (s : State) (n : Nat) :
    ∃ x, loseSupervision s n = { s with engine := { s.engine with sessions := x } } ∧
      ∀ id, tabGet none x id = (sessionAt s id).map (fun y => if id < 8 then marksLost n y else y) := by
  have upTo (k : Nat) : ∃ x, (List.range k).foldl (fun s id => modSession s id (marksLost n)) s =
        { s with engine := { s.engine with sessions := x } } ∧
      ∀ id, tabGet none x id = (sessionAt s id).map (fun y => if id < k then marksLost n y else y) := by
    induction k with
    | zero => exact ⟨_, rfl, fun id => by simp only [Nat.not_lt_zero, if_false, Option.map_id']; rfl⟩
    | succ k ih =>
      obtain ⟨x, marked, table⟩ := ih
      rw [List.range_succ, List.foldl_append, List.foldl_cons, List.foldl_nil, marked]
      refine ⟨_, rfl, fun id => (tabGet_tabMod ..).trans ?_⟩
      by_cases h : id = k
      · subst h
        rw [if_pos rfl, table]
        simp only [Nat.lt_irrefl, if_false, Nat.lt_succ_self, if_true, Option.map_id']
      · rw [if_neg h, table]
        simp only [Nat.lt_succ_iff_lt_or_eq, h, or_false]
  exact upTo 8

/-- A shelf comes into a freshness it is not trusted in: its sessions are marked where that is a change (R25, R113). -/
theorem distrustShelf_frame (s : State) (n : Nat) (f : Freshness) :
    ∃ x, distrustShelf s n f = { modShelf s n (fun y => { y with freshness := f, mismatch := false }) with
        engine := { s.engine with sessions := x } } ∧
      ∀ id, tabGet none x id = (sessionAt s id).map (fun y =>
        if (shelfAt s n).freshness ≠ f ∧ id < 8 ∧ y.line / 256 = n then { y with supervisionLost := true } else y) := by
  by_cases same : (shelfAt s n).freshness = f
  · refine ⟨s.engine.sessions, if_pos same, fun id => ?_⟩
    simp only [same, ne_eq, not_true_eq_false, false_and, if_false, Option.map_id']
    rfl
  · obtain ⟨x, marked, table⟩ :=
      loseSupervision_frame (modShelf s n (fun y => { y with freshness := f, mismatch := false })) n
    refine ⟨x, (if_neg same).trans marked, fun id => (table id).trans ?_⟩
    simp only [marksLost, ne_eq, same, not_false_eq_true, true_and, ite_and]
    rfl

/-! ### A heartbeat that runs out (R25) -/

/-- A step of the part whose effect is known and hands nothing on. -/
theorem live_of_effect {f : State → State} (ha : s.ports.resetAsserted = false) (run : f s = t) (ht : t.agenda = []) :
    live f s = .next t := by
  subst run
  exact live_of_settled ha ht

theorem exec_heartbeat {n : Fin 16} (ha : Awake s) (hr : (shelfAt s n).heartbeat.isSome = true)
    (run : heartbeatExpired s n = t) (ht : t.agenda = []) : exec (.heartbeatTimerExpiry n) s = .next t :=
  live_of_effect ha.1 ((if_pos hr).trans run) ht

/-- Settles O33: a STALE shelf's timer stops, and another shelf is distrusted besides. -/
theorem heartbeatExpiry : Obligations.HeartbeatExpiry := by
  unfold Obligations.HeartbeatExpiry
  intro s n ha hr
  let stopped := modShelf s n (fun x => { x with heartbeat := none })
  have shelf : shelfAt stopped n = { shelfAt s n with heartbeat := none } := shelfAt_modShelf_same ..
  by_cases hst : (shelfAt s n).freshness = .stale
  · have run : heartbeatExpired s n = stopped := if_pos (by rw [shelf]; exact hst)
    refine ⟨stopped, exec_heartbeat ha hr run ha.2, ?_, fun k hk => shelfAt_modShelf_other _ hk, fun id => ?_, rfl⟩
    · rw [shelf, if_pos hst, ← hst]
    · simp only [hst, ne_eq, not_true_eq_false, false_and, if_false, Option.map_id']
      rfl
  · obtain ⟨x, distrusted, table⟩ := distrustShelf_frame stopped n .stale
    have run : heartbeatExpired s n = _ := (if_neg (by rw [shelf]; exact hst)).trans distrusted
    rw [modShelf_modShelf] at run
    refine ⟨_, exec_heartbeat ha hr run ha.2, ?_, fun k hk => shelfAt_modShelf_other (s := s) _ hk, fun id => ?_, rfl⟩
    · refine (shelfAt_modShelf_same s n _).trans ?_
      rw [if_neg hst]
    · refine (table id).trans ?_
      rw [shelf]
      rfl

/-! ### An audit attempt sent (R28) -/

/-- The next tag does not read the timers and cards of the audits in flight, only their tags (R90). -/
theorem nextOrderTag_congr_tags (ho : t.engine.orders = s.engine.orders) (hc : t.engine.candidate = s.engine.candidate)
    (ha : ∀ n, (shelfAt t n).audit.map (·.tag) = (shelfAt s n).audit.map (·.tag)) : nextOrderTag t = nextOrderTag s := by
  have tags : outstandingTags t = outstandingTags s := by simp only [outstandingTags, ho, ha]
  rw [nextOrderTag, tags, hc, nextOrderTag]

/-- The part with an audit attempt of shelf `n` in flight, its order's cell set apart. -/
def auditInFlight (s : State) (n : Nat) (timer : Option Nat) : State :=
  { modShelf s n (fun x => { x with audit := some { tag := nextOrderTag s, timer := timer, cards := [] } }) with
    engine := { s.engine with candidate := (nextOrderTag s + 1) % 256 } }

theorem sendAudit_eq (s : State) (n : Nat) :
    sendAudit s n = offerSouth (auditInFlight s n none) (auditOrderCell (own s) n (nextOrderTag s)) := rfl

/-- An AUDIT ORDER that finds room joins, and the attempt's timer starts (R28). -/
theorem sendAudit_joins {n : Nat} (hn : n ≤ 15) (hq : s.ports.southQueue.length < 32) (hb : s.ports.southBacklog = []) :
    sendAudit s n = { auditInFlight s n (some 1000) with ports := { s.ports with
      southQueue := s.ports.southQueue ++ [auditOrderCell (own s) n (nextOrderTag s)] } } := by
  let cell := auditOrderCell (own s) n (nextOrderTag s)
  let flying := auditInFlight s n none
  let joined := onPorts flying (fun p => { p with southQueue := p.southQueue ++ [cell] })
  have shelf : shelfOf cell.dst = some n := shelfOf_shelfAddress hn
  have tag : (payloadAt cell 0).toNat = nextOrderTag s := by
    rw [show payloadAt cell 0 = octet (nextOrderTag s) from payloadAt_makeCell _ _ _ _ (by decide),
      octet_toNat (nextOrderTag_lt s)]
  have joins : offerSouth flying cell = auditOrderJoined joined cell := offerSouth_joins (s := flying) cell hq hb
  have timed : modShelf (modShelf s n (fun x => { x with
        audit := some { tag := nextOrderTag s, timer := none, cards := [] } })) n (fun x => { x with
        audit := x.audit.map (fun a =>
          if a.tag = nextOrderTag s ∧ a.timer = none then { a with timer := some Config.auditMs } else a) }) =
      modShelf s n (fun x => { x with audit := some { tag := nextOrderTag s, timer := some 1000, cards := [] } }) := by
    rw [modShelf_modShelf]
    exact modShelf_congr (by simp [Config.auditMs])
  rw [sendAudit_eq]
  refine joins.trans ?_
  simp only [auditOrderJoined, shelf, tag]
  exact congrArg (fun x : State => ({ x with
    ports := { s.ports with southQueue := s.ports.southQueue ++ [cell] }
    engine := { s.engine with candidate := (nextOrderTag s + 1) % 256 } } : State)) timed

/-- An AUDIT ORDER without room waits in the backlog, its attempt's timer not yet running (R15, R28). -/
theorem sendAudit_waits {n : Nat} (hr : 32 ≤ s.ports.southQueue.length ∨ s.ports.southBacklog ≠ [])
    (hc : auditOrderCell (own s) n (nextOrderTag s) ∉ s.ports.southBacklog) :
    sendAudit s n = { auditInFlight s n none with ports := { s.ports with
      southBacklog := s.ports.southBacklog ++ [auditOrderCell (own s) n (nextOrderTag s)] } } := by
  rw [sendAudit_eq]
  exact offerSouth_waits (s := auditInFlight s n none) hr hc

/-! ### An audit attempt that runs out (R31) -/

theorem exec_auditTimer {n : Fin 16} {a : Audit} (ha : Awake s) (hx : (shelfAt s n).audit = some a)
    (hr : a.timer.isSome = true) (run : auditExpired s n = t) (ht : t.agenda = []) :
    exec (.auditTimerExpiry n) s = .next t := by
  have running : auditRunning (shelfAt s n) = true := by simp only [auditRunning, hx, hr]
  exact live_of_effect ha.1 ((if_pos running).trans run) ht

theorem exec_auditTimer_stopped {n : Fin 16} (ha : Awake s) (h : ∀ a, (shelfAt s n).audit = some a → a.timer = none) :
    exec (.auditTimerExpiry n) s = .next s := by
  have stopped : ¬ auditRunning (shelfAt s n) = true := by
    unfold auditRunning
    split
    · next a hx => rw [h a hx]; nofun
    · nofun
  exact live_of_effect ha.1 (if_neg stopped) ha.2

/-- The part with an attempt of shelf `n` run out and counted. -/
def attemptLost (s : State) (n : Nat) : State :=
  modShelf s n (fun x => { x with audit := none, auditRetries := x.auditRetries + 1 })

theorem attemptLost_tag (s : State) (n : Nat) :
    nextOrderTag (attemptLost s n) = nextOrderTag (modShelf s n (fun y => { y with audit := none })) := by
  refine nextOrderTag_congr rfl rfl fun k => ?_
  rw [attemptLost, shelfAt_modShelf, shelfAt_modShelf]
  split
  · rfl
  · rfl

theorem auditExpired_again {n : Nat} (h : (shelfAt s n).auditRetries < 2) :
    auditExpired s n = sendAudit (attemptLost s n) n := by
  refine if_pos (?_ : (shelfAt (attemptLost s n) n).auditRetries < 3)
  rw [attemptLost, shelfAt_modShelf_same]
  exact Nat.succ_lt_succ h

/-- The third attempt to run out ends the audit (R31). -/
theorem auditExpired_third {n : Nat} (h : 2 ≤ (shelfAt s n).auditRetries) : auditExpired s n =
    distrustShelf (modShelf s n (fun x => { x with audit := none, auditRetries := 0 })) n .stale := by
  refine (if_neg (?_ : ¬ (shelfAt (attemptLost s n) n).auditRetries < 3)).trans ?_
  · rw [attemptLost, shelfAt_modShelf_same]
    exact Nat.not_lt.2 (Nat.succ_le_succ h)
  · rw [modShelf_modShelf]

/-- Settles O34, by the attempt and the room its order finds. -/
theorem auditExpiry : Obligations.AuditExpiry := by
  unfold Obligations.AuditExpiry
  intro s n ha x tag order room next
  have sameTag : nextOrderTag (attemptLost s n) = tag := attemptLost_tag s n
  have sends {a : Audit} {timer : Option Nat} {p : Ports} (hx : x.audit = some a) (hr : a.timer.isSome = true)
      (again : x.auditRetries < 2)
      (run : sendAudit (attemptLost s n) n = { auditInFlight (attemptLost s n) n timer with ports := p }) :
      next timer p := by
    rw [auditInFlight, attemptLost, modShelf_modShelf, ← attemptLost, sameTag] at run
    exact ⟨_, exec_auditTimer ha hx hr ((auditExpired_again again).trans run) ha.2, shelfAt_modShelf_same s n _,
      fun k hk => shelfAt_modShelf_other (s := s) _ hk, rfl⟩
  have cell : auditOrderCell (own (attemptLost s n)) n (nextOrderTag (attemptLost s n)) = order := by
    rw [sameTag]
    rfl
  refine ⟨fun a hx hr => ⟨fun third => ?_, fun again hroom => ?_, fun again hroom hmem => ?_⟩,
    exec_auditTimer_stopped ha⟩
  · obtain ⟨y, distrusted, table⟩ :=
      distrustShelf_frame (modShelf s n (fun x => { x with audit := none, auditRetries := 0 })) n .stale
    rw [modShelf_modShelf] at distrusted
    rw [shelfAt_modShelf_same] at table
    refine ⟨_, exec_auditTimer ha hx hr ((auditExpired_third third).trans distrusted) ha.2,
      shelfAt_modShelf_same s n _, fun k hk => shelfAt_modShelf_other (s := s) _ hk, fun id z hid hz => ?_, rfl⟩
    refine (table id).trans ?_
    rw [show sessionAt (modShelf s n _) id = some z from hz, Option.map_some]
    by_cases lost : x.freshness ≠ .stale ∧ z.line / 256 = n
    · refine (congrArg some (if_pos ⟨lost.1, hid, lost.2⟩)).trans ?_
      rw [decide_eq_true lost, Bool.or_true]
    · refine (congrArg some (if_neg fun e => lost ⟨e.1, e.2.2⟩)).trans ?_
      rw [decide_eq_false lost, Bool.or_false]
  · refine sends hx hr again ?_
    rw [sendAudit_joins (s := attemptLost s n) (Nat.le_of_lt_succ n.isLt) hroom.2 hroom.1, cell]
    rfl
  · have full : 32 ≤ s.ports.southQueue.length ∨ s.ports.southBacklog ≠ [] := by
      by_cases hb : s.ports.southBacklog = []
      · exact .inl (Nat.not_lt.1 fun hq => hroom ⟨hb, hq⟩)
      · exact .inr hb
    refine sends hx hr again ?_
    rw [sendAudit_waits (s := attemptLost s n) full (cell ▸ hmem), cell]
    rfl

/-! ### An audit report (R29) -/

theorem auditReport_delivered {c : Cell} (h : OwnArrives s .south c) (hk : c.kind = 0x24#8) :
    deliverCell s .south c = takeAuditReport (giveSlot (runCleared s .south) .north) c := by
  rw [deliverCell_own h (by rw [hk]; decide), hk]
  rfl

section
variable {c : Cell} {n : Nat} {a : Audit} (hs : shelfOf c.src = some n) (hx : (shelfAt s n).audit = some a)
include hs hx

/-- A report of the current attempt is kept against its card, and the sixteenth card completes the audit (R29, R30). -/
theorem takeAuditReport_taken {hooks : List Hook} (ht : (payloadAt c 0).toNat = a.tag) (hc : (payloadAt c 1).toNat ≤ 15)
    (hh : auditHooks c = some hooks) : takeAuditReport s c =
      if (tabPut [] a.cards (payloadAt c 1).toNat hooks).length = 16 then
        completeAudit s n (tabPut [] a.cards (payloadAt c 1).toNat hooks)
      else modShelf s n (fun x => { x with
        audit := some { a with cards := tabPut [] a.cards (payloadAt c 1).toNat hooks } }) := by
  simp only [takeAuditReport, hs, hx, hh, ht, hc, and_self, if_true]

theorem takeAuditReport_discarded
    (h : (payloadAt c 0).toNat ≠ a.tag ∨ 15 < (payloadAt c 1).toNat ∨ auditHooks c = none) :
    takeAuditReport s c = s := by
  simp only [takeAuditReport, hs, hx]
  split
  · next found hooks =>
    obtain rfl := Option.some.inj found
    refine if_neg fun taken => ?_
    rcases h with h | h | h
    · exact h taken.1.symm
    · exact absurd taken.2 (Nat.not_le.2 h)
    · rw [h] at hooks
      cases hooks
  · rfl

end

/-- Settles O31: a report taken leaves the set short of its sixteenth card, and one discarded leaves the slot alone. -/
theorem auditReportKeptOrDiscarded : Obligations.AuditReportKeptOrDiscarded := by
  unfold Obligations.AuditReportKeptOrDiscarded
  intro s c n a h hk hs hx
  have delivered := auditReport_delivered h hk
  let slotted := giveSlot (runCleared s .south) .north
  have audit : (shelfAt slotted n).audit = some a := hx
  refine ⟨fun hooks ht hc hh short => ?_, fun hd => ?_⟩
  · have kept := takeAuditReport_taken hs audit ht hc hh
    rw [if_neg (by omega)] at kept
    exact exec_of_delivered rfl h.1 (delivered.trans kept) h.1.2
  · exact exec_of_delivered rfl h.1 (delivered.trans (takeAuditReport_discarded hs audit hd)) h.1.2

end Sys2Proof.Machine
end

section
/-! PROOFS. SCAN SUMMARIES: the comparison, the audits and the RELEASE ALL they call for, and O29 and O30. -/

namespace Sys2Proof.Machine
open Sys2Proof

variable {s t u : State} {i : Instr}

/-! ### The fresh RELEASE ALL of a summary (R90, R115) -/

/-- A RELEASE ALL for the shelf is outstanding or waits, or one joined the South queue in the last 1,000 ms (R115). -/
def ReleaseAllPending (s : State) (n : Nat) : Prop :=
  (∃ o ∈ s.engine.orders, o.order.kind = .releaseAll ∧ o.order.shelf = n) ∨
    (∃ o ∈ s.engine.waiting, o.kind = .releaseAll ∧ o.shelf = n) ∨
    ∃ joined, tabGet none s.engine.releaseAllAt n = some joined ∧ s.clock < joined + 1000

/-- The order a summary requests for its shelf. -/
def freshOrder (n : Nat) : Order := releaseAllOrder n (.freshRelease n)

/-- A summary asks for a RELEASE ALL unless one is pending. -/
theorem freshReleaseAll_eq (s : State) (n : Nat) [Decidable (ReleaseAllPending s n)] : freshReleaseAll s n =
    if ReleaseAllPending s n then s else requestOrder s (freshOrder n) := by
  unfold freshReleaseAll
  refine ite_congr (propext ?_) (fun _ => rfl) (fun _ => rfl)
  rw [Bool.or_eq_true, Bool.or_eq_true, ReleaseAllPending, or_assoc]
  refine or_congr ?_ (or_congr ?_ ?_)
  · simp only [List.any_eq_true, decide_eq_true_eq]
  · simp only [List.any_eq_true, decide_eq_true_eq]
  · cases tabGet none s.engine.releaseAllAt n with
    | none => simp
    | some joined =>
      rw [decide_eq_true_eq]
      exact ⟨fun recent => ⟨joined, rfl, recent⟩, fun ⟨_, e, recent⟩ => Option.some.inj e ▸ recent⟩

/-- What a summary does about the risers of its shelf. -/
def releaseAsked (s : State) (n : Nat) : State := if (shelfAt s n).released then s else freshReleaseAll s n

theorem releaseAsked_quiet {n : Nat} (h : (shelfAt s n).released = true ∨ ReleaseAllPending s n) :
    releaseAsked s n = s := by
  classical
  unfold releaseAsked
  split
  · rfl
  · next unreleased => rw [freshReleaseAll_eq, if_pos (h.resolve_left unreleased)]

/-- The part with a shelf's fresh RELEASE ALL placed and its cell joined, the time kept for R115. -/
def releaseAllJoined (s : State) (n : Nat) : State :=
  { orderPlaced s (freshOrder n) with engine := { (orderPlaced s (freshOrder n)).engine with
    releaseAllAt := tabPut none s.engine.releaseAllAt n (some s.clock) } }

theorem releaseAsked_joins {n : Nat} (hr : (shelfAt s n).released = false) (hp : ¬ ReleaseAllPending s n)
    (ho : s.engine.orders.length < 16) (hw : s.engine.waiting = []) (hq : s.ports.southQueue.length < 32)
    (hb : s.ports.southBacklog = []) : releaseAsked s n = releaseAllJoined s n := by
  classical
  have unreleased : ¬ (shelfAt s n).released = true := Bool.eq_false_iff.1 hr
  rw [releaseAsked, if_neg unreleased, freshReleaseAll_eq, if_neg hp, requestOrder_places _ ho hw,
    placeOrder_releaseAll _ ho hq hb rfl]
  rfl

/-- The RELEASE ALL cell toward the shelf a summary came from (section 11.5). -/
theorem relayOrderCell_releaseAll {a src : Octet} {n tag : Nat} (hs : shelfOf src = some n) :
    relayOrderCell a tag (freshOrder n) = makeCell 0x21#8 a src [BitVec.ofNat 8 tag, 5#8, 0#8, 0#8, 0#8] := by
  obtain ⟨rfl, -⟩ := shelfAddress_of_shelfOf hs
  simp only [relayOrderCell, freshOrder, releaseAllOrder, orderCode, octets2, octet]
  rfl

/-! ### A summary read (R25, R26, R27) -/

theorem summary_delivered {c : Cell} {n : Nat} (h : TransitArrives s .south c) (hk : c.kind = 0x13#8)
    (hs : shelfOf c.src = some n) : deliverCell s .south c =
      passOn (readSummary (runCleared s .south) n (field2 c 0).toNat) .south c := by
  rw [deliverCell_transit h (by rw [hk]; decide), hk]
  show summaryDelivered _ c = _
  simp only [summaryDelivered, hs]

/-- The part with a shelf's heartbeat started again (R25). -/
def heartbeatStarted (s : State) (n : Nat) : State := modShelf s n (fun x => { x with heartbeat := some 500 })

theorem shelfAt_heartbeatStarted (s : State) (n : Nat) :
    shelfAt (heartbeatStarted s n) n = { shelfAt s n with heartbeat := some 500 } := shelfAt_modShelf_same ..

theorem freshness_heartbeatStarted (s : State) (n : Nat) :
    (shelfAt (heartbeatStarted s n) n).freshness = (shelfAt s n).freshness := by rw [shelfAt_heartbeatStarted]

theorem audit_heartbeatStarted (s : State) (n : Nat) :
    (shelfAt (heartbeatStarted s n) n).audit = (shelfAt s n).audit := by rw [shelfAt_heartbeatStarted]

section
variable {n count : Nat}

theorem readSummary_fresh (h : (shelfAt s n).freshness = .fresh) :
    readSummary s n count = releaseAsked (compareSummary (heartbeatStarted s n) n count) n := by
  have fresh := (freshness_heartbeatStarted s n).trans h
  unfold heartbeatStarted at fresh
  simp only [readSummary, Config.heartbeatMs, fresh]
  rfl

theorem readSummary_drift (h : (shelfAt s n).freshness = .drift) :
    readSummary s n count = releaseAsked (heartbeatStarted s n) n := by
  have drift := (freshness_heartbeatStarted s n).trans h
  unfold heartbeatStarted at drift
  simp only [readSummary, Config.heartbeatMs, drift]
  rfl

/-- A STALE shelf's summary starts an audit where none is in flight (R27). -/
theorem readSummary_stale (h : (shelfAt s n).freshness = .stale) : readSummary s n count =
    releaseAsked (if (shelfAt s n).audit.isNone then startAudit (heartbeatStarted s n) n else heartbeatStarted s n) n := by
  have stale := (freshness_heartbeatStarted s n).trans h
  have audit := audit_heartbeatStarted s n
  unfold heartbeatStarted at stale audit
  simp only [readSummary, Config.heartbeatMs, stale, audit]
  rfl

end

/-- A summary that agrees, or the first that differs, sets the mismatch and nothing else (R26). -/
theorem compareSummary_noted {n count : Nat} (h : count = (shelfAt s n).offHook ∨ (shelfAt s n).mismatch = false) :
    compareSummary s n count = modShelf s n (fun x => { x with mismatch := count ≠ x.offHook }) := by
  unfold compareSummary
  dsimp only
  split
  · next agrees => exact modShelf_congr (by simp only [← agrees, ne_eq, not_true_eq_false, decide_false])
  · next differs =>
    rw [if_pos (h.resolve_left differs)]
    exact modShelf_congr (by simp only [ne_eq, differs, not_false_eq_true, decide_true])

/-- The second summary in a row that differs (R26). -/
theorem compareSummary_drifts {n count : Nat} (h : count ≠ (shelfAt s n).offHook) (hm : (shelfAt s n).mismatch = true) :
    compareSummary s n count = startAudit (distrustShelf s n .drift) n := by
  have noted : ¬ (shelfAt s n).mismatch = false := by rw [hm]; nofun
  unfold compareSummary
  rw [if_neg h, if_neg noted]

/-! ### Summaries that start no audit (O29) -/

/-- A summary leaves the part as `base`, and with a fresh RELEASE ALL behind it where one is called for. -/
def SummaryLeaves (s : State) (c : Cell) (n : Nat) (base : State) : Prop :=
  ((shelfAt s n).released = true ∨ ReleaseAllPending s n → exec (.scanSummary c) s = .next base) ∧
  ((shelfAt s n).released = false → ¬ ReleaseAllPending s n → s.engine.orders.length < 16 → s.engine.waiting = [] →
    s.ports.southBacklog = [] → s.ports.southQueue.length < 32 →
    ∃ t, exec (.scanSummary c) s = .next t ∧ tabGet none t.engine.releaseAllAt n = some s.clock ∧
      (∀ k, k ≠ n → tabGet none t.engine.releaseAllAt k = tabGet none s.engine.releaseAllAt k) ∧
      t = { base with
        ports := { base.ports with southQueue := s.ports.southQueue ++
          [makeCell 0x21#8 (own s) c.src [BitVec.ofNat 8 (nextOrderTag s), 5#8, 0#8, 0#8, 0#8]] }
        engine := { s.engine with
          candidate := (nextOrderTag s + 1) % 256, releaseAllAt := t.engine.releaseAllAt
          orders := s.engine.orders ++ [{
            tag := nextOrderTag s
            order := { kind := .releaseAll, shelf := n, bus := 0, line := 0, owner := .freshRelease n }
            timer := some 40 }] } })

/-- A summary that changes its shelf alone, neither its release state nor its audit. -/
theorem summaryLeaves_of {c : Cell} {n : Nat} {f : Shelf → Shelf} (h : TransitArrives s .south c) (hk : c.kind = 0x13#8)
    (hs : shelfOf c.src = some n) (hf : ∀ x, (f x).audit = x.audit ∧ (f x).released = x.released)
    (run : readSummary (runCleared s .south) n (field2 c 0).toNat =
      releaseAsked (modShelf (runCleared s .south) n f) n) :
    SummaryLeaves s c n (transmit (modShelf (runCleared s .south) n f) .north (.cell c)) := by
  let noted := modShelf (runCleared s .south) n f
  have delivered := summary_delivered h hk hs
  rw [run] at delivered
  have shelf : shelfAt noted n = f (shelfAt s n) := shelfAt_modShelf_same (runCleared s .south) n f
  have released : (shelfAt noted n).released = (shelfAt s n).released := shelf ▸ (hf _).2
  have tag : nextOrderTag noted = nextOrderTag s := nextOrderTag_congr rfl rfl fun k => by
    by_cases e : k = n
    · subst e
      exact shelf ▸ (hf _).1
    · exact congrArg Shelf.audit (shelfAt_modShelf_other (s := runCleared s .south) f e)
  refine ⟨fun quiet => ?_, fun hr hp ho hw hb hq => ?_⟩
  · have kept : releaseAsked noted n = noted := releaseAsked_quiet (quiet.imp_left released.trans)
    rw [kept] at delivered
    exact exec_of_delivered rfl h.1 delivered h.1.2
  · have joins : releaseAsked noted n = releaseAllJoined noted n :=
      releaseAsked_joins (released.trans hr) hp ho hw hq hb
    rw [joins] at delivered
    refine ⟨_, exec_of_delivered rfl h.1 delivered h.1.2,
      tabGet_tabPut_same none s.engine.releaseAllAt n (some s.clock),
      fun k hk => tabGet_tabPut_other none s.engine.releaseAllAt (some s.clock) hk, ?_⟩
    simp only [releaseAllJoined, orderPlaced, relayOrderCell_releaseAll hs, tag]
    rfl

/-- Settles O29, by the shelf's freshness. -/
theorem scanSummaryCompared : Obligations.ScanSummaryCompared := by
  unfold Obligations.ScanSummaryCompared
  intro s c n h hk hs pending tag becomes
  let g := runCleared s .south
  refine ⟨fun fresh compared => ?_, fun only => ?_⟩
  · refine summaryLeaves_of h hk hs (fun _ => ⟨rfl, rfl⟩) ((readSummary_fresh (s := g) fresh).trans ?_)
    have shelf : shelfAt (heartbeatStarted g n) n = { shelfAt s n with heartbeat := some 500 } :=
      shelfAt_heartbeatStarted ..
    rw [compareSummary_noted (by rw [shelf]; exact compared), heartbeatStarted, modShelf_modShelf]
  · refine summaryLeaves_of h hk hs (fun _ => ⟨rfl, rfl⟩) ?_
    rcases only with drift | ⟨stale, flying⟩
    · exact readSummary_drift (s := g) drift
    · have flies : ¬ (shelfAt g n).audit.isNone = true := by
        rw [Bool.not_eq_true, Option.isNone_eq_false_iff]
        exact flying
      exact (readSummary_stale (s := g) stale).trans (congrArg (releaseAsked · n) (if_neg flies))

/-! ### Summaries that start an audit (R26, R27) -/

/-- A shelf as a summary has its audit started, the attempt not yet in flight: a FRESH one is DRIFT. -/
def auditCalled (x : Shelf) : Shelf := { x with
  freshness := if x.freshness = .fresh then .drift else .stale
  mismatch := if x.freshness = .fresh then false else x.mismatch
  heartbeat := some 500, auditRetries := 0 }

/-- The part as a summary has the audit of shelf `n` started, with the sessions `y`. -/
def auditBegins (s : State) (n : Nat) (y : Tab (Option Session)) : State :=
  { modShelf s n auditCalled with engine := { s.engine with sessions := y } }

theorem readSummary_calls {n count : Nat} (hn : (shelfAt s n).audit = none)
    (h : ((shelfAt s n).freshness = .fresh ∧ (shelfAt s n).mismatch = true ∧ count ≠ (shelfAt s n).offHook) ∨
      (shelfAt s n).freshness = .stale) :
    ∃ y, readSummary s n count = releaseAsked (sendAudit (auditBegins s n y) n) n ∧
      ∀ id, tabGet none y id = (sessionAt s id).map (fun x =>
        if (shelfAt s n).freshness = .fresh ∧ id < 8 ∧ x.line / 256 = n then { x with supervisionLost := true }
        else x) := by
  have shelf := shelfAt_heartbeatStarted s n
  rcases h with ⟨fresh, noted, differs⟩ | stale
  · obtain ⟨y, drifts, table⟩ := distrustShelf_frame (heartbeatStarted s n) n .drift
    have read := readSummary_fresh (count := count) fresh
    rw [compareSummary_drifts (by rw [shelf]; exact differs) (by rw [shelf]; exact noted), startAudit, drifts] at read
    have called : modShelf (modShelf (heartbeatStarted s n) n (fun y => { y with freshness := .drift, mismatch := false }))
        n (fun x => { x with auditRetries := 0 }) = modShelf s n auditCalled := by
      rw [heartbeatStarted, modShelf_modShelf, modShelf_modShelf]
      exact modShelf_congr (by simp only [auditCalled, fresh, if_true])
    have begins := congrArg (fun u : State => ({ u with engine := { s.engine with sessions := y } } : State)) called
    refine ⟨y, read.trans (congrArg (fun u => releaseAsked (sendAudit u n) n) begins), fun id => (table id).trans ?_⟩
    simp only [shelf, fresh, ne_eq, reduceCtorEq, not_false_eq_true, true_and]
    rfl
  · have read := readSummary_stale (count := count) stale
    rw [hn, Option.isNone_none, if_pos rfl, startAudit, heartbeatStarted, modShelf_modShelf] at read
    have called : modShelf s n (fun x => { x with heartbeat := some 500, auditRetries := 0 }) =
        modShelf s n auditCalled := modShelf_congr (by simp [auditCalled, stale])
    rw [called] at read
    refine ⟨s.engine.sessions, read, fun id => ?_⟩
    simp only [stale, reduceCtorEq, false_and, if_false, Option.map_id']
    rfl

/-- The next tag while an audit is called for is the one before the summary. -/
theorem auditBegins_tag (s : State) (n : Nat) (y : Tab (Option Session)) :
    nextOrderTag (auditBegins s n y) = nextOrderTag s := by
  refine nextOrderTag_congr rfl rfl fun k => ?_
  show (shelfAt (modShelf s n auditCalled) k).audit = _
  rw [shelfAt_modShelf]
  split
  · next e => rw [e]; rfl
  · rfl

/-- A shelf with its first audit attempt in flight. -/
def auditStarted (x : Shelf) (tag : Nat) (timer : Option Nat) : Shelf :=
  { auditCalled x with audit := some { tag := tag, timer := timer, cards := [] } }

/-- The part with an audit of shelf `n` started and its AUDIT ORDER joined. -/
def auditJoined (s : State) (n : Nat) (y : Tab (Option Session)) : State :=
  { modShelf s n (fun x => auditStarted x (nextOrderTag s) (some 1000)) with
    ports := { s.ports with
      southQueue := s.ports.southQueue ++ [auditOrderCell (own s) n (nextOrderTag s)] }
    engine := { s.engine with candidate := (nextOrderTag s + 1) % 256, sessions := y } }

theorem sendAudit_auditBegins {n : Nat} (y : Tab (Option Session)) (hn : n ≤ 15) (hq : s.ports.southQueue.length < 32)
    (hb : s.ports.southBacklog = []) : sendAudit (auditBegins s n y) n = auditJoined s n y := by
  rw [sendAudit_joins (s := auditBegins s n y) hn hq hb, auditInFlight, auditBegins_tag]
  have twice := congrArg (fun u : State => ({ u with
    ports := { s.ports with southQueue := s.ports.southQueue ++ [auditOrderCell (own s) n (nextOrderTag s)] }
    engine := { s.engine with candidate := (nextOrderTag s + 1) % 256, sessions := y } } : State))
    (modShelf_modShelf s n auditCalled
      (fun x => { x with audit := some { tag := nextOrderTag s, timer := some 1000, cards := [] } }))
  exact twice

theorem shelfAt_auditJoined (s : State) (n : Nat) (y : Tab (Option Session)) (k : Nat) : shelfAt (auditJoined s n y) k =
    if k = n then auditStarted (shelfAt s n) (nextOrderTag s) (some 1000) else shelfAt s k :=
  shelfAt_modShelf (s := s) ..

/-- The tag the issue gives behind a started audit, whose timer it does not read (R90). -/
theorem auditJoined_tag (s : State) (n : Nat) (y : Tab (Option Session)) (timer : Option Nat) :
    nextOrderTag (auditJoined s n y) = nextOrderTag (modShelf
      { s with engine := { s.engine with candidate := (nextOrderTag s + 1) % 256 } } n
      (fun _ => auditStarted (shelfAt s n) (nextOrderTag s) timer)) := by
  refine nextOrderTag_congr_tags rfl rfl fun k => ?_
  rw [shelfAt_auditJoined, shelfAt_modShelf]
  split
  · rfl
  · rfl

/-- The AUDIT ORDER cell toward the shelf a summary came from (section 11.5). -/
theorem auditOrderCell_toward {a src : Octet} {n tag : Nat} (hs : shelfOf src = some n) :
    auditOrderCell a n tag = makeCell 0x23#8 a src [BitVec.ofNat 8 tag] := by
  obtain ⟨rfl, -⟩ := shelfAddress_of_shelfOf hs
  rfl

/-- Settles O30: the audit is started and its order joins, and then the fresh RELEASE ALL is asked for. -/
theorem secondMismatchStartsAudit : Obligations.SecondMismatchStartsAudit := by
  unfold Obligations.SecondMismatchStartsAudit
  intro s c n h hk hs old pending tag audited release becomes call hn hb
  let g := runCleared s .south
  obtain ⟨y, read, table⟩ := readSummary_calls (s := g) (count := (field2 c 0).toNat) hn call
  have delivered := summary_delivered h hk hs
  rw [read] at delivered
  let v := auditJoined g n y
  have shelf (k : Nat) : shelfAt v k = if k = n then audited (some 1000) else shelfAt s k := shelfAt_auditJoined g n y k
  have released : (shelfAt v n).released = old.released := by rw [shelf, if_pos rfl]
  have starts {w : State} {cells : List Cell} {e : Engine} (hq : s.ports.southQueue.length < 32)
      (asked : releaseAsked v n = w) (he : e.sessions = y)
      (hw : w = { v with ports := { v.ports with southQueue := v.ports.southQueue ++ cells }, engine := e }) :
      becomes cells (passOn w .south c) := by
    rw [sendAudit_auditBegins (s := g) y (shelfAddress_of_shelfOf hs).2 hq hb, asked] at delivered
    subst hw
    refine ⟨exec_of_delivered rfl h.1 delivered h.1.2, (shelf n).trans (if_pos rfl),
      fun k hk => (shelf k).trans (if_neg hk), fun id => (congrArg (tabGet none · id) he).trans (table id), ?_⟩
    have queue : v.ports.southQueue ++ cells =
        s.ports.southQueue ++ makeCell 0x23#8 (own s) c.src [BitVec.ofNat 8 tag] :: cells := by
      rw [← auditOrderCell_toward hs]
      exact List.append_assoc ..
    rw [queue]
    rfl
  refine ⟨fun quiet hq => ?_, fun hr hp hq ho hw => ?_⟩
  · have kept : releaseAsked v n = v := releaseAsked_quiet (quiet.imp_left released.trans)
    exact ⟨_, starts (cells := []) (e := v.engine) hq kept rfl (by rw [List.append_nil]), rfl⟩
  · have joins : releaseAsked v n = releaseAllJoined v n :=
      releaseAsked_joins (released.trans hr) hp ho hw (by
        show (s.ports.southQueue ++ [_]).length < 32
        rw [List.length_append, List.length_singleton]
        omega) hb
    have next : nextOrderTag v = release := auditJoined_tag g n y none
    have cell : relayOrderCell (own v) (nextOrderTag v) (freshOrder n) =
        makeCell 0x21#8 (own s) c.src [BitVec.ofNat 8 release, 5#8, 0#8, 0#8, 0#8] := by
      rw [relayOrderCell_releaseAll hs, next]
      rfl
    refine ⟨_, starts (e := (releaseAllJoined v n).engine) (by omega) joins rfl ?_,
      tabGet_tabPut_same none s.engine.releaseAllAt n (some s.clock),
      fun k hk => tabGet_tabPut_other none s.engine.releaseAllAt (some s.clock) hk, ?_⟩
    · rw [← cell]
      rfl
    · simp only [← next]
      rfl

end Sys2Proof.Machine
end

section
/-! PROOFS. An audit that completes, FORCE_RELEASE of a LOCKED_OUT line, and O32 and O48. -/

namespace Sys2Proof.Machine
open Sys2Proof

variable {s t u : State} {i : Instr}

/-! ### The lines of an audited shelf (R30) -/

/-- One line as a completed audit writes it. -/
def auditLine (n : Nat) (cards : Tab (List Hook)) (s : State) (k : Nat) : State :=
  modLine s (n * 256 + k) (fun l => { l with hook := auditedHook cards k, writtenAt := s.tracker.ageClock })

theorem auditLines_frame (s : State) (n : Nat) (cards : Tab (List Hook)) (count : Nat) :
    ∃ x, (List.range count).foldl (auditLine n cards) s = { s with tracker := { s.tracker with lines := x } } ∧
      (∀ k, k < count → tabGet lineZero x (n * 256 + k) = { lineOf s (n * 256 + k) with
        hook := auditedHook cards k, writtenAt := s.tracker.ageClock }) ∧
      ∀ j, (∀ k, k < count → j ≠ n * 256 + k) → tabGet lineZero x j = lineOf s j := by
  induction count with
  | zero => exact ⟨_, rfl, nofun, fun _ _ => rfl⟩
  | succ count ih =>
    obtain ⟨x, written, inside, outside⟩ := ih
    rw [List.range_succ, List.foldl_append, List.foldl_cons, List.foldl_nil, written]
    refine ⟨_, rfl, fun k hk => (tabGet_tabMod ..).trans ?_, fun j hj => (tabGet_tabMod ..).trans ?_⟩
    · by_cases e : k = count
      · subst e
        rw [if_pos rfl, outside _ fun k hk => by omega]
      · rw [if_neg (by omega), inside k (by omega)]
    · rw [if_neg (hj count (by omega)), outside j fun k hk => hj k (by omega)]

/-- `t` comes of `s` by the audit of shelf `n` completing, the age written being that of `s`. -/
structure AuditCompleted (s t : State) (n : Nat) (cards : Tab (List Hook)) : Prop where
  lines : ∀ k, k < 256 → lineOf t (n * 256 + k) = { lineOf s (n * 256 + k) with
    hook := auditedHook cards k, writtenAt := s.tracker.ageClock }
  others : ∀ k, k / 256 ≠ n → lineOf t k = lineOf s k
  fresh : (shelfAt t n).freshness = .fresh
  mismatch : (shelfAt t n).mismatch = false
  audit : (shelfAt t n).audit = none
  retries : (shelfAt t n).auditRetries = 0
  heartbeat : (shelfAt t n).heartbeat = some 500
  ports : t.ports = s.ports
  arbiter : t.arbiter = s.arbiter

/-- The work a completed audit hands on is none of what `AuditCompleted` speaks of. -/
theorem AuditCompleted.agenda {n : Nat} {cards : Tab (List Hook)} (h : AuditCompleted s t n cards) (l : List Todo) :
    AuditCompleted s { t with agenda := l } n cards :=
  ⟨h.lines, h.others, h.fresh, h.mismatch, h.audit, h.retries, h.heartbeat, h.ports, h.arbiter⟩

/-- The tables of a completed audit, before its events are handed on. -/
def auditTables (s : State) (n : Nat) (cards : Tab (List Hook)) : State :=
  modShelf (followRinging (recountShelf ((List.range 256).foldl (auditLine n cards) s) n) n) n (fun x => { x with
    mismatch := false, audit := none, auditRetries := 0, heartbeat := some Config.heartbeatMs, freshness := .fresh })

theorem auditCompleted_tables (s : State) (n : Nat) (cards : Tab (List Hook)) :
    AuditCompleted s (auditTables s n cards) n cards ∧ (auditTables s n cards).agenda = s.agenda := by
  obtain ⟨x, written, inside, outside⟩ := auditLines_frame s n cards 256
  obtain ⟨w, followed, -⟩ :=
    followRinging_frame (recountShelf { s with tracker := { s.tracker with lines := x } } n) n
  rw [auditTables, written, followed]
  refine ⟨?_, rfl⟩
  have shelf (u : State) (f : Shelf → Shelf) : shelfAt (modShelf u n f) n = f (shelfAt u n) := shelfAt_modShelf_same ..
  exact {
    lines := inside
    others := fun k hk => outside k fun j hj => by omega
    fresh := congrArg Shelf.freshness (shelf _ _)
    mismatch := congrArg Shelf.mismatch (shelf _ _)
    audit := congrArg Shelf.audit (shelf _ _)
    retries := congrArg Shelf.auditRetries (shelf _ _)
    heartbeat := congrArg Shelf.heartbeat (shelf _ _)
    ports := rfl
    arbiter := rfl }

theorem foldl_examineLater {α : Type} (l : List α) (s : State) : l.foldl (fun s _ => examineLater s) s =
    { s with agenda := s.agenda ++ List.replicate l.length .examine } := by
  induction l generalizing s with
  | nil => simp
  | cons x rest ih =>
    rw [List.foldl_cons, ih, examineLater_agenda, List.append_assoc, List.length_cons, List.replicate_succ]
    rfl

/-- A completed audit hands on an examination for each hook state it changed, and one where the shelf opens. -/
theorem completeAudit_frame (s : State) (n : Nat) (cards : Tab (List Hook)) : ∃ j ≤ 257, completeAudit s n cards =
    { auditTables s n cards with agenda := s.agenda ++ List.replicate j .examine } := by
  obtain ⟨changed, few, run⟩ : ∃ changed : List Nat, changed.length ≤ 256 ∧ completeAudit s n cards = shelfOpened
      (changed.foldl (fun s _ => examineLater s) (auditTables s n cards)) n (openForAccess s n) :=
    ⟨(List.range 256).filter (fun k => (lineOf s (n * 256 + k)).hook ≠ auditedHook cards k),
      (List.length_filter_le ..).trans (by rw [List.length_range]), rfl⟩
  have agenda := (auditCompleted_tables s n cards).2
  generalize auditTables s n cards = w at run agenda ⊢
  rw [run, foldl_examineLater, agenda, shelfOpened]
  split
  · refine ⟨changed.length + 1, by omega, ?_⟩
    rw [List.replicate_succ', ← List.append_assoc]
    rfl
  · exact ⟨changed.length, by omega, rfl⟩

/-- A delivery that hands on any number of examinations of an empty queue leaves no work. -/
theorem exec_of_examinations {p : Side} {c : Cell} {k : Nat} (h : rowCell i = some (p, c)) (ha : Awake s)
    (hd : deliverCell s p c = t) (agenda : t.agenda = List.replicate k .examine) (hk : k ≤ settleFuel)
    (hq : t.arbiter.queue = []) : exec i s = .next { t with agenda := [] } := by
  subst hd
  rw [exec_of_rowCell s h, onLink_of_awake _ _ _ ha.1]
  exact live_of_examine (f := fun s => deliverCell s p c) k hk ha.1 agenda (.inl hq)

/-- Settles O32: the set of cards is complete, and R24's counts follow from the law that every row keeps. -/
theorem auditCompletes : Obligations.AuditCompletes := by
  unfold Obligations.AuditCompletes
  intro s c n a hooks h hq hn agree hk hs hx ht hc hh full
  let g := giveSlot (runCleared s .south) .north
  let cards := tabPut [] a.cards (payloadAt c 1).toNat hooks
  have taken := takeAuditReport_taken (s := g) hs hx ht hc hh
  rw [if_pos full] at taken
  obtain ⟨j, few, frame⟩ := completeAudit_frame g n cards
  have done := (auditCompleted_tables g n cards).1
  rw [frame] at taken
  generalize auditTables g n cards = w at taken done
  have step := exec_of_examinations (i := .auditReport c) rfl h.1 ((auditReport_delivered h hk).trans taken)
    (congrArg (· ++ List.replicate j Todo.examine) h.1.2) (by unfold settleFuel; omega)
    ((congrArg Arbiter.queue done.arbiter).trans hq)
  exact ⟨_, step, done.lines, done.others, done.fresh, done.mismatch, done.audit, done.retries, done.heartbeat,
    (keepsSupervision_exec step).1 agree, done.ports⟩

/-! ### A command that answers with its code alone (R196 to R198) -/

theorem permitted_of_group {src : Octet} {c : Command} {g : CommandGroup} (hg : groupOfCode (commandCode c) = some g)
    (h : holdsGroup s src g = true) : permitted s src c = true := by
  simp only [permitted, hg, h, Bool.or_true]

theorem releasePlaces_reservePlaces (s : State) (k : Nat) : releasePlaces (reservePlaces s k) k = s := by
  simp only [releasePlaces, reservePlaces, onPorts, Nat.add_sub_cancel]

/-- An accepted command without data, of one answer place, that hands on a few examinations of an empty queue. -/
theorem exec_answering {src : Octet} {tag : Half} {c : Command} {g : CommandGroup} {d : State} {r : ResponseCode}
    {k : Nat} (hi : rowCommand i = some (src, tag, c)) (h : Accepts s src 1 g)
    (hc : groupOfCode (commandCode c) = some g ∧ answerPlaces (commandCode c) = 1 ∧ c ≠ .restart)
    (run : carryOut (reservePlaces s 1) src c = (d, plainAnswer r)) (hands : Hands k s d) (hk : k ≤ 16)
    (hq : d.arbiter.queue = []) (ho : d.ports.straps = s.ports.straps) :
    exec i s = .next (answered { releasePlaces d 1 with agenda := [] } src tag (commandCode c) r) := by
  obtain ⟨⟨awake, idle⟩, room, held⟩ := h
  obtain ⟨group, places, notRestart⟩ := hc
  obtain ⟨j, hj, agenda⟩ := hands
  rw [idle, List.nil_append] at agenda
  have taken := takeCommand_accepted (s := s) (src := src) (tag := tag) (places ▸ room) notRestart
    (permitted_of_group (s := reservePlaces s (answerPlaces (commandCode c))) group held)
  rw [places, run] at taken
  rw [exec_of_rowCommand s hi, live_of_examine (f := fun s => takeCommand s src tag c) j (by unfold settleFuel; omega)
    awake (by rw [taken]; exact agenda) (by rw [taken]; exact .inl hq), taken]
  simp only [answerCells, responseCell_plain, answered, own, ← ho]
  rfl

/-! ### FORCE_RELEASE (R104) -/

/-- The release retries of a line that are removed: each bus keeps its state, and none of the four holds one. -/
theorem dropAccessRetries_frame (s : State) (len : Nat) : ∃ buses orders waiting, dropAccessRetries s len = { s with
      engine := { s.engine with buses := buses, orders := orders, waiting := waiting } } ∧
    ∀ b, (tabGet busZero buses b).state = (busAt s b).state ∧
      (b < 4 → (tabGet busZero buses b).retry.map (·.order) ≠ some (.access len)) := by
  let drop (s : State) (b : Nat) : State :=
    if (busAt s b).retry.map (·.order) = some (.access len) then
      modBus (giveUpOrders s (.retry b)) b (fun x => { x with retry := none })
    else s
  have upTo (k : Nat) : ∃ buses orders waiting, (List.range k).foldl drop s = { s with
        engine := { s.engine with buses := buses, orders := orders, waiting := waiting } } ∧
      ∀ b, (tabGet busZero buses b).state = (busAt s b).state ∧
        (b < k → (tabGet busZero buses b).retry.map (·.order) ≠ some (.access len)) := by
    induction k with
    | zero => exact ⟨_, _, _, rfl, fun b => ⟨rfl, nofun⟩⟩
    | succ k ih =>
      obtain ⟨buses, orders, waiting, dropped, kept⟩ := ih
      rw [List.range_succ, List.foldl_append, List.foldl_cons, List.foldl_nil, dropped]
      by_cases hold : (tabGet busZero buses k).retry.map (·.order) = some (.access len)
      · refine ⟨_, _, _, if_pos hold, fun b => ?_⟩
        rw [tabGet_tabMod]
        split
        · next e =>
          subst e
          exact ⟨(kept b).1, fun _ => nofun⟩
        · next e => exact ⟨(kept b).1, fun hb => (kept b).2 (by omega)⟩
      · refine ⟨buses, orders, waiting, if_neg hold, fun b => ⟨(kept b).1, fun hb => ?_⟩⟩
        by_cases e : b = k
        · rw [e]
          exact hold
        · exact (kept b).2 (by omega)
  exact upTo 4

theorem forceRelease_locked {len : Half} (hn : len.toNat ≤ 4095) (hm : markOf s len.toNat = .lockedOut) :
    forceRelease s len =
      (dropAccessRetries (setMark (released s len.toNat .unknown) len.toNat .free true) len.toNat, .done) := by
  unfold forceRelease
  dsimp only
  rw [if_neg (Nat.not_lt.2 hn), if_neg fun e => e hm]
  rfl

/-- `t` comes of `s` by a LOCKED_OUT line released by command, UNBLOCKED alone in the URGENT queue. -/
structure LineFreed (s t : State) (n : Nat) : Prop where
  marks : ∀ k, markOf t k = if k = n then .free else markOf s k
  lines : ∀ k, lineOf t k = if k = n then { lineOf s n with
      hook := .unknown, writtenAt := s.tracker.ageClock, cutOff := false, blocked := false }
    else lineOf s k
  buses : ∀ b, (busAt t b).state = (busAt s b).state
  retries : ∀ b, b < 4 → ((busAt t b).retry.map (·.order)) ≠ some (.access n)
  ports : t.ports = { s.ports with urgent := [testBlockCell (own s) n false] }
  tickets : t.tickets = s.tickets
  tables : t.tables = s.tables
  queue : t.arbiter.queue = s.arbiter.queue
  hands : Hands 2 s t

theorem lineFreed_forceRelease {n : Nat} (hm : markOf s n = .lockedOut) (hu : s.ports.urgent = [])
    (hb : s.ports.urgentBacklog = []) :
    LineFreed s (dropAccessRetries (setMark (released s n .unknown) n .free true) n) n := by
  have written : HookWritten s (released s n .unknown) n _ := hookWritten_cleared s n .unknown
  have hands : Hands 1 s (released s n .unknown) :=
    hands_writeHook (modLine s n (fun l => { l with cutOff := false })) n .unknown
  generalize released s n .unknown = w at written hands
  have ports : w.ports = s.ports := congrArg (·.ports) written.frame
  have arbiter : w.arbiter = s.arbiter := congrArg (·.arbiter) written.frame
  have engine : w.engine = s.engine := congrArg (·.engine) written.frame
  have mark (k : Nat) : markOf w k = markOf s k := congrArg (fun a : Arbiter => tabGet Mark.free a.marks k) arbiter
  have freed : setMark w n .free true = examineLater (unblockedAlone w n) :=
    setMark_unblocked (by rw [mark, hm]; nofun) (by rw [ports, hu]) (by rw [ports, hb]) (.inr (by rw [written.line]; rfl))
  obtain ⟨l, m, alone, lines, marks⟩ := unblockedAlone_frame w n
  obtain ⟨buses, orders, waiting, dropped, kept⟩ := dropAccessRetries_frame (examineLater (unblockedAlone w n)) n
  rw [freed, dropped]
  have bus (b : Nat) : busAt (examineLater (unblockedAlone w n)) b = busAt s b := by
    rw [alone]
    exact congrArg (fun e : Engine => tabGet busZero e.buses b) engine
  exact {
    marks := fun k => by
      have now := (congrArg (fun u : State => markOf u k) alone).trans (marks k)
      rw [mark] at now
      exact now
    lines := fun k => by
      have now := (congrArg (fun u : State => lineOf u k) alone).trans (lines k)
      rw [written.line] at now
      by_cases e : k = n
      · rw [if_pos e] at now ⊢
        exact now
      · rw [if_neg e, written.others k e] at now
        rw [if_neg e]
        exact now
    buses := fun b => (kept b).1.trans (congrArg Bus.state (bus b))
    retries := fun b => (kept b).2
    ports := by
      rw [alone, own, ports]
      rfl
    tickets := by
      rw [alone, written.frame]
      rfl
    tables := by
      rw [alone, written.frame]
      rfl
    queue := by
      rw [alone, arbiter]
      rfl
    hands := by
      rw [alone]
      exact hands.trans (hands_examineLater w) }

/-- Settles O48, by the LEN and the mark. -/
theorem forceReleaseFreesLine : Obligations.ForceReleaseFreesLine := by
  unfold Obligations.ForceReleaseFreesLine
  intro s src tag len h hq n
  let r := reservePlaces s 1
  have answers {d : State} {code : ResponseCode} {k : Nat} (run : forceRelease r len = (d, code)) (hands : Hands k r d)
      (hk : k ≤ 16) (queue : d.arbiter.queue = []) (straps : d.ports.straps = s.ports.straps) :
      exec (.forceRelease src tag len) s =
        .next (answered { releasePlaces d 1 with agenda := [] } src tag 6#8 code) :=
    exec_answering (c := .forceRelease len) (g := .service) rfl h ⟨rfl, rfl, nofun⟩ (congrArg answering run) hands hk
      queue straps
  have unchanged {code : ResponseCode} (run : forceRelease r len = (r, code)) :
      exec (.forceRelease src tag len) s = .next (answered s src tag 6#8 code) := by
    have step := answers run (.refl r) (Nat.zero_le 16) hq rfl
    rw [releasePlaces_reservePlaces, ← h.1.2] at step
    exact step
  refine ⟨fun wide => unchanged (if_pos wide), fun hn hm => unchanged ?_, fun hn hm hu hb => ?_⟩
  · exact (if_neg (Nat.not_lt.2 hn)).trans (if_pos hm)
  · have freed := lineFreed_forceRelease (s := r) hm hu hb
    have run := forceRelease_locked (s := r) hn hm
    generalize dropAccessRetries (setMark (released r len.toNat .unknown) len.toNat .free true) len.toNat = d at freed run
    refine ⟨_, answers run freed.hands (by omega) (freed.queue.trans hq) (freed.ports ▸ rfl),
      (freed.marks n).trans (if_pos rfl), (freed.lines n).trans (if_pos rfl),
      fun k hk => ⟨(freed.marks k).trans (if_neg hk), (freed.lines k).trans (if_neg hk)⟩, freed.buses, freed.retries,
      ?_, freed.tickets, freed.tables⟩
    simp only [releasePlaces, onPorts, freed.ports]
    rfl

end Sys2Proof.Machine
end

section
/-! PROOFS. Laws that every step keeps because every operation inside a step does (`StepLaw`), and O7. -/

namespace Sys2Proof.Machine
open Sys2Proof

variable {s t : State} {i : Instr}

/-- A law of a state of which `Follows` is a case: every operation inside a step keeps it. It reads neither the waiting
commands nor the ports, the release of RESET meets it, and a millisecond keeps it. -/
structure StepLaw (law : State → Prop) : Prop where
  follows : ∀ {s t : State}, Follows s t → law s → law t
  pending : ∀ (s : State) (rest : List Instr), law s → law { s with pending := rest }
  ports : ∀ (s : State) (p : Ports), law s → law { s with ports := p }
  released : ∀ (x : BitVec 2) (s t : State), exec (.powerOnReset x) s = .next t → law t
  tick : ∀ s : State, law s → law (tick s)

variable {law : State → Prop}

theorem StepLaw.modPort (k : StepLaw law) (p : Side) (f : Port → Port) (h : law s) : law (modPort s p f) := by
  cases p <;> exact k.ports s _ h

theorem StepLaw.resetAssert (k : StepLaw law) (h : exec .resetAssert s = .next t) (hs : law s) : law t := by
  cases ha : s.ports.resetAsserted with
  | true =>
    obtain rfl := Host.Outcome.next.inj ((exec_resetAssert_of_reset ha).symm.trans h)
    exact hs
  | false =>
    obtain rfl := Host.Outcome.next.inj ((exec_resetAssert_of_awake ha).symm.trans h)
    exact k.ports s _ hs

theorem StepLaw.presyncCell (k : StepLaw law) {p : Side} {c : Option Cell} (h : exec (.presyncCell p c) s = .next t)
    (hs : law s) : law t := by
  rcases follows_of_onLink h with f | f
  · exact k.follows f hs
  · refine k.follows f ?_
    split
    · exact k.modPort p _ hs
    · exact hs

theorem StepLaw.exec (k : StepLaw law) (h : exec i s = .next t) (hs : law s) : law t := by
  cases i with
  | resetAssert => exact k.resetAssert h hs
  | powerOnReset x => exact k.released x s t h
  | presyncCell p c => exact k.presyncCell h hs
  | _ => exact k.follows (follows_exec h rfl nofun) hs

/-- A step keeps the law: its row does, that of the waiting command or one due, and so does the millisecond. -/
theorem StepLaw.step (k : StepLaw law) (h : step s = .next t) (hs : law s) : law t := by
  rcases step_cases h with ⟨i, rest, -, h⟩ | ⟨-, i, -, -, h⟩ | ⟨-, rfl | rfl⟩
  · exact k.exec h (k.pending s rest hs)
  · exact k.exec h hs
  · exact hs
  · exact k.tick s hs

theorem tables_tick (s : State) : ∃ buffers, (tick s).tables = { s.tables with buffers := buffers } := ⟨_, rfl⟩

theorem tickets_tick (s : State) : (tick s).tickets = s.tickets := by simp only [tick]

/-- WRITE_HAZARD alone writes the levels, and it tests them first (R58). -/
theorem stepLaw_hazardLevels : StepLaw fun s => HazardLevelsValid s.tables where
  follows f := f.levels
  pending _ _ := id
  ports _ _ := id
  released x s t h := by
    obtain rfl := Host.Outcome.next.inj h
    obtain ⟨-, -, -, -, levels, -⟩ := resetMeetsLaws
    exact levels
  tick s h := by
    obtain ⟨buffers, written⟩ := tables_tick s
    rw [written]
    exact h

/-- The tickets and groups agree with one another and with the directory (R151, R167, R169, R173). -/
theorem stepLaw_tickets : StepLaw TicketsAgree where
  follows f := f.tickets
  pending _ _ := id
  ports _ _ := id
  released x s t h := by
    obtain rfl := Host.Outcome.next.inj h
    obtain ⟨-, -, -, -, -, -, -, agree, -⟩ := resetMeetsLaws
    exact agree
  tick s h := by
    obtain ⟨buffers, written⟩ := tables_tick s
    exact ticketsAgree_congr h (tickets_tick s) (by rw [written])

/-- Settles O7: the hazard levels, and the tickets with their groups, are each under a law that a step keeps. -/
theorem stepKeepsHazardLevels : Obligations.StepKeepsHazardLevels :=
  fun _ _ h => ⟨stepLaw_hazardLevels.step h, stepLaw_tickets.step h⟩

end Sys2Proof.Machine
end

section
/-! PROOFS. Commands of the table store as the interpreter takes them, and O41 and O43. -/

namespace Sys2Proof.Machine
open Sys2Proof

variable {s t : State} {i : Instr}

/-! ### A command that writes tables alone (R44, R196 to R198) -/

/-- The interpreter's own tests on a command of the TABLE group: it is in that group, needs one answer place, and is
not RESTART. -/
def IsTableCommand (c : Command) : Prop :=
  groupOfCode (commandCode c) = some .table ∧ answerPlaces (commandCode c) = 1 ∧ c ≠ .restart

/-- An accepted command without data whose effect lies in the tables, the measurement unit and the tickets hands on no
work, and the place reserved for its answer is the one the answer takes. -/
theorem exec_tableWrite {src : Octet} {tag : Half} {c : Command} {a : Tables} {m : Measurement} {k : TicketManager}
    {r : ResponseCode} (hi : rowCommand i = some (src, tag, c)) (h : Accepts s src 1 .table) (hc : IsTableCommand c)
    (run : carryOut (reservePlaces s 1) src c =
      ({ reservePlaces s 1 with tables := a, meas := m, tickets := k }, plainAnswer r)) :
    exec i s = .next (answered { s with tables := a, meas := m, tickets := k } src tag (commandCode c) r) := by
  obtain ⟨⟨awake, idle⟩, room, held⟩ := h
  obtain ⟨group, places, notRestart⟩ := hc
  have taken := takeCommand_accepted (s := s) (tag := tag) (places ▸ room) notRestart
    (permitted_of_group (s := reservePlaces s (answerPlaces (commandCode c))) group held)
  rw [places, run] at taken
  rw [exec_of_rowCommand s hi, live_of_settled (f := fun s => takeCommand s src tag c) awake
    (by rw [taken]; exact idle), taken]
  simp only [answerCells, responseCell_plain]
  rfl

/-- A command that changes nothing but answers. -/
theorem exec_tableRefused {src : Octet} {tag : Half} {c : Command} {r : ResponseCode}
    (hi : rowCommand i = some (src, tag, c)) (h : Accepts s src 1 .table) (hc : IsTableCommand c)
    (run : carryOut (reservePlaces s 1) src c = (reservePlaces s 1, plainAnswer r)) :
    exec i s = .next (answered s src tag (commandCode c) r) :=
  exec_tableWrite hi h hc run

/-! ### The line directory (R45, R46) -/

theorem lineTypeOf_of_mem {o : Octet} {t : LineType}
    (h : (o, t) ∈ [(1#8, LineType.plain), (2#8, .coin), (3#8, .pbxTrunk), (4#8, .dataOverVoice)]) :
    lineTypeOf o = some t := by
  simp only [List.mem_cons, Prod.mk.injEq, List.not_mem_nil, or_false] at h
  rcases h with ⟨rfl, rfl⟩ | ⟨rfl, rfl⟩ | ⟨rfl, rfl⟩ | ⟨rfl, rfl⟩ <;> rfl

theorem lineTypeOf_of_not_mem {o : Octet} (h : o ∉ [1#8, 2#8, 3#8, 4#8]) : lineTypeOf o = none := by
  simp only [List.mem_cons, List.not_mem_nil, or_false, not_or, ← BitVec.toNat_inj] at h
  obtain ⟨h1, h2, h3, h4⟩ := h
  unfold lineTypeOf
  split
  · next e => exact absurd e h1
  · next e => exact absurd e h2
  · next e => exact absurd e h3
  · next e => exact absurd e h4
  · rfl

/-- A line without tickets moves none from group to group (R168). -/
theorem groupMoved_of_noTickets {len : Nat} (h : ∀ u ∈ s.tickets.tickets, u.subject ≠ .line len)
    (old new : Option Nat) : groupMoved s len old new = s := by
  have noMembers : lineMembers s len = [] := List.filter_eq_nil_iff.2 fun u hu => by simp [h u hu]
  unfold groupMoved
  rw [noMembers]
  rfl

theorem directoryWritten_of_noRequests (h : NoRequests s) (len : Nat) : directoryWritten s len = s := by
  unfold directoryWritten
  rw [h]
  rfl

/-- The directory with the entry of a line replaced, nothing being handed on. -/
def withEntry (s : State) (len : Nat) (d : Option DirectoryEntry) : State :=
  { s with tables := { s.tables with directory := tabPut none s.tables.directory len d } }

theorem directoryAt_withEntry (s : State) (len : Nat) (d : Option DirectoryEntry) (k : Nat) :
    directoryAt (withEntry s len d) k = if k = len then d else directoryAt s k := tabGet_tabPut ..

theorem putDirectory_quiet {len : Nat} (hq : NoRequests s) (ht : ∀ u ∈ s.tickets.tickets, u.subject ≠ .line len)
    (d : Option DirectoryEntry) : putDirectory s len d = withEntry s len d := by
  show directoryWritten (groupMoved (withEntry s len d) len _ _) len = withEntry s len d
  rw [groupMoved_of_noTickets (s := withEntry s len d) ht]
  exact directoryWritten_of_noRequests (s := withEntry s len d) hq len

theorem underTest_of_free {len : Nat} (h : markOf s len = .free) : underTest s len = false := by simp [underTest, h]

theorem underTest_of_marked {len : Nat} (h : markOf s len ≠ .free) : underTest s len = true := by simp [underTest, h]

section directory
variable {len : Half} {o profile group flags : Octet}

theorem writeLine_of_entry {d : DirectoryEntry} (h : lineEntry s len o profile group flags = some d)
    (free : markOf s len.toNat = .free) :
    writeLine s len o profile group flags = (putDirectory s len.toNat (some d), .done) := by
  simp only [writeLine, h, underTest_of_free free, Bool.false_eq_true, if_false]

theorem writeLine_of_marked {d : DirectoryEntry} (h : lineEntry s len o profile group flags = some d)
    (marked : markOf s len.toNat ≠ .free) : writeLine s len o profile group flags = (s, .inUse) := by
  simp only [writeLine, h, underTest_of_marked marked, if_true]

theorem writeLine_of_noEntry (h : lineEntry s len o profile group flags = none) :
    writeLine s len o profile group flags = (s, .range) := by
  simp only [writeLine, h]

theorem lineEntry_of_ranges {t : LineType} (ho : lineTypeOf o = some t) (hn : len.toNat ≤ 4095)
    (hp : profile.toNat ≤ 15) (loaded : (profileAt s profile.toNat).loaded = true)
    (hg : group.toNat ≤ 63 ∨ group = 0xFF#8) : lineEntry s len o profile group flags = some
      { lineType := t, profile := profile.toNat, group := if group = 0xFF#8 then none else some group.toNat
        noRoutine := flags.getLsbD 0, emergency := flags.getLsbD 1, noDialTest := flags.getLsbD 2 } := by
  simp only [lineEntry, ho]
  exact if_pos ⟨hn, hp, loaded, hg⟩

theorem lineEntry_of_outOfRange (h : 4095 < len.toNat ∨ 15 < profile.toNat ∨
      (profileAt s profile.toNat).loaded = false ∨ o ∉ [1#8, 2#8, 3#8, 4#8] ∨ (63 < group.toNat ∧ group ≠ 0xFF#8)) :
    lineEntry s len o profile group flags = none := by
  unfold lineEntry
  split
  · rfl
  · next t ho =>
    refine if_neg ?_
    rintro ⟨hn, hp, loaded, hg⟩
    rcases h with h | h | h | h | ⟨h, notNone⟩
    · exact absurd hn (Nat.not_le.2 h)
    · exact absurd hp (Nat.not_le.2 h)
    · rw [h] at loaded
      cases loaded
    · rw [lineTypeOf_of_not_mem h] at ho
      cases ho
    · exact hg.elim (Nat.not_le.2 h) notNone

theorem clearLine_of_wide (hn : 4095 < len.toNat) : clearLine s len = (s, .range) := if_pos hn

theorem clearLine_of_marked (hn : len.toNat ≤ 4095) (marked : markOf s len.toNat ≠ .free) :
    clearLine s len = (s, .inUse) :=
  (if_neg (Nat.not_lt.2 hn)).trans (if_pos (underTest_of_marked marked))

theorem clearLine_of_free (hn : len.toNat ≤ 4095) (free : markOf s len.toNat = .free) :
    clearLine s len = if (directoryAt s len.toNat).isNone then (directoryWritten s len.toNat, .done)
      else (putDirectory s len.toNat none, .done) := by
  simp only [clearLine, Nat.not_lt.2 hn, underTest_of_free free, Bool.false_eq_true, if_false]

end directory

/-- Settles O41, by the LEN and the mark, the fields of WRITE_LINE in range or not. -/
theorem directoryWrites : Obligations.DirectoryWrites := by
  unfold Obligations.DirectoryWrites
  intro s src lineType profile group flags tag len t h hq ht n write clear stored
  let r := reservePlaces s 1
  have replaces {i : Instr} {c : Command} {d : Option DirectoryEntry} (hi : rowCommand i = some (src, tag, c))
      (hc : IsTableCommand c) (run : carryOut r src c = answering (putDirectory r n d, .done)) :
      stored (commandCode c) d (exec i s) := by
    rw [putDirectory_quiet (s := r) hq ht] at run
    exact ⟨withEntry s n d, exec_tableWrite hi h hc run, (directoryAt_withEntry ..).trans (if_pos rfl),
      fun k hk => (directoryAt_withEntry ..).trans (if_neg hk), rfl⟩
  have writes {code : ResponseCode} (run : writeLine r len lineType profile group flags = (r, code)) :
      write = .next (answered s src tag 7#8 code) :=
    exec_tableRefused (c := .writeLine len lineType profile group flags) rfl h ⟨rfl, rfl, nofun⟩
      (congrArg answering run)
  have clears {code : ResponseCode} (run : clearLine r len = (r, code)) :
      clear = .next (answered s src tag 8#8 code) :=
    exec_tableRefused (c := .clearLine len) rfl h ⟨rfl, rfl, nofun⟩ (congrArg answering run)
  refine ⟨fun hn hp loaded ho hg => ?_, fun bad => writes (writeLine_of_noEntry (lineEntry_of_outOfRange bad)),
    fun hn free => ?_, fun hn marked => clears (clearLine_of_marked hn marked),
    fun wide => clears (clearLine_of_wide wide)⟩
  · have entry := lineEntry_of_ranges (s := r) (flags := flags) (lineTypeOf_of_mem ho) hn hp loaded hg
    exact ⟨fun free => replaces (c := .writeLine len lineType profile group flags) rfl ⟨rfl, rfl, nofun⟩
      (congrArg answering (writeLine_of_entry entry free)), fun marked => writes (writeLine_of_marked entry marked)⟩
  · have run := clearLine_of_free (s := r) hn free
    rw [directoryWritten_of_noRequests (s := r) hq] at run
    by_cases empty : (directoryAt s n).isNone = true
    · exact ⟨s, clears (run.trans (if_pos empty)), Option.isNone_iff_eq_none.1 empty, fun _ _ => rfl, rfl⟩
    · exact replaces (c := .clearLine len) rfl ⟨rfl, rfl, nofun⟩ (congrArg answering (run.trans (if_neg empty)))

/-! ### Privileges (R59) -/

theorem groupsOf_eq (o : Octet) : groupsOf o =
    ([(0, CommandGroup.query), (1, .test), (2, .ticket), (3, .schedule), (4, .table), (5, .service)].filter
      (fun x => o.getLsbD x.1)).map (·.2) := by
  have swapped : commandGroups.zipIdx = ([(0, .query), (1, .test), (2, .ticket), (3, .schedule), (4, .table),
      (5, .service)] : List (Nat × CommandGroup)).map Prod.swap := rfl
  simp only [groupsOf, swapped, List.filter_map, List.map_map]
  rfl

/-- The groups a unit holds, in a list of entries. -/
def heldIn (l : List (Octet × List CommandGroup)) (u : Octet) : Option (List CommandGroup) :=
  (l.find? (fun x => x.1 = u)).map (·.2)

theorem heldIn_cons (x : Octet × List CommandGroup) (l : List (Octet × List CommandGroup)) (u : Octet) :
    heldIn (x :: l) u = if x.1 = u then some x.2 else heldIn l u := by
  simp only [heldIn, List.find?_cons]
  by_cases e : x.1 = u <;> simp [e]

theorem heldIn_filter (l : List (Octet × List CommandGroup)) (unit u : Octet) :
    heldIn (l.filter (fun x => x.1 ≠ unit)) u = if u = unit then none else heldIn l u := by
  induction l with
  | nil => simp [heldIn]
  | cons x rest ih =>
    rw [List.filter_cons]
    by_cases e : x.1 = unit
    · rw [if_neg (by simp [e]), ih, heldIn_cons]
      by_cases hu : u = unit
      · rw [if_pos hu, if_pos hu]
      · rw [if_neg hu, if_neg hu, if_neg (e ▸ Ne.symm hu)]
    · rw [if_pos (by simp [e]), heldIn_cons, heldIn_cons, ih]
      by_cases hu : u = unit
      · rw [if_pos hu, if_pos hu, if_neg (hu ▸ e)]
      · rw [if_neg hu, if_neg hu]

theorem heldIn_map (l : List (Octet × List CommandGroup)) (unit u : Octet) (gs : List CommandGroup) :
    heldIn (l.map (fun x => if x.1 = unit then (unit, gs) else x)) u =
      if u = unit then (heldIn l unit).map (fun _ => gs) else heldIn l u := by
  induction l with
  | nil => simp [heldIn]
  | cons x rest ih =>
    rw [List.map_cons, heldIn_cons, heldIn_cons, heldIn_cons, ih]
    by_cases e : x.1 = unit <;> by_cases hu : u = unit
    · simp [e, hu]
    · simp [e, hu, Ne.symm hu]
    · simp [e, hu]
    · simp [e, hu]

theorem heldIn_append (l : List (Octet × List CommandGroup)) (unit u : Octet) (gs : List CommandGroup)
    (new : heldIn l unit = none) :
    heldIn (l ++ [(unit, gs)]) u = if u = unit then some gs else heldIn l u := by
  induction l with
  | nil => simp only [List.nil_append, heldIn_cons, eq_comm]
  | cons x rest ih =>
    rw [heldIn_cons] at new
    split at new
    · cases new
    · next e =>
      rw [List.cons_append, heldIn_cons, heldIn_cons, ih new]
      by_cases hu : u = unit
      · rw [if_pos hu, if_pos hu, if_neg (hu ▸ e)]
      · rw [if_neg hu, if_neg hu]

/-- The part with its list of privileges replaced. -/
def withPrivileges (s : State) (l : List (Octet × List CommandGroup)) : State :=
  { s with tables := { s.tables with privileges := l } }

section writePrivilege
variable {unit groups : Octet}

theorem writePrivilege_maintenance (s : State) (groups : Octet) : writePrivilege s 0x02#8 groups = (s, .range) := rfl

theorem writePrivilege_held (hu : unit ≠ 0x02#8) (held : (privilegeOf s unit).isSome = true) :
    writePrivilege s unit groups = (withPrivileges s (if groupsOf groups = [] then
      s.tables.privileges.filter (fun x => x.1 ≠ unit)
    else s.tables.privileges.map (fun x => if x.1 = unit then (unit, groupsOf groups) else x)), .done) := by
  have other : ¬ unit = maintenance := hu
  simp only [writePrivilege, other, held, if_true, if_false]
  split <;> rfl

theorem writePrivilege_new (hu : unit ≠ 0x02#8) (new : privilegeOf s unit = none) :
    writePrivilege s unit groups = if groupsOf groups = [] then (s, .notFound)
      else if s.tables.privileges.length < 16 then
        (withPrivileges s (s.tables.privileges ++ [(unit, groupsOf groups)]), .done)
      else (s, .full) := by
  have other : ¬ unit = maintenance := hu
  simp only [writePrivilege, other, new, Option.isSome_none, Bool.false_eq_true, if_false]
  rfl

end writePrivilege

/-- Settles O43, by the unit and its entry, along the table of R59. -/
theorem privilegeWrites : Obligations.PrivilegeWrites := by
  unfold Obligations.PrivilegeWrites
  intro s src unit groups tag h gs write becomes
  let r := reservePlaces s 1
  have groupsRead : groupsOf groups = gs := groupsOf_eq groups
  have refuses {code : ResponseCode} (run : writePrivilege r unit groups = (r, code)) :
      write = .next (answered s src tag 13#8 code) :=
    exec_tableRefused (c := .writePrivilege unit groups) rfl h ⟨rfl, rfl, nofun⟩ (congrArg answering run)
  have changes {l : List (Octet × List CommandGroup)} {held : Option (List CommandGroup)}
      (run : writePrivilege r unit groups = (withPrivileges r l, .done))
      (reads : ∀ u, heldIn l u = if u = unit then held else privilegeOf s u) : becomes held :=
    ⟨withPrivileges s l, exec_tableWrite (c := .writePrivilege unit groups) rfl h ⟨rfl, rfl, nofun⟩
      (congrArg answering run), (reads unit).trans (if_pos rfl), fun u hu => (reads u).trans (if_neg hu), rfl⟩
  refine ⟨?_, fun hu held hg => ?_, fun hu held hg => ?_, fun hu new hg room => ?_, fun hu new hg full => ?_,
    fun hu new hg => ?_⟩
  · rintro rfl
    exact refuses (writePrivilege_maintenance r groups)
  · have run := writePrivilege_held (s := r) (groups := groups) hu held
    rw [groupsRead, if_neg hg] at run
    refine changes run fun u => (heldIn_map ..).trans ?_
    obtain ⟨old, hold⟩ := Option.isSome_iff_exists.1 held
    rw [show heldIn r.tables.privileges unit = some old from hold]
    rfl
  · have run := writePrivilege_held (s := r) (groups := groups) hu held
    rw [groupsRead, if_pos hg] at run
    exact changes run fun u => heldIn_filter ..
  · have run := writePrivilege_new (s := r) (groups := groups) hu new
    rw [groupsRead, if_neg hg, if_pos (show r.tables.privileges.length < 16 from room)] at run
    exact changes run fun u => heldIn_append _ _ _ _ new
  · have run := writePrivilege_new (s := r) (groups := groups) hu new
    rw [groupsRead, if_neg hg, if_neg (Nat.not_lt.2 (show 16 ≤ r.tables.privileges.length from full))] at run
    exact refuses run
  · have run := writePrivilege_new (s := r) (groups := groups) hu new
    rw [groupsRead, if_pos hg] at run
    exact refuses run

end Sys2Proof.Machine
end

section
/-! PROOFS. The writes of threshold profiles, heads, hazard levels and group thresholds, with the storms that a
threshold begins and ends, and O42. -/

namespace Sys2Proof.Machine
open Sys2Proof

variable {s t : State} {i : Instr}

/-! ### Profiles, heads and hazard levels (R48, R56 to R58) -/

/-- The part with a threshold profile replaced. -/
def withProfile (s : State) (n : Nat) (p : Profile) : State :=
  { s with tables := { s.tables with profiles := tabPut profileZero s.tables.profiles n p } }

theorem profileAt_withProfile (s : State) (n : Nat) (p : Profile) (k : Nat) :
    profileAt (withProfile s n p) k = if k = n then p else profileAt s k := tabGet_tabPut ..

theorem writeProfile_of_ranges {a : ProfileArgs} (h : a.number.toNat ≤ 15 ∧ profileInRange (profileOf a) = true) :
    writeProfile s a = (withProfile s a.number.toNat (profileOf a), .done) := if_pos h

theorem writeProfile_of_outOfRange {a : ProfileArgs}
    (h : ¬ (a.number.toNat ≤ 15 ∧ profileInRange (profileOf a) = true)) : writeProfile s a = (s, .range) := if_neg h

/-- The checkers once head `h` has the mode `m`: one whose mode it changes starts afresh, DEGRADED kept (R57). -/
def checkersForMode (s : State) (h : Nat) (m : TimebaseMode) : Tab Checker :=
  if (headAt s h).mode = m then s.meas.checkers
  else tabPut checkerZero s.meas.checkers h
    { running := 0, latched := 0, timer := 3600000, exceeded := false, degraded := (checkerAt s h).degraded }

/-- The part with the entry of a head replaced. -/
def withHead (s : State) (h : Nat) (x : Head) : State :=
  { s with
    tables := { s.tables with heads := tabPut headZero s.tables.heads h x }
    meas := { s.meas with checkers := checkersForMode s h x.mode } }

theorem headAt_withHead (s : State) (h : Nat) (x : Head) (k : Nat) :
    headAt (withHead s h x) k = if k = h then x else headAt s k := tabGet_tabPut ..

theorem checkerAt_withHead_same (s : State) (h : Nat) (x : Head) : checkerAt (withHead s h x) h =
    if (headAt s h).mode = x.mode then checkerAt s h
    else { running := 0, latched := 0, timer := 3600000, exceeded := false, degraded := (checkerAt s h).degraded } := by
  simp only [checkerAt, withHead, checkersForMode]
  split
  · rfl
  · exact tabGet_tabPut_same ..

theorem checkerAt_withHead_other (s : State) (h : Nat) (x : Head) {k : Nat} (hk : k ≠ h) :
    checkerAt (withHead s h x) k = checkerAt s k := by
  simp only [checkerAt, withHead, checkersForMode]
  split
  · rfl
  · exact tabGet_tabPut_other _ _ _ hk

section writeHead
variable {head target : Octet} {interval : Half} {mode : ModeField} {m : TimebaseMode}

theorem writeHead_of_ranges (hm : timebaseMode mode = some m)
    (h : head.toNat ≤ 3 ∧ 100 ≤ interval.toNat ∧ interval.toNat ≤ 1000) :
    writeHead s head interval target mode =
      (withHead s head.toNat { interval := interval.toNat, target := target, mode := m }, .done) := by
  simp only [writeHead, hm, h, and_self, if_true, withHead, checkersForMode]
  by_cases e : (headAt s head.toNat).mode = m <;> simp only [e, ne_eq, not_true, not_false_eq_true, decide_true,
    decide_false, Bool.false_eq_true, if_true, if_false] <;> rfl

theorem writeHead_of_outOfRange (h : ¬ (head.toNat ≤ 3 ∧ 100 ≤ interval.toNat ∧ interval.toNat ≤ 1000)) :
    writeHead s head interval target mode = (s, .range) := by
  unfold writeHead
  split
  · rfl
  · exact if_neg h

theorem writeHead_of_otherMode : writeHead s head interval target .other = (s, .range) := rfl

end writeHead

/-! ### Notices that no unit has asked for -/

theorem cableNotice_none (quiet : NoNotices s) (g : Nat) (b : Bool) : cableNotice s g b = s := notify_none _ quiet

theorem ticketNotice_none (quiet : NoNotices s) (u : Ticket) (st : NoticeState) : ticketNotice s u st = s :=
  notify_none _ quiet

/-! ### A storm that begins with a new cable ticket (R169) -/

/-- The slot a range is searched from is taken where it is free. -/
theorem lowestFree_first {lo n : Nat} (hn : 0 < n) (free : ∀ u ∈ s.tickets.tickets, u.id ≠ lo) :
    lowestFree s lo n none = some lo := by
  obtain ⟨m, rfl⟩ := Nat.exists_eq_succ_of_ne_zero (Nat.pos_iff_ne_zero.1 hn)
  have unused : slotUsed s lo = false := by simpa [slotUsed] using free
  simp [lowestFree, List.range_succ_eq_map, unused]

/-- A cable ticket takes slot 240 where that is free (R157). -/
theorem slotFor_equipment_first (free : ∀ u ∈ s.tickets.tickets, u.id ≠ 240) (base : TicketBase)
    (barGroup : Option Nat) : slotFor s .equipment base barGroup none = some (240, none) := by
  have first : lowestFree s Config.generalSlots (Config.ticketSlots - Config.generalSlots) none = some 240 :=
    lowestFree_first (by decide) free
  unfold slotFor
  dsimp only
  rw [first]
  rfl

/-- The ticket table of a storm of group `g` that begins with a new cable ticket in slot `id`. -/
def stormTickets (s : State) (g id : Nat) : List Ticket :=
  s.tickets.tickets.map (fun u => if isMember s g u then { u with attached := some g } else u) ++
    [newCableTicket s g id]

/-- The group with its members counted as before, in STORM with the cable ticket `id`, or CALM with none. -/
def groupWith (s : State) (g : Nat) (ticket : Option Nat) : CableGroup :=
  { storm := ticket.isSome, count := (groupAt s g).count, ticket := ticket }

/-- The part with its ticket table replaced, and with it the entry of one group. -/
def withStorm (s : State) (ts : List Ticket) (g : Nat) (x : CableGroup) : State :=
  { s with tickets := { tickets := ts, groups := tabPut groupZero s.tickets.groups g x } }

theorem groupAt_withStorm (s : State) (ts : List Ticket) (g : Nat) (x : CableGroup) (k : Nat) :
    groupAt (withStorm s ts g x) k = if k = g then x else groupAt s k := tabGet_tabPut ..

theorem beginStorm_new (s : State) (g id : Nat) : beginStorm (addTicket s (newCableTicket s g id)) g id =
    withStorm s (stormTickets s g id) g (groupWith s g (some id)) := by
  have memberless : isMember s g (newCableTicket s g id) = false := not_isMember_of_cable s g rfl
  have same : isMember (putGroup (addTicket s (newCableTicket s g id)) g
      { groupAt (addTicket s (newCableTicket s g id)) g with storm := true, ticket := some id }) = isMember s :=
    isMember_congr rfl
  rw [beginStorm, attachMembers, same]
  simp only [onTickets, putGroup, addTicket, List.map_append, List.map_cons, List.map_nil, memberless,
    Bool.false_eq_true, if_false]
  rfl

theorem enterStorm_new {g : Nat} (quiet : NoNotices s) (unticketed : findTicket s (.cableGroup g) .cableStorm = none)
    (free : ∀ u ∈ s.tickets.tickets, u.id ≠ 240) (test : State → Ticket → State) (base : TicketBase) :
    enterStorm test s g base = withStorm s (stormTickets s g 240) g (groupWith s g (some 240)) := by
  have raised : enterStorm test s g base =
      cableNotice (ticketNotice (beginStorm (addTicket s (newCableTicket s g 240)) g 240)
        (newCableTicket s g 240) .opened) g false := by
    simp only [enterStorm, unticketed, raiseCableTicket, slotFor_equipment_first free]
    rfl
  have still : NoNotices (withStorm s (stormTickets s g 240) g (groupWith s g (some 240))) := quiet
  rw [raised, beginStorm_new, ticketNotice_none still, cableNotice_none still]

/-! ### A storm that ends (R173) -/

/-- The ticket table once the storm of group `g` with the cable ticket `k` has ended. -/
def calmTickets (s : State) (g k : Nat) : List Ticket :=
  s.tickets.tickets.map (fun u => { u with
    state := if u.id = k then .cleared else u.state
    attached := if u.attached = some g then none else u.attached })

/-- The cable ticket cleared, then the members detached, is one change of each ticket. -/
theorem calmTickets_eq (s : State) (g k : Nat) :
    (s.tickets.tickets.map (fun u => if u.id = k then { u with state := .cleared } else u)).map
      (fun u => if u.attached = some g then { u with attached := none } else u) = calmTickets s g k := by
  rw [List.map_map]
  refine List.map_congr_left fun u _ => ?_
  by_cases hk : u.id = k <;> by_cases hg : u.attached = some g <;> simp [hk, hg]

theorem exitStorm_quiet {g k : Nat} (quiet : NoNotices s) (hk : (groupAt s g).ticket = some k) :
    exitStorm s g = withStorm s (calmTickets s g k) g (groupWith s g none) := by
  have calmed : detachMembers (putGroup (modTicket s k (fun u => { u with state := .cleared })) g
      { groupAt s g with storm := false, ticket := none }) g =
      withStorm s (calmTickets s g k) g (groupWith s g none) := by
    simp only [detachMembers, putGroup, modTicket, onTickets, calmTickets_eq]
    rfl
  have still : NoNotices (withStorm s (calmTickets s g k) g (groupWith s g none)) := quiet
  unfold exitStorm
  rw [hk]
  dsimp only
  rw [show groupAt (modTicket s k (fun u => { u with state := .cleared })) g = groupAt s g from rfl, calmed]
  split
  · rw [ticketNotice_none still, cableNotice_none still]
  · rw [cableNotice_none still]

/-! ### A threshold change (R174) -/

section thresholdChanged
variable {g : Nat}

theorem thresholdChanged_of_calm (calm : (groupAt s g).storm = false)
    (below : thresholdAt s g = 0 ∨ (groupAt s g).count < thresholdAt s g) : thresholdChanged s g = s := by
  have notDue : entryDue s g = false := by
    simp only [entryDue, calm, true_and, decide_eq_false_iff_not]
    omega
  simp only [thresholdChanged, calm, notDue, Bool.false_eq_true, if_false]

theorem thresholdChanged_of_storm (quiet : NoNotices s) (storm : (groupAt s g).storm = true)
    (set : thresholdAt s g ≠ 0) (above : thresholdAt s g / 2 < (groupAt s g).count) : thresholdChanged s g = s := by
  have notDue : exitDue s g = false := by
    simp only [exitDue, storm, true_and, decide_eq_false_iff_not]
    omega
  simp only [thresholdChanged, storm, notDue, Bool.false_eq_true, if_true, if_false, cableNotice_none quiet]

theorem thresholdChanged_enters (quiet : NoNotices s) (calm : (groupAt s g).storm = false)
    (set : 1 ≤ thresholdAt s g) (reached : thresholdAt s g ≤ (groupAt s g).count)
    (unticketed : findTicket s (.cableGroup g) .cableStorm = none) (free : ∀ u ∈ s.tickets.tickets, u.id ≠ 240) :
    thresholdChanged s g = withStorm s (stormTickets s g 240) g (groupWith s g (some 240)) := by
  have due : entryDue s g = true := by simp only [entryDue, calm, set, reached, and_self, decide_true]
  simp only [thresholdChanged, calm, due, Bool.false_eq_true, if_true, if_false, enterStorm_new quiet unticketed free]

theorem thresholdChanged_exits {k : Nat} (quiet : NoNotices s) (storm : (groupAt s g).storm = true)
    (hk : (groupAt s g).ticket = some k) (low : thresholdAt s g = 0 ∨ (groupAt s g).count ≤ thresholdAt s g / 2) :
    thresholdChanged s g = withStorm s (calmTickets s g k) g (groupWith s g none) := by
  have due : exitDue s g = true := by simp only [exitDue, storm, low, and_self, decide_true]
  simp only [thresholdChanged, storm, due, if_true, exitStorm_quiet quiet hk]

end thresholdChanged

/-- The part with the threshold of a group replaced. -/
def withThreshold (s : State) (g v : Nat) : State :=
  { s with tables := { s.tables with thresholds := tabPut 0 s.tables.thresholds g v } }

theorem thresholdAt_withThreshold (s : State) (g v k : Nat) :
    thresholdAt (withThreshold s g v) k = if k = g then v else thresholdAt s k := tabGet_tabPut ..

section writeGroupThreshold
variable {x threshold : Octet}

theorem writeGroupThreshold_of_wide (h : 63 < x.toNat) : writeGroupThreshold s x threshold = (s, .range) := if_pos h

theorem writeGroupThreshold_of_same (h : x.toNat ≤ 63) (same : thresholdAt s x.toNat = threshold.toNat) :
    writeGroupThreshold s x threshold = (s, .done) :=
  (if_neg (Nat.not_lt.2 h)).trans (if_pos same)

theorem writeGroupThreshold_of_new (h : x.toNat ≤ 63) (new : thresholdAt s x.toNat ≠ threshold.toNat) :
    writeGroupThreshold s x threshold =
      (thresholdChanged (withThreshold s x.toNat threshold.toNat) x.toNat, .done) :=
  (if_neg (Nat.not_lt.2 h)).trans (if_neg new)

end writeGroupThreshold

/-- `t` comes of `b`, but for the thresholds `s` has, by WRITE_GROUP_THRESHOLD answered DONE. -/
def ThresholdWritten (s : State) (src : Octet) (tag : Half) (x threshold : Octet) (b t : State) : Prop :=
  exec (.writeGroupThreshold src tag x threshold) s = .next (answered t src tag 14#8 .done) ∧
    thresholdAt t x.toNat = threshold.toNat ∧ (∀ k, k ≠ x.toNat → thresholdAt t k = thresholdAt s k) ∧
    t = { b with tables := { s.tables with thresholds := t.tables.thresholds } }

section written
variable {src x threshold : Octet} {tag : Half}

/-- A new threshold whose event changes the tickets alone. -/
theorem thresholdWritten_of_new {k : TicketManager} (h : Accepts s src 1 .table) (hx : x.toNat ≤ 63)
    (new : threshold.toNat ≠ thresholdAt s x.toNat)
    (run : thresholdChanged (withThreshold (reservePlaces s 1) x.toNat threshold.toNat) x.toNat =
      { withThreshold (reservePlaces s 1) x.toNat threshold.toNat with tickets := k }) :
    ThresholdWritten s src tag x threshold { s with tickets := k }
      { withThreshold s x.toNat threshold.toNat with tickets := k } := by
  have wrote := writeGroupThreshold_of_new (s := reservePlaces s 1) hx (Ne.symm new)
  rw [run] at wrote
  exact ⟨exec_tableWrite (c := .writeGroupThreshold x threshold) rfl h ⟨rfl, rfl, nofun⟩ (congrArg answering wrote),
    (thresholdAt_withThreshold ..).trans (if_pos rfl), fun _ hk => (thresholdAt_withThreshold ..).trans (if_neg hk),
    rfl⟩

/-- A threshold that leaves the tickets as they are, that of the group before among them. -/
theorem thresholdWritten_of_still (h : Accepts s src 1 .table) (hx : x.toNat ≤ 63)
    (run : thresholdChanged (withThreshold (reservePlaces s 1) x.toNat threshold.toNat) x.toNat =
      withThreshold (reservePlaces s 1) x.toNat threshold.toNat) :
    ∃ t, ThresholdWritten s src tag x threshold s t := by
  by_cases same : thresholdAt s x.toNat = threshold.toNat
  · exact ⟨s, exec_tableRefused (c := .writeGroupThreshold x threshold) rfl h ⟨rfl, rfl, nofun⟩
      (congrArg answering (writeGroupThreshold_of_same (s := reservePlaces s 1) hx same)), same, fun _ _ => rfl, rfl⟩
  · exact ⟨_, thresholdWritten_of_new h hx (Ne.symm same) run⟩

/-- A new threshold by which the group enters or leaves STORM. -/
theorem thresholdWritten_of_storm {ts : List Ticket} {y : CableGroup} (h : Accepts s src 1 .table) (hx : x.toNat ≤ 63)
    (new : threshold.toNat ≠ thresholdAt s x.toNat)
    (run : thresholdChanged (withThreshold (reservePlaces s 1) x.toNat threshold.toNat) x.toNat =
      withStorm (withThreshold (reservePlaces s 1) x.toNat threshold.toNat) ts x.toNat y) :
    ∃ t, groupAt t x.toNat = y ∧ (∀ k, k ≠ x.toNat → groupAt t k = groupAt s k) ∧
      ThresholdWritten s src tag x threshold { s with tickets := { tickets := ts, groups := t.tickets.groups } } t :=
  ⟨withStorm (withThreshold s x.toNat threshold.toNat) ts x.toNat y, (groupAt_withStorm ..).trans (if_pos rfl),
    fun _ hk => (groupAt_withStorm ..).trans (if_neg hk), thresholdWritten_of_new h hx new run⟩

end written

/-- Settles O42, command by command, each by its ranges; the group threshold by what its event comes to. -/
theorem tableWrites : Obligations.TableWrites := by
  unfold Obligations.TableWrites
  intro s src x target tag interval a m danger clear threshold h p ranges mode head
  let r := reservePlaces s 1
  have inRange : profileInRange (profileOf a) = true ↔ ranges := decide_eq_true_iff
  have modeRead : timebaseMode mode = some m := by cases m <;> rfl
  have headRefused {f : ModeField} (run : writeHead r x interval target f = (r, .range)) :
      exec (.writeHead src tag x interval target f) s = .next (answered s src tag 11#8 .range) :=
    exec_tableRefused (c := .writeHead x interval target f) rfl h ⟨rfl, rfl, nofun⟩ (congrArg answering run)
  refine ⟨fun ⟨hn, hr⟩ => ?_, fun bad => ?_, fun hx low high => ?_, fun bad => headRefused ?_,
    headRefused writeHead_of_otherMode, fun hr => ?_, fun bad => ?_, fun hx => ?_, fun wide => ?_⟩
  · exact ⟨withProfile s a.number.toNat p, exec_tableWrite (c := .writeProfile a) rfl h ⟨rfl, rfl, nofun⟩
      (congrArg answering (writeProfile_of_ranges (s := r) ⟨hn, inRange.2 hr⟩)),
      (profileAt_withProfile ..).trans (if_pos rfl), fun _ hk => (profileAt_withProfile ..).trans (if_neg hk), rfl⟩
  · exact exec_tableRefused (c := .writeProfile a) rfl h ⟨rfl, rfl, nofun⟩
      (congrArg answering (writeProfile_of_outOfRange fun ⟨hn, hr⟩ => bad ⟨hn, inRange.1 hr⟩))
  · exact ⟨withHead s x.toNat head, exec_tableWrite (c := .writeHead x interval target mode) rfl h ⟨rfl, rfl, nofun⟩
      (congrArg answering (writeHead_of_ranges (s := r) modeRead ⟨hx, low, high⟩)),
      (headAt_withHead ..).trans (if_pos rfl),
      fun _ hk => ⟨(headAt_withHead ..).trans (if_neg hk), checkerAt_withHead_other s _ head hk⟩,
      checkerAt_withHead_same s _ head, rfl⟩
  · exact writeHead_of_outOfRange (by omega)
  · exact exec_tableWrite (c := .writeHazard danger clear) rfl h ⟨rfl, rfl, nofun⟩
      (congrArg answering (if_pos (c := 2000 ≤ danger.toNat ∧ _) hr))
  · exact exec_tableRefused (c := .writeHazard danger clear) rfl h ⟨rfl, rfl, nofun⟩
      (congrArg answering (if_neg (c := 2000 ≤ danger.toNat ∧ _) bad))
  · have stored : thresholdAt (withThreshold r x.toNat threshold.toNat) x.toNat = threshold.toNat :=
      (thresholdAt_withThreshold ..).trans (if_pos rfl)
    refine ⟨fun calm below => ?_, fun storm quiet set above => ?_, fun new quiet =>
      ⟨fun calm set reached unticketed free => ?_, fun k storm hk low => ?_⟩⟩
    · exact thresholdWritten_of_still h hx (thresholdChanged_of_calm calm (stored.symm ▸ below))
    · exact thresholdWritten_of_still h hx
        (thresholdChanged_of_storm quiet storm (stored.symm ▸ set) (stored.symm ▸ above))
    · exact thresholdWritten_of_storm h hx new
        (thresholdChanged_enters quiet calm (stored.symm ▸ set) (stored.symm ▸ reached) unticketed free)
    · exact thresholdWritten_of_storm h hx new (thresholdChanged_exits quiet storm hk (stored.symm ▸ low))
  · exact exec_tableRefused (c := .writeGroupThreshold x threshold) rfl h ⟨rfl, rfl, nofun⟩
      (congrArg answering (writeGroupThreshold_of_wide wide))

end Sys2Proof.Machine
end

section
/-! PROOFS. Test programs and their load buffers: the valid steps, what a load buffer holds after a cell, the cells of
WRITE_PROGRAM, and O44. -/

namespace Sys2Proof.Machine
open Sys2Proof

variable {s t : State} {i : Instr}

/-! ### Valid steps (R50) -/

theorem legOf_eq_some_iff {n : Nat} {leg : Leg} :
    legOf n = some leg ↔ (leg, n) ∈ [(Leg.tipGround, 1), (.ringGround, 2), (.tipRing, 3)] := by
  unfold legOf
  split
  · cases leg <;> simp
  · cases leg <;> simp
  · cases leg <;> simp
  · next h1 h2 h3 =>
    simp only [List.mem_cons, Prod.mk.injEq, List.not_mem_nil, or_false, reduceCtorEq, false_iff]
    rintro (⟨-, e⟩ | ⟨-, e⟩ | ⟨-, e⟩)
    · exact h1 e
    · exact h2 e
    · exact h3 e

theorem stimulusOk_iff (v : Int) : stimulusOk v = true ↔ 10000 ≤ v.natAbs ∧ v.natAbs ≤ 150000 := decide_eq_true_iff

/-- The metallic kinds are those with a leg and a window, and DIAL the one with a digit limit. -/
theorem stepOf_eq_some_iff (raw : RawStep) (st : ProgramStep) :
    stepOf raw = some st ↔
      (∃ leg, legOf raw.leg = some leg ∧ raw.window.toNat ≤ 128 ∧
        ((raw.kind = 1 ∧ 8 ≤ raw.window.toNat ∧ st = .fv leg raw.window.toNat) ∨
         (stimulusOk raw.stimulus.toInt = true ∧
          ((raw.kind = 2 ∧ 8 ≤ raw.window.toNat ∧ st = .res leg raw.stimulus.toInt raw.window.toNat) ∨
           (raw.kind = 3 ∧ 16 ≤ raw.window.toNat ∧ st = .cap leg raw.stimulus.toInt raw.window.toNat))))) ∨
      (raw.kind = 4 ∧ 1 ≤ raw.digits.toNat ∧ raw.digits.toNat ≤ 3 ∧ st = .dial raw.digits.toNat) := by
  unfold stepOf
  dsimp only
  split
  case h_5 h1 h2 h3 h4 =>
    refine ⟨nofun, ?_⟩
    rintro (⟨-, -, -, ⟨e, -⟩ | ⟨-, ⟨e, -⟩ | ⟨e, -⟩⟩⟩ | ⟨e, -⟩)
    · exact (h1 e).elim
    · exact (h2 e).elim
    · exact (h3 e).elim
    · exact (h4 e).elim
  all_goals
    rename_i e
    simp only [e, Option.bind_eq_some_iff, Option.ite_none_right_eq_some, Option.some.injEq]
    grind

/-! ### The numbers a table lists -/

theorem mem_keys_tabDrop {α : Type} (t : Tab α) (k j : Nat) :
    j ∈ (tabDrop t k).map (·.1) ↔ j ≠ k ∧ j ∈ t.map (·.1) := by
  induction t with
  | nil => simp [tabDrop]
  | cons x rest ih =>
    obtain ⟨n, v⟩ := x
    simp only [tabDrop]
    split
    · next e => rw [ih, List.map_cons, List.mem_cons]; grind
    · next e => rw [List.map_cons, List.mem_cons, ih, List.map_cons, List.mem_cons]; grind

theorem mem_keys_tabInsert {α : Type} (t : Tab α) (k j : Nat) (v : α) :
    j ∈ (tabInsert t k v).map (·.1) ↔ j = k ∨ j ∈ t.map (·.1) := by
  induction t with
  | nil => simp [tabInsert]
  | cons x rest ih =>
    obtain ⟨n, w⟩ := x
    simp only [tabInsert]
    split
    · rw [List.map_cons, List.mem_cons]
    · rw [List.map_cons, List.mem_cons, ih, List.map_cons, List.mem_cons, or_left_comm]

/-- A write of other than the shared value lists the entry written, and the others as before. -/
theorem mem_keys_tabPut {α : Type} [DecidableEq α] {d v : α} (hv : v ≠ d) (t : Tab α) (k j : Nat) :
    j ∈ (tabPut d t k v).map (·.1) ↔ j = k ∨ j ∈ t.map (·.1) := by
  rw [tabPut, if_neg hv, mem_keys_tabInsert, mem_keys_tabDrop]
  by_cases e : j = k <;> simp [e]

/-- A write beyond the last entry listed stands behind it. -/
theorem tabPut_of_lt {α : Type} [DecidableEq α] {d v : α} (hv : v ≠ d) {t : Tab α} {k : Nat} (h : ∀ x ∈ t, x.1 < k) :
    tabPut d t k v = t ++ [(k, v)] := by
  rw [tabPut, if_neg hv, tabDrop_eq_self t k fun x hx => Nat.ne_of_lt (h x hx)]
  induction t with
  | nil => rfl
  | cons x rest ih =>
    obtain ⟨n, w⟩ := x
    have low : n < k := h (n, w) List.mem_cons_self
    rw [tabInsert, if_neg (Nat.not_lt.2 (Nat.le_of_lt low)), ih fun x hx => h x (List.mem_cons_of_mem _ hx)]
    rfl

/-! ### What a load buffer holds (R52, R53) -/

/-- The buffer of program `n` is EMPTY or LOADING for `src`. -/
def LoadIsMine (s : State) (n : Nat) (src : Octet) : Prop := (bufferAt s n).all (fun b => b.owner = src) = true

theorem loadIsMine_iff {n : Nat} {src : Octet} :
    LoadIsMine s n src ↔ ∀ b, bufferAt s n = some b → b.owner = src := by
  simp [LoadIsMine, Option.all_eq_true]

theorem loadIsMine_of_empty {n : Nat} (src : Octet) (h : bufferAt s n = none) : LoadIsMine s n src := by
  rw [LoadIsMine, h]
  rfl

theorem loadIsMine_of_owner {n : Nat} {src : Octet} {b : LoadBuffer} (h : bufferAt s n = some b)
    (own : b.owner = src) : LoadIsMine s n src := by
  rw [LoadIsMine, h]
  exact decide_eq_true own

theorem not_loadingForOther {n : Nat} {src : Octet} (h : LoadIsMine s n src) : loadingForOther s n src = false := by
  rw [loadIsMine_iff] at h
  simpa [loadingForOther, Option.any_eq_false] using h

theorem loadingForOther_of_owner {n : Nat} {src : Octet} {b : LoadBuffer} (h : bufferAt s n = some b)
    (other : b.owner ≠ src) : loadingForOther s n src = true := by
  simp [loadingForOther, h, other]

section storeStep
variable {buffer : Option LoadBuffer} {src : Octet} {k : Nat} {st : ProgramStep}

theorem storeStep_timer : (storeStep buffer src k st).timer = 10000 := by
  cases buffer <;> rfl

theorem storeStep_owner (h : ∀ b, buffer = some b → b.owner = src) : (storeStep buffer src k st).owner = src := by
  cases buffer with
  | none => rfl
  | some b => exact h b rfl

theorem storeStep_step (j : Nat) : tabGet none (storeStep buffer src k st).steps j =
    if j = k then some st else buffer.bind (fun b => tabGet none b.steps j) := by
  cases buffer with
  | none => simp only [storeStep, tabGet, eq_comm (a := j)]; rfl
  | some b => exact tabGet_tabPut none b.steps k j (some st)

theorem mem_keys_storeStep (j : Nat) : j ∈ (storeStep buffer src k st).steps.map (·.1) ↔
    j = k ∨ ∃ b, buffer = some b ∧ j ∈ b.steps.map (·.1) := by
  cases buffer with
  | none => simp [storeStep]
  | some b => simp only [storeStep, mem_keys_tabPut (Option.some_ne_none st), Option.some.injEq, exists_eq_left']

end storeStep

/-- The steps of a program as a load buffer holds them, numbered from 1. -/
def numbered (steps : List ProgramStep) : Tab (Option ProgramStep) := steps.zipIdx.map (fun x => (x.2 + 1, some x.1))

theorem numbered_keys (steps : List ProgramStep) :
    (numbered steps).map (·.1) = (List.range steps.length).map (· + 1) := by
  have places : steps.zipIdx.map (·.2) = List.range steps.length := by
    rw [List.range_eq_range']
    exact List.zipIdx_map_snd 0 steps
  rw [← places, numbered, List.map_map, List.map_map]
  rfl

theorem numbered_steps (steps : List ProgramStep) : (numbered steps).filterMap (·.2) = steps := by
  rw [numbered, List.filterMap_map]
  exact (congrFun (List.filterMap_eq_map (f := Prod.fst)) _).trans (List.zipIdx_map_fst 0 steps)

theorem tabPut_numbered (steps : List ProgramStep) (st : ProgramStep) :
    tabPut none (numbered steps) (steps.length + 1) (some st) = numbered (steps ++ [st]) := by
  have below : ∀ x ∈ numbered steps, x.1 < steps.length + 1 := fun x hx => by
    have key := List.mem_map_of_mem (f := (·.1)) hx
    rw [numbered_keys] at key
    obtain ⟨k, hk, e⟩ := List.mem_map.1 key
    have := List.mem_range.1 hk
    omega
  rw [tabPut_of_lt (Option.some_ne_none st) below]
  simp [numbered, List.zipIdx_append]

theorem storeStep_numbered {buffer : Option LoadBuffer} {src : Octet} {steps : List ProgramStep}
    (h : (buffer = none ∧ steps = []) ∨ ∃ b, buffer = some b ∧ b.steps = numbered steps) (st : ProgramStep) :
    (storeStep buffer src (steps.length + 1) st).steps = numbered (steps ++ [st]) := by
  rcases h with ⟨rfl, rfl⟩ | ⟨b, rfl, held⟩
  · rfl
  · rw [← tabPut_numbered, ← held]
    rfl

/-- A buffer that holds every index of a program, and no other, assembles it. -/
theorem assembled_of_numbered {b : LoadBuffer} {steps : List ProgramStep} (h : b.steps = numbered steps)
    (routine : Bool) : assembled b steps.length routine = some { steps := steps, routineAllowed := routine } := by
  rw [assembled, h, numbered_steps]
  exact if_pos (numbered_keys steps)

/-- A buffer assembles nothing where an index is missing, or held above the count. -/
theorem assembled_of_index {b : LoadBuffer} {count j : Nat} (routine : Bool)
    (h : ¬ (j ∈ b.steps.map (·.1) ↔ 1 ≤ j ∧ j ≤ count)) : assembled b count routine = none := by
  refine if_neg fun e => h ?_
  rw [e, List.mem_map]
  refine ⟨fun ⟨k, hk, e⟩ => ?_, fun hj => ⟨j - 1, List.mem_range.2 (by omega), by omega⟩⟩
  have := List.mem_range.1 hk
  omega

/-- What a program valid as a whole is, its steps being 1 to 12 in number (R51). -/
theorem programValid_iff {steps : List ProgramStep} (low : 1 ≤ steps.length) (high : steps.length ≤ 12)
    (routine : Bool) : programValid { steps := steps, routineAllowed := routine } = true ↔
      (∀ x ∈ steps, isMetallic x = true) ∨ ∃ k, steps = [.dial k] ∧ routine = false := by
  have dial : isDialProgram { steps := steps, routineAllowed := routine } = true ↔ ∃ k, steps = [.dial k] := by
    unfold isDialProgram
    split
    · next k e => exact ⟨fun _ => ⟨k, e⟩, fun _ => rfl⟩
    · next no => exact ⟨nofun, fun ⟨k, e⟩ => absurd e (no k)⟩
  simp only [programValid, low, high, decide_true, Bool.and_self, Bool.true_and, Bool.or_eq_true, List.all_eq_true,
    Bool.and_eq_true, dial, Bool.not_eq_eq_eq_not, Bool.not_true, exists_and_right]

/-- A program is in use: a waiting entry, a session or an ACTIVE schedule names it (R55). -/
def NamesProgram (s : State) (n : Nat) : Prop :=
  (∃ y ∈ s.arbiter.queue, y.program = n) ∨ (∃ id y, id < 8 ∧ sessionAt s id = some y ∧ y.program = n) ∨
    (∃ k cfg, k < 8 ∧ (scheduleAt s k).config = some cfg ∧ (scheduleAt s k).run.state = .active ∧ cfg.program = n)

theorem programInUse_iff (s : State) (n : Nat) : programInUse s n = true ↔ NamesProgram s n := by
  have sessions : ((liveSessions s).any (fun y => y.2.program = n)) = true ↔
      ∃ id y, id < 8 ∧ sessionAt s id = some y ∧ y.program = n := by
    simp only [liveSessions, Config.sessionPlaces, List.any_filterMap, List.any_eq_true, List.mem_range]
    refine exists_congr fun id => ?_
    cases sessionAt s id <;> simp
  have schedules : ((List.range 8).any (fun k => (scheduleAt s k).run.state = .active &&
      (scheduleAt s k).config.any (fun c => c.program = n))) = true ↔
      ∃ k cfg, k < 8 ∧ (scheduleAt s k).config = some cfg ∧ (scheduleAt s k).run.state = .active ∧ cfg.program = n := by
    simp only [List.any_eq_true, List.mem_range, Bool.and_eq_true, decide_eq_true_eq]
    refine exists_congr fun k => ?_
    cases (scheduleAt s k).config <;> simp [and_left_comm]
  simp only [programInUse, Bool.or_eq_true, sessions, schedules, or_assoc, NamesProgram, List.any_eq_true,
    decide_eq_true_eq]

/-! ### The table of programs and the buffers, one entry changed -/

/-- `t` comes of `s` by a change of the buffer and the program numbered `n` alone. -/
def OtherLoadsKept (s t : State) (n : Nat) : Prop :=
  (∀ k, k ≠ n → bufferAt t k = bufferAt s k ∧ programAt t k = programAt s k) ∧
    t = { s with tables := { s.tables with buffers := t.tables.buffers, programs := t.tables.programs } }

theorem OtherLoadsKept.refl (s : State) (n : Nat) : OtherLoadsKept s s n := ⟨fun _ _ => ⟨rfl, rfl⟩, rfl⟩

/-- The part with a program replaced. -/
def putProgram (s : State) (n : Nat) (p : Program) : State :=
  onTables s (fun t => { t with programs := tabPut programZero t.programs n p })

theorem bufferAt_putBuffer (s : State) (n : Nat) (b : Option LoadBuffer) (k : Nat) :
    bufferAt (putBuffer s n b) k = if k = n then b else bufferAt s k := tabGet_tabPut ..

theorem programAt_putProgram (s : State) (n : Nat) (p : Program) (k : Nat) :
    programAt (putProgram s n p) k = if k = n then p else programAt s k := tabGet_tabPut ..

theorem otherLoadsKept_putBuffer (s : State) (n : Nat) (b : Option LoadBuffer) :
    OtherLoadsKept s (putBuffer s n b) n :=
  ⟨fun _ hk => ⟨(bufferAt_putBuffer ..).trans (if_neg hk), rfl⟩, rfl⟩

theorem otherLoadsKept_putProgram {n : Nat} (h : OtherLoadsKept s t n) (p : Program) :
    OtherLoadsKept s (putProgram t n p) n := by
  obtain ⟨others, frame⟩ := h
  refine ⟨fun k hk => ⟨(others k hk).1, ((programAt_putProgram ..).trans (if_neg hk)).trans (others k hk).2⟩, ?_⟩
  rw [frame]
  rfl

end Sys2Proof.Machine
end

section
/-! PROOFS. The step, final and clearing cells of WRITE_PROGRAM, and O44. -/

namespace Sys2Proof.Machine
open Sys2Proof

variable {s t : State} {i : Instr}

/-! ### The three forms of WRITE_PROGRAM (R52 to R55) -/

theorem abandonLoad_own {n : Nat} {src : Octet} {b : LoadBuffer} (h : bufferAt s n = some b) (own : b.owner = src) :
    abandonLoad s n src = putBuffer s n none := by
  simp only [abandonLoad, h, own, if_true]

theorem abandonLoad_other {n : Nat} {src : Octet} (h : ∀ b, bufferAt s n = some b → b.owner ≠ src) :
    abandonLoad s n src = s := by
  unfold abandonLoad
  split
  · next b e => exact if_neg (h b e)
  · rfl

section cells
variable {src program : Octet} {n k count : Nat} {raw : RawStep} {routine : Bool} {st : ProgramStep} {p : Program}

theorem writeProgramStep_of_invalid (h : 31 < program.toNat ∨ stepOf raw = none ∨ k < 1 ∨ 12 < k) :
    writeProgramStep s src program k raw = (abandonLoad s program.toNat src, .range) := by
  unfold writeProgramStep
  split
  · next st e =>
    rw [e] at h
    exact if_neg (by simp only [reduceCtorEq, false_or] at h; omega)
  · rfl

theorem writeProgramFinal_of_invalid
    (h : 31 < program.toNat ∨ stepOf raw = none ∨ count < 1 ∨ 12 < count ∨ k ≠ count) :
    writeProgramFinal s src program k count routine raw = (abandonLoad s program.toNat src, .range) := by
  unfold writeProgramFinal
  split
  · next st e =>
    rw [e] at h
    exact if_neg (by simp only [reduceCtorEq, false_or] at h; omega)
  · rfl

theorem writeProgramStep_of_valid (hs : stepOf raw = some st) (hn : program.toNat ≤ 31) (low : 1 ≤ k) (high : k ≤ 12) :
    writeProgramStep s src program k raw = if loadingForOther s program.toNat src then (s, .inUse)
      else (putBuffer s program.toNat (some (storeStep (bufferAt s program.toNat) src k st)), .done) := by
  simp only [writeProgramStep, hs, hn, low, high, and_self, if_true]

theorem writeProgramFinal_of_other (hs : stepOf raw = some st) (hn : program.toNat ≤ 31) (low : 1 ≤ count)
    (high : count ≤ 12) (other : loadingForOther s program.toNat src = true) :
    writeProgramFinal s src program count count routine raw = (s, .inUse) := by
  simp only [writeProgramFinal, hs, hn, low, high, and_self, if_true, other]

/-- A final cell of the buffer's own source that leaves no whole program, or no valid one. -/
theorem writeProgramFinal_of_rejected (hs : stepOf raw = some st) (hn : program.toNat ≤ 31) (low : 1 ≤ count)
    (high : count ≤ 12) (mine : LoadIsMine s program.toNat src)
    (h : ∀ p, assembled (storeStep (bufferAt s program.toNat) src count st) count routine = some p →
      programValid p = false) :
    writeProgramFinal s src program count count routine raw = (putBuffer s program.toNat none, .range) := by
  simp only [writeProgramFinal, hs, hn, low, high, and_self, if_true, not_loadingForOther mine, Bool.false_eq_true,
    if_false]
  split
  · rfl
  · next p e => exact if_pos (h p e)

theorem writeProgramFinal_of_valid (hs : stepOf raw = some st) (hn : program.toNat ≤ 31) (low : 1 ≤ count)
    (high : count ≤ 12) (mine : LoadIsMine s program.toNat src)
    (whole : assembled (storeStep (bufferAt s program.toNat) src count st) count routine = some p)
    (valid : programValid p = true) :
    writeProgramFinal s src program count count routine raw = if programInUse s program.toNat then
        (putBuffer s program.toNat (some (storeStep (bufferAt s program.toNat) src count st)), .inUse)
      else (putProgram (putBuffer s program.toNat none) program.toNat p, .done) := by
  simp only [writeProgramFinal, hs, hn, low, high, and_self, if_true, not_loadingForOther mine, Bool.false_eq_true,
    if_false, whole, valid, Bool.true_eq_false]
  rfl

theorem writeProgramClear_of_wide (h : 31 < program.toNat) : writeProgramClear s src program = (s, .range) := if_pos h

theorem writeProgramClear_of_other (hn : program.toNat ≤ 31) (other : loadingForOther s program.toNat src = true) :
    writeProgramClear s src program = (s, .inUse) :=
  (if_neg (Nat.not_lt.2 hn)).trans (if_pos other)

theorem writeProgramClear_of_mine (hn : program.toNat ≤ 31) (mine : LoadIsMine s program.toNat src) :
    writeProgramClear s src program = if programInUse s program.toNat then (s, .inUse)
      else (putProgram (abandonLoad s program.toNat src) program.toNat programZero, .done) := by
  simp only [writeProgramClear, Nat.not_lt.2 hn, not_loadingForOther mine, Bool.false_eq_true, if_false]
  rfl

end cells

/-! ### What a cell of WRITE_PROGRAM comes to -/

/-- A cell refused RANGE: a load of its source is abandoned, and another's kept, as the program is. -/
def LoadRefused (s : State) (src : Octet) (tag : Half) (n : Nat) (cell : Host.Outcome State Fault Refusal) : Prop :=
  ∃ t, cell = .next (answered t src tag 10#8 .range) ∧ (LoadIsMine s n src → bufferAt t n = none) ∧
    (¬ LoadIsMine s n src → bufferAt t n = bufferAt s n) ∧ programAt t n = programAt s n ∧ OtherLoadsKept s t n

/-- `t` comes of `s` by a step stored in the buffer of program `n`, which is then `b`, its load timer at 10 s. -/
def StepStored (s t : State) (src : Octet) (n k : Nat) (st : ProgramStep) (b : LoadBuffer) : Prop :=
  bufferAt t n = some b ∧ b.owner = src ∧ b.timer = 10000 ∧ tabGet none b.steps k = some st ∧
    (∀ j, j ≠ k → tabGet none b.steps j = (bufferAt s n).bind (fun x => tabGet none x.steps j)) ∧
    programAt t n = programAt s n ∧ OtherLoadsKept s t n

theorem stepStored_putBuffer {src : Octet} {n : Nat} (mine : LoadIsMine s n src) (k : Nat) (st : ProgramStep) :
    StepStored s (putBuffer s n (some (storeStep (bufferAt s n) src k st))) src n k st
      (storeStep (bufferAt s n) src k st) :=
  ⟨(bufferAt_putBuffer ..).trans (if_pos rfl), storeStep_owner (loadIsMine_iff.1 mine), storeStep_timer,
    (storeStep_step k).trans (if_pos rfl), fun j hj => (storeStep_step j).trans (if_neg hj), rfl,
    otherLoadsKept_putBuffer ..⟩

section loadRefused
variable {src : Octet} {tag : Half} {c : Command} {n : Nat}

/-- A cell of the buffer's own source that empties the buffer. -/
theorem loadRefused_of_emptied (hi : rowCommand i = some (src, tag, c)) (h : Accepts s src 1 .table)
    (hc : IsTableCommand c) (code : commandCode c = 10#8) (mine : LoadIsMine s n src)
    (run : carryOut (reservePlaces s 1) src c = answering (putBuffer (reservePlaces s 1) n none, .range)) :
    LoadRefused s src tag n (exec i s) :=
  ⟨putBuffer s n none, code ▸ exec_tableWrite hi h hc run, fun _ => (bufferAt_putBuffer ..).trans (if_pos rfl),
    fun other => absurd mine other, rfl, otherLoadsKept_putBuffer ..⟩

/-- A cell that abandons a load of its own source. -/
theorem loadRefused_of_abandoned (hi : rowCommand i = some (src, tag, c)) (h : Accepts s src 1 .table)
    (hc : IsTableCommand c) (code : commandCode c = 10#8)
    (run : carryOut (reservePlaces s 1) src c = answering (abandonLoad (reservePlaces s 1) n src, .range)) :
    LoadRefused s src tag n (exec i s) := by
  by_cases own : ∃ b, bufferAt s n = some b ∧ b.owner = src
  · obtain ⟨b, hb, own⟩ := own
    rw [abandonLoad_own (s := reservePlaces s 1) hb own] at run
    exact loadRefused_of_emptied hi h hc code (loadIsMine_of_owner hb own) run
  · have other : ∀ b, bufferAt s n = some b → b.owner ≠ src := fun b hb e => own ⟨b, hb, e⟩
    rw [abandonLoad_other (s := reservePlaces s 1) other] at run
    refine ⟨s, code ▸ exec_tableRefused hi h hc run, fun mine => ?_, fun _ => rfl, rfl, .refl s n⟩
    exact Option.eq_none_iff_forall_not_mem.2 fun b hb => other b hb (loadIsMine_iff.1 mine b hb)

end loadRefused

/-! ### The cells, accepted (R52 to R55) -/

section accepted
variable {src program : Octet} {tag : Half} {raw : RawStep} {routine : Bool} {st : ProgramStep} {k count : Nat}

theorem programStep_invalid (h : Accepts s src 1 .table)
    (bad : 31 < program.toNat ∨ stepOf raw = none ∨ k < 1 ∨ 12 < k) :
    LoadRefused s src tag program.toNat (exec (.writeProgramStep src tag program k raw) s) :=
  loadRefused_of_abandoned (c := .writeProgramStep program k raw) rfl h ⟨rfl, rfl, nofun⟩ rfl
    (congrArg answering (writeProgramStep_of_invalid bad))

theorem programFinal_invalid (h : Accepts s src 1 .table)
    (bad : 31 < program.toNat ∨ stepOf raw = none ∨ count < 1 ∨ 12 < count ∨ k ≠ count) :
    LoadRefused s src tag program.toNat (exec (.writeProgramFinal src tag program k count routine raw) s) :=
  loadRefused_of_abandoned (c := .writeProgramFinal program k count routine raw) rfl h ⟨rfl, rfl, nofun⟩ rfl
    (congrArg answering (writeProgramFinal_of_invalid bad))

theorem programStep_stored (h : Accepts s src 1 .table) (hs : stepOf raw = some st) (hn : program.toNat ≤ 31)
    (low : 1 ≤ k) (high : k ≤ 12) (mine : LoadIsMine s program.toNat src) :
    ∃ t b, exec (.writeProgramStep src tag program k raw) s = .next (answered t src tag 10#8 .done) ∧
      StepStored s t src program.toNat k st b := by
  have run := (writeProgramStep_of_valid (s := reservePlaces s 1) (src := src) hs hn low high).trans
    (if_neg (Bool.eq_false_iff.1 (not_loadingForOther (s := reservePlaces s 1) mine)))
  exact ⟨_, _, exec_tableWrite (c := .writeProgramStep program k raw) rfl h ⟨rfl, rfl, nofun⟩ (congrArg answering run),
    stepStored_putBuffer mine k st⟩

/-- A final cell that leaves no whole program, or no valid one. -/
theorem programFinal_rejected (h : Accepts s src 1 .table) (hs : stepOf raw = some st) (hn : program.toNat ≤ 31)
    (low : 1 ≤ count) (high : count ≤ 12) (mine : LoadIsMine s program.toNat src)
    (reject : ∀ p, assembled (storeStep (bufferAt s program.toNat) src count st) count routine = some p →
      programValid p = false) :
    LoadRefused s src tag program.toNat (exec (.writeProgramFinal src tag program count count routine raw) s) :=
  loadRefused_of_emptied (c := .writeProgramFinal program count count routine raw) rfl h ⟨rfl, rfl, nofun⟩ rfl mine
    (congrArg answering (writeProgramFinal_of_rejected (s := reservePlaces s 1) hs hn low high mine reject))

/-- A final cell that leaves an index missing, or one held above its count. -/
theorem programFinal_misnumbered {j : Nat} (h : Accepts s src 1 .table) (hs : stepOf raw = some st)
    (hn : program.toNat ≤ 31) (low : 1 ≤ count) (high : count ≤ 12) (mine : LoadIsMine s program.toNat src)
    (bad : ¬ ((j = count ∨ ∃ b, bufferAt s program.toNat = some b ∧ j ∈ b.steps.map (·.1)) ↔ 1 ≤ j ∧ j ≤ count)) :
    LoadRefused s src tag program.toNat (exec (.writeProgramFinal src tag program count count routine raw) s) := by
  refine programFinal_rejected h hs hn low high mine fun p e => ?_
  rw [assembled_of_index (j := j) routine (by rwa [mem_keys_storeStep])] at e
  cases e

/-- A final cell that completes a valid program: it replaces the program, or is refused while that is in use, its step
stored. -/
theorem programFinal_complete {p : Program} (h : Accepts s src 1 .table) (hs : stepOf raw = some st)
    (hn : program.toNat ≤ 31) (low : 1 ≤ count) (high : count ≤ 12) (mine : LoadIsMine s program.toNat src)
    (whole : assembled (storeStep (bufferAt s program.toNat) src count st) count routine = some p)
    (valid : programValid p = true) :
    (¬ NamesProgram s program.toNat → ∃ t,
      exec (.writeProgramFinal src tag program count count routine raw) s = .next (answered t src tag 10#8 .done) ∧
      bufferAt t program.toNat = none ∧ programAt t program.toNat = p ∧ OtherLoadsKept s t program.toNat) ∧
    (NamesProgram s program.toNat → ∃ t d,
      exec (.writeProgramFinal src tag program count count routine raw) s = .next (answered t src tag 10#8 .inUse) ∧
      StepStored s t src program.toNat count st d) := by
  have run := writeProgramFinal_of_valid (s := reservePlaces s 1) hs hn low high mine whole valid
  have named : programInUse (reservePlaces s 1) program.toNat = true ↔ NamesProgram s program.toNat :=
    programInUse_iff (reservePlaces s 1) program.toNat
  refine ⟨fun unused => ?_, fun used => ?_⟩
  · exact ⟨putProgram (putBuffer s program.toNat none) program.toNat p,
      exec_tableWrite (c := .writeProgramFinal program count count routine raw) rfl h ⟨rfl, rfl, nofun⟩
        (congrArg answering (run.trans (if_neg (mt named.1 unused)))),
      (bufferAt_putBuffer s program.toNat none program.toNat).trans (if_pos rfl),
      (programAt_putProgram ..).trans (if_pos rfl), otherLoadsKept_putProgram (otherLoadsKept_putBuffer ..) p⟩
  · exact ⟨_, _, exec_tableWrite (c := .writeProgramFinal program count count routine raw) rfl h ⟨rfl, rfl, nofun⟩
        (congrArg answering (run.trans (if_pos (named.2 used)))),
      stepStored_putBuffer mine count st⟩

theorem programClear_refused {code : ResponseCode} (h : Accepts s src 1 .table)
    (run : writeProgramClear (reservePlaces s 1) src program = (reservePlaces s 1, code)) :
    exec (.writeProgramClear src tag program) s = .next (answered s src tag 10#8 code) :=
  exec_tableRefused (c := .writeProgramClear program) rfl h ⟨rfl, rfl, nofun⟩ (congrArg answering run)

/-- A clearing cell of the buffer's own source, or of an EMPTY one. -/
theorem programClear_mine (h : Accepts s src 1 .table) (hn : program.toNat ≤ 31)
    (mine : LoadIsMine s program.toNat src) :
    (¬ NamesProgram s program.toNat → ∃ t,
      exec (.writeProgramClear src tag program) s = .next (answered t src tag 10#8 .done) ∧
      bufferAt t program.toNat = none ∧ (programAt t program.toNat).steps = [] ∧ OtherLoadsKept s t program.toNat) ∧
    (NamesProgram s program.toNat →
      exec (.writeProgramClear src tag program) s = .next (answered s src tag 10#8 .inUse)) := by
  have run := writeProgramClear_of_mine (s := reservePlaces s 1) (src := src) hn mine
  have named : programInUse (reservePlaces s 1) program.toNat = true ↔ NamesProgram s program.toNat :=
    programInUse_iff (reservePlaces s 1) program.toNat
  have cleared (u : State) : (programAt (putProgram u program.toNat programZero) program.toNat).steps = [] :=
    congrArg Program.steps ((programAt_putProgram ..).trans (if_pos rfl))
  refine ⟨fun unused => ?_, fun used => programClear_refused h (run.trans (if_pos (named.2 used)))⟩
  replace run := run.trans (if_neg (mt named.1 unused))
  cases hb : bufferAt s program.toNat with
  | none =>
    rw [abandonLoad_other (s := reservePlaces s 1) fun b e => nomatch hb.symm.trans e] at run
    exact ⟨putProgram s program.toNat programZero,
      exec_tableWrite (c := .writeProgramClear program) rfl h ⟨rfl, rfl, nofun⟩ (congrArg answering run), hb, cleared s,
      otherLoadsKept_putProgram (.refl s _) programZero⟩
  | some b =>
    rw [abandonLoad_own (s := reservePlaces s 1) hb (loadIsMine_iff.1 mine b hb)] at run
    exact ⟨putProgram (putBuffer s program.toNat none) program.toNat programZero,
      exec_tableWrite (c := .writeProgramClear program) rfl h ⟨rfl, rfl, nofun⟩ (congrArg answering run),
      (bufferAt_putBuffer s program.toNat none program.toNat).trans (if_pos rfl), cleared _,
      otherLoadsKept_putProgram (otherLoadsKept_putBuffer ..) programZero⟩

/-- A cell for a buffer that is LOADING for another source. -/
theorem programCells_other {b : LoadBuffer} (h : Accepts s src 1 .table) (hs : stepOf raw = some st)
    (hn : program.toNat ≤ 31) (hb : bufferAt s program.toNat = some b) (other : b.owner ≠ src) :
    (∀ k, 1 ≤ k → k ≤ 12 →
      exec (.writeProgramStep src tag program k raw) s = .next (answered s src tag 10#8 .inUse) ∧
      exec (.writeProgramFinal src tag program k k routine raw) s = .next (answered s src tag 10#8 .inUse)) ∧
    exec (.writeProgramClear src tag program) s = .next (answered s src tag 10#8 .inUse) := by
  have loading : loadingForOther (reservePlaces s 1) program.toNat src = true :=
    loadingForOther_of_owner (s := reservePlaces s 1) hb other
  refine ⟨fun k low high => ⟨?_, ?_⟩, programClear_refused h (writeProgramClear_of_other hn loading)⟩
  · exact exec_tableRefused (c := .writeProgramStep program k raw) rfl h ⟨rfl, rfl, nofun⟩
      (congrArg answering ((writeProgramStep_of_valid hs hn low high).trans (if_pos loading)))
  · exact exec_tableRefused (c := .writeProgramFinal program k k routine raw) rfl h ⟨rfl, rfl, nofun⟩
      (congrArg answering (writeProgramFinal_of_other hs hn low high loading))

end accepted

/-- Settles O44: the valid steps by kind, then the cells by what they are refused for, and by what the buffer holds. -/
theorem programLoads : Obligations.ProgramLoads := by
  unfold Obligations.ProgramLoads
  refine ⟨fun raw st => by simp only [stepOf_eq_some_iff, legOf_eq_some_iff, stimulusOk_iff, and_assoc], ?_⟩
  intro s src program tag raw routine h n inUse othersKept mine stepCell finalCell clearCell refused
  refine ⟨fun k => programStep_invalid h, fun k count => programFinal_invalid h,
    fun wide => programClear_refused h (writeProgramClear_of_wide wide), programClear_mine h, ?_,
    fun st hn hs => ⟨fun k low high => programStep_stored h hs hn low high, fun steps short held => ?_,
      fun b held j count hb own keys low high bad => ?_, fun count empty low high => ?_,
      fun b => programCells_other h hs hn⟩⟩
  · rintro ⟨k, hk⟩ rfl
    exact ⟨putBuffer s n none, live_of_settled (f := fun s => putBuffer s n none) h.1.1 h.1.2,
      (bufferAt_putBuffer ..).trans (if_pos rfl), rfl, otherLoadsKept_putBuffer ..⟩
  · intro whole valid final
    have length : whole.length = steps.length + 1 := List.length_append
    have low : 1 ≤ whole.length := by omega
    have high : whole.length ≤ 12 := by omega
    have mine : LoadIsMine s n src :=
      held.elim (fun e => loadIsMine_of_empty src e.1) fun ⟨b, hb, own, _⟩ => loadIsMine_of_owner hb own
    have numbers := storeStep_numbered (src := src) (held.imp_right fun ⟨b, hb, _, keys⟩ => ⟨b, hb, keys⟩) st
    rw [← length] at numbers
    have assembles := assembled_of_numbered numbers routine
    have validRead := programValid_iff low high routine
    refine ⟨fun ok => (programFinal_complete h hs hn low high mine assembles (validRead.2 ok)).1,
      fun ok => (programFinal_complete h hs hn low high mine assembles (validRead.2 ok)).2,
      fun bad => programFinal_rejected h hs hn low high mine fun p e => ?_⟩
    obtain rfl := Option.some.inj (assembles.symm.trans e)
    exact Bool.eq_false_iff.2 (mt validRead.1 bad)
  · have listed : j ∈ b.steps.map (·.1) ↔ ∃ x ∈ held, x.1 = j := by
      rw [keys, List.map_map]
      exact List.mem_map
    refine programFinal_misnumbered (j := j) h hs hn low high (loadIsMine_of_owner hb own) ?_
    simp only [show bufferAt s program.toNat = some b from hb, Option.some.injEq, exists_eq_left', listed]
    rcases bad with ⟨first, below, missing⟩ | ⟨above, present⟩
    · rintro ⟨-, held⟩
      rcases held ⟨first, Nat.le_of_lt below⟩ with e | ⟨x, hx, e⟩
      · omega
      · exact missing x hx e
    · rintro ⟨within, -⟩
      exact Nat.not_le.2 above (within (.inr present)).2
  · have one_le : 1 ≤ count := by omega
    refine programFinal_misnumbered (j := 1) h hs hn one_le high (loadIsMine_of_empty src empty) ?_
    rintro ⟨-, held⟩
    rcases held ⟨Nat.le_refl 1, one_le⟩ with e | ⟨b, hb, -⟩
    · omega
    · cases empty.symm.trans hb

end Sys2Proof.Machine
end

section
/-! PROOFS. What every step keeps of the request queue, the result slots and the session table, and O8. -/

namespace Sys2Proof.Machine
open Sys2Proof

variable {s t : State} {i : Instr}

/-! ### One millisecond of the queue and the sessions -/

/-- A demand entry with one ms less to wait. -/
def tickEntry (x : Entry) : Entry := if isDemand x then { x with waitMs := x.waitMs - 1 } else x

/-- A session with one ms less on its DIAL timer. -/
def tickSession (x : Session) : Session := { x with dialTimer := down x.dialTimer }

theorem tickEntry_eq (x : Entry) : ∃ ms, tickEntry x = { x with waitMs := ms } := by
  unfold tickEntry
  split
  · exact ⟨_, rfl⟩
  · exact ⟨x.waitMs, rfl⟩

theorem queue_tick (s : State) : (tick s).arbiter.queue = s.arbiter.queue.map tickEntry := rfl

/-- Sessions changed one after the other: the queue and the result store stay as they are. -/
theorem sessions_foldl_modSession (ids : List Nat) (f : Session → Session) (s : State) :
    (ids.foldl (fun s id => modSession s id f) s).engine.sessions =
        ids.foldl (fun x id => tabMod none x id (fun y => y.map f)) s.engine.sessions ∧
      (ids.foldl (fun s id => modSession s id f) s).arbiter = s.arbiter ∧
      (ids.foldl (fun s id => modSession s id f) s).interp = s.interp := by
  induction ids generalizing s with
  | nil => exact ⟨rfl, rfl, rfl⟩
  | cons id rest ih => exact ih (modSession s id f)

theorem sessions_tick (s : State) : (tick s).engine.sessions =
    ((List.range 8).foldl (fun s id => modSession s id tickSession) s).engine.sessions := by
  rw [(sessions_foldl_modSession (List.range 8) tickSession s).1]
  simp only [tick, tickEngine, tabAll]
  rfl

theorem slotsAgree_tick (h : SlotsAgree s) : SlotsAgree (tick s) := by
  have sessions (ids : List Nat) :
      ∀ s : State, SlotsAgree s → SlotsAgree (ids.foldl (fun s id => modSession s id tickSession) s) := by
    induction ids with
    | nil => exact fun _ => id
    | cons id rest ih => exact fun s h => ih _ (slots_modSession h id tickSession (fun _ => rfl) fun _ => rfl)
  have kept := sessions (List.range 8) s h
  obtain ⟨-, arbiter, interp⟩ := sessions_foldl_modSession (List.range 8) tickSession s
  have counted := slots_mapQueue kept tickEntry fun x _ => by
    obtain ⟨ms, ticked⟩ := tickEntry_eq x
    rw [ticked]
    exact ⟨rfl, rfl, rfl, rfl⟩
  refine slots_congr counted (sessions_tick s) ?_ ?_ ?_
  · rw [arbiter]
    exact queue_tick s
  · exact (congrArg Interpreter.slots interp).symm
  · exact (congrArg Interpreter.fillingOrder interp).symm

/-! ### The laws -/

/-- The queue within its 64 entries, 48 of them routine (R68). -/
theorem stepLaw_queueBounded : StepLaw fun s => QueueBounded s.arbiter.queue where
  follows f := f.queue
  pending _ _ := id
  ports _ _ := id
  released x s t h := by
    obtain rfl := Host.Outcome.next.inj h
    obtain ⟨-, -, -, -, -, queue, -⟩ := resetMeetsLaws
    exact queue
  tick s h := by
    rw [queue_tick]
    refine queueBounded_map _ _ (fun x _ => ?_) h
    obtain ⟨ms, ticked⟩ := tickEntry_eq x
    rw [ticked]
    rfl

/-- Every result slot held as R204 says. -/
theorem stepLaw_slots : StepLaw SlotsAgree where
  follows f := f.slots
  pending _ _ := id
  ports _ _ := id
  released x s t h := by
    obtain rfl := Host.Outcome.next.inj h
    obtain ⟨-, -, -, -, -, -, -, -, agree, -⟩ := resetMeetsLaws
    exact agree
  tick s h := slotsAgree_tick h

/-- Settles O8: the queue's limits, and the result slots with what goes with them, are each under a law that a step
keeps. -/
theorem stepKeepsQueueBounded : Obligations.StepKeepsQueueBounded :=
  fun _ _ h => ⟨stepLaw_queueBounded.step h, stepLaw_slots.step h⟩

end Sys2Proof.Machine
end

section
/-! PROOFS. Commands that answer with their code alone, as the interpreter carries them out, and O37. -/

namespace Sys2Proof.Machine
open Sys2Proof

variable {s t d : State} {i : Instr} {src : Octet} {tag : Half} {c : Command} {r : ResponseCode}

/-! ### A command of one answer place (R196 to R198) -/

/-- The interpreter's own tests on a command of group `g`: it is in that group, needs one answer place, and is not
RESTART. -/
def IsPlainCommand (c : Command) (g : CommandGroup) : Prop :=
  groupOfCode (commandCode c) = some g ∧ answerPlaces (commandCode c) = 1 ∧ c ≠ .restart

/-- A command that finds its one place and is permitted: its effect, its answer against the place, and then the work it
handed on. -/
theorem exec_carriedOut (hi : rowCommand i = some (src, tag, c)) (ha : Awake s) (room : 1 ≤ normalRoom s)
    (places : answerPlaces (commandCode c) = 1) (notRestart : c ≠ .restart)
    (allowed : permitted (reservePlaces s 1) src c = true)
    (run : carryOut (reservePlaces s 1) src c = (reservePlaces d 1, plainAnswer r))
    (straps : d.ports.straps = s.ports.straps) :
    exec i s = .next (settle settleFuel (answered d src tag (commandCode c) r)) := by
  have taken := takeCommand_accepted (tag := tag) (places ▸ room) notRestart (places ▸ allowed)
  rw [places, run] at taken
  simp only [releasePlaces_reservePlaces, answerCells, responseCell_plain] at taken
  rw [exec_of_rowCommand s hi, live, ha.1, taken, answered, own, own, straps]
  rfl

/-- What is handed on comes to nothing where the queue is empty or the service state not IN_SERVICE. -/
theorem settle_answered {k : Nat} (idle : s.agenda = []) (hands : Hands k s d) (hk : k ≤ 16)
    (hq : d.arbiter.queue = [] ∨ d.arbiter.service ≠ .inService) (code : Octet) :
    settle settleFuel (answered d src tag code r) = answered { d with agenda := s.agenda } src tag code r := by
  obtain ⟨j, hj, agenda⟩ := hands
  rw [idle, List.nil_append] at agenda
  rw [settle_examine settleFuel (s := answered d src tag code r) j (by unfold settleFuel; omega) agenda hq, idle]
  rfl

/-- An accepted command that hands on a few examinations of an empty queue, or outside IN_SERVICE. -/
theorem exec_answered {g : CommandGroup} {k : Nat} (hi : rowCommand i = some (src, tag, c)) (h : Accepts s src 1 g)
    (hc : IsPlainCommand c g) (run : carryOut (reservePlaces s 1) src c = (reservePlaces d 1, plainAnswer r))
    (straps : d.ports.straps = s.ports.straps) (hands : Hands k s d) (hk : k ≤ 16)
    (hq : d.arbiter.queue = [] ∨ d.arbiter.service ≠ .inService) :
    exec i s = .next (answered { d with agenda := s.agenda } src tag (commandCode c) r) := by
  obtain ⟨awake, room, held⟩ := h
  obtain ⟨group, places, notRestart⟩ := hc
  rw [exec_carriedOut hi awake room places notRestart (permitted_of_group group held) run straps,
    settle_answered awake.2 hands hk hq]

/-- An accepted command that changes nothing but answers. -/
theorem exec_refused {g : CommandGroup} (hi : rowCommand i = some (src, tag, c)) (h : Accepts s src 1 g)
    (hc : IsPlainCommand c g) (run : carryOut (reservePlaces s 1) src c = (reservePlaces s 1, plainAnswer r)) :
    exec i s = .next (answered s src tag (commandCode c) r) := by
  obtain ⟨awake, room, held⟩ := h
  obtain ⟨group, places, notRestart⟩ := hc
  rw [exec_carriedOut hi awake room places notRestart (permitted_of_group group held) run rfl,
    settle_nil (s := answered s src tag (commandCode c) r) _ awake.2]

/-! ### The service state (R64) and unknown codes (R197) -/

theorem enableService_begins (h : s.arbiter.service = .unconfigured ∨ s.arbiter.service = .suspended) :
    enableService s = (examineLater (setService s .inService), .done) := by
  rcases h with h | h <;> simp only [enableService, h]

theorem enableService_inService (h : s.arbiter.service = .inService) : enableService s = (s, .done) := by
  simp only [enableService, h]

theorem enableService_starting (h : s.arbiter.service = .starting) : enableService s = (s, .state) := by
  simp only [enableService, h]

theorem suspendService_inService (h : s.arbiter.service = .inService) :
    suspendService s = (setService s .suspended, .done) := by
  simp only [suspendService, h]

theorem suspendService_suspended (h : s.arbiter.service = .suspended) : suspendService s = (s, .done) := by
  simp only [suspendService, h]

theorem suspendService_refused (h : s.arbiter.service = .starting ∨ s.arbiter.service = .unconfigured) :
    suspendService s = (s, .state) := by
  rcases h with h | h <;> simp only [suspendService, h]

/-- An unknown code needs one answer place. -/
theorem answerPlaces_unknown {code : Octet} (h : code = 0#8 ∨ 34 < code.toNat) : answerPlaces code = 1 := by
  have out : code.toNat = 0 ∨ 34 < code.toNat := h.imp_left (congrArg BitVec.toNat)
  unfold answerPlaces
  split <;> omega

/-- Settles O37, by the service state; an unknown code is answered before its source's privilege is looked at. -/
theorem serviceCommands : Obligations.ServiceCommands := by
  unfold Obligations.ServiceCommands
  intro s src tag
  refine ⟨fun h hq => ?_, fun code ha room unknown => ?_⟩
  · let place := reservePlaces s 1
    have enableAnswers {r : ResponseCode} (run : enableService place = (place, r)) :
        exec (.enableService src tag) s = .next (answered s src tag 1#8 r) :=
      exec_refused (c := .enableService) rfl h ⟨rfl, rfl, nofun⟩ (congrArg answering run)
    have suspendAnswers {r : ResponseCode} (run : suspendService place = (place, r)) :
        exec (.suspendService src tag) s = .next (answered s src tag 2#8 r) :=
      exec_refused (c := .suspendService) rfl h ⟨rfl, rfl, nofun⟩ (congrArg answering run)
    refine ⟨fun hs => ?_, fun hs => ⟨?_, ?_⟩, fun hs => ?_, fun hs => ?_, fun hs => ?_⟩
    · exact exec_answered (c := .enableService) (d := examineLater (setService s .inService)) rfl h ⟨rfl, rfl, nofun⟩
        (congrArg answering (enableService_begins (s := place) hs)) rfl (hands_examineLater _) (by decide) (.inl hq)
    · exact enableAnswers (enableService_inService (s := place) hs)
    · exact exec_answered (c := .suspendService) (d := setService s .suspended) rfl h ⟨rfl, rfl, nofun⟩
        (congrArg answering (suspendService_inService (s := place) hs)) rfl (.of_eq rfl) (by decide) (.inl hq)
    · exact suspendAnswers (suspendService_suspended (s := place) hs)
    · exact enableAnswers (enableService_starting (s := place) hs)
    · exact suspendAnswers (suspendService_refused (s := place) hs)
  · have run := exec_carriedOut (i := .unknownCommand src tag code) (c := .unknown code) (r := .range) rfl ha room
      (answerPlaces_unknown unknown) nofun rfl rfl rfl
    exact run.trans (congrArg _ (settle_nil (s := answered s src tag code .range) _ ha.2))

end Sys2Proof.Machine
end

section
/-! PROOFS. Demand requests that join the queue, merge, are cancelled or run out of time (R68 to R70, R81, R82). -/

namespace Sys2Proof.Machine
open Sys2Proof

variable {s : State}

/-! ### The demand entries ahead of the routine ones (R68) -/

theorem isDemand_of_demand {x : Entry} (h : x.cls = .demand) : isDemand x = true := decide_eq_true h

theorem isDemand_of_routine {x : Entry} (h : x.cls ≠ .demand) : isDemand x = false := decide_eq_false h

theorem sameRequest_of_classes {x y : Entry} (hx : x.cls = .demand) (hy : y.cls ≠ .demand) : sameRequest x y = false := by
  simp [sameRequest, isDemand_of_demand hx, isDemand_of_routine hy]

theorem sameRequest_demands {x y : Entry} (hx : x.cls = .demand) (hy : y.cls = .demand) :
    sameRequest x y = true ↔ x.line = y.line ∧ x.program = y.program := by
  simp [sameRequest, isDemand_of_demand hx, isDemand_of_demand hy]

section
variable {ds rs : List Entry} {x e : Entry}

theorem filter_front {p : Entry → Bool} (hd : ∀ y ∈ ds, p y = true) (hr : ∀ y ∈ rs, p y = false) :
    (ds ++ rs).filter p = ds := by
  rw [List.filter_append, List.filter_eq_self.2 hd, List.filter_eq_nil_iff.2 fun y hy => by rw [hr y hy]; nofun,
    List.append_nil]

theorem filter_back {p : Entry → Bool} (hd : ∀ y ∈ ds, p y = false) (hr : ∀ y ∈ rs, p y = true) :
    (ds ++ rs).filter p = rs := by
  rw [List.filter_append, List.filter_eq_self.2 hr, List.filter_eq_nil_iff.2 fun y hy => by rw [hd y hy]; nofun,
    List.nil_append]

/-- A new demand entry stands behind every waiting demand entry, returned ones among them, and ahead of every routine
one. -/
theorem insertEntry_demand (hx : x.cls = .demand) (new : x.returned = false) (hd : ∀ y ∈ ds, y.cls = .demand)
    (hr : ∀ y ∈ rs, y.cls ≠ .demand) : insertEntry (ds ++ rs) x = ds ++ [x] ++ rs := by
  have rank : placeRank x = 1 := by simp [placeRank, isDemand_of_demand hx, new]
  have ahead : ∀ y ∈ ds, placeRank y ≤ 1 := fun y hy => by
    rw [placeRank, isDemand_of_demand (hd y hy)]
    cases y.returned <;> decide
  have behind : ∀ y ∈ rs, 1 < placeRank y := fun y hy => by
    rw [placeRank, isDemand_of_routine (hr y hy)]
    cases y.returned <;> decide
  rw [insertEntry, rank,
    filter_front (fun y hy => decide_eq_true (ahead y hy)) fun y hy => decide_eq_false (Nat.not_le.2 (behind y hy)),
    filter_back (fun y hy => decide_eq_false (Nat.not_lt.2 (ahead y hy))) fun y hy => decide_eq_true (behind y hy)]

/-- The one waiting demand entry, changed in its place. -/
theorem replaceEntry_head (hq : s.arbiter.queue = e :: rs) (he : e.cls = .demand) (hr : ∀ y ∈ rs, y.cls ≠ .demand)
    (hx : x.cls = .demand) (same : x.line = e.line ∧ x.program = e.program) :
    replaceEntry s x = putQueue s (x :: rs) := by
  have rest : rs.map (fun y => if sameRequest x y then x else y) = rs :=
    (List.map_congr_left fun y hy => if_neg (by simp [sameRequest_of_classes hx (hr y hy)])).trans (List.map_id' rs)
  rw [replaceEntry, hq, List.map_cons, if_pos ((sameRequest_demands hx he).2 same), rest]

/-- The one waiting demand entry leaves, no reservation lapsing with it. -/
theorem leaveQueue_head (hq : s.arbiter.queue = e :: rs) (he : e.cls = .demand) (hr : ∀ y ∈ rs, y.cls ≠ .demand)
    (unreserved : e.reservation = none) : leaveQueue s e = putQueue s rs := by
  have rest : rs.filter (fun y => ! sameRequest e y) = rs :=
    List.filter_eq_self.2 fun y hy => by simp [sameRequest_of_classes he (hr y hy)]
  simp [leaveQueue, hq, sameRequest_refl, rest, unreserved]

end

/-! ### TEST_REQUEST (R69, R70) -/

/-- The wait limit of a request in ms, clamped (R69). -/
theorem clampWait_eq (limit : Half) : clampWait limit = if limit = 0xFFFF#16 then 60000 else
    if limit.toNat = 0 then 1000 else if 600 < limit.toNat then 600000 else limit.toNat * 1000 := by
  unfold clampWait
  by_cases long : 600 < limit.toNat
  · rw [Nat.min_eq_right (Nat.le_of_lt long), if_pos long]
  · rw [Nat.min_eq_left (Nat.not_lt.1 long), if_neg long]

section
variable {src program : Octet} {len rtag limit : Half} {d : DirectoryEntry}

theorem testRequest_outOfRange (h : 4095 < len.toNat ∨ 31 < program.toNat) :
    testRequest s src len program rtag limit = (s, .range) := if_pos h

theorem testRequest_emptyProgram (hn : len.toNat ≤ 4095) (hp : program.toNat ≤ 31)
    (empty : (programAt s program.toNat).steps = []) :
    testRequest s src len program rtag limit = (s, .notFound) := by
  rw [testRequest, if_neg (by omega), if_pos empty]

/-- A request that passes the tests of R69 is submitted. -/
theorem testRequest_passes (hn : len.toNat ≤ 4095) (hp : program.toNat ≤ 31)
    (steps : (programAt s program.toNat).steps ≠ [])
    (open' : s.arbiter.service = .inService ∨ s.arbiter.service = .suspended) (hd : directoryAt s len.toNat = some d)
    (dial : isDialProgram (programAt s program.toNat) = false ∨ d.noDialTest = false) :
    testRequest s src len program rtag limit =
      submitDemand s len.toNat program.toNat { unit := src, tag := rtag } (clampWait limit) := by
  have taken : ¬ (s.arbiter.service = .starting ∨ s.arbiter.service = .unconfigured) := by
    rcases open' with h | h <;> simp [h]
  have tested : ¬ (isDialProgram (programAt s program.toNat) ∧ d.noDialTest) := by
    rcases dial with h | h <;> simp [h]
  rw [testRequest, if_neg (by omega), if_neg steps, if_neg taken, hd]
  exact if_neg tested

end

section
variable {ds rs : List Entry} {e : Entry} {line program ms : Nat} {r : Requester}

/-- A request for a line and program that no demand entry waits for joins, the queue having room (R69). -/
theorem submitDemand_joins (hq : s.arbiter.queue = ds ++ rs) (hd : ∀ y ∈ ds, y.cls = .demand)
    (hr : ∀ y ∈ rs, y.cls ≠ .demand) (other : ∀ y ∈ ds, y.line ≠ line ∨ y.program ≠ program)
    (room : (ds ++ rs).length < 64) : submitDemand s line program r ms =
      (examineLater (putQueue s (ds ++ [demandEntry line program r ms] ++ rs)), .done) := by
  have unmerged : s.arbiter.queue.find? (sameRequest (demandEntry line program r ms)) = none := by
    rw [hq, List.find?_eq_none]
    intro y hy same
    rcases List.mem_append.1 hy with hy | hy
    · obtain ⟨sameLine, sameProgram⟩ := (sameRequest_demands rfl (hd y hy)).1 same
      exact (other y hy).elim (fun h => h sameLine.symm) fun h => h sameProgram.symm
    · rw [sameRequest_of_classes rfl (hr y hy)] at same
      cases same
  simp only [submitDemand, unmerged]
  rw [if_pos (by rw [hq]; exact room), joinQueue, hq, insertEntry_demand rfl rfl hd hr]

/-- A request for the line and program of the waiting demand entry is one more requester of it (R70). -/
theorem submitDemand_merges (hq : s.arbiter.queue = e :: rs) (he : e.cls = .demand) (hr : ∀ y ∈ rs, y.cls ≠ .demand)
    (hl : e.line = line) (hp : e.program = program) (new : r ∉ e.requesters) (few : e.requesters.length < 4) :
    submitDemand s line program r ms =
      (putQueue s ({ e with requesters := e.requesters ++ [r], waitMs := max e.waitMs ms } :: rs), .merged) := by
  have found : s.arbiter.queue.find? (sameRequest (demandEntry line program r ms)) = some e := by
    rw [hq]
    exact List.find?_cons_of_pos ((sameRequest_demands rfl he).2 ⟨hl.symm, hp.symm⟩)
  simp only [submitDemand, found, mergeRequest]
  rw [if_neg new, if_pos few,
    replaceEntry_head (x := { e with requesters := e.requesters ++ [r], waitMs := max e.waitMs ms }) hq he hr he
      ⟨rfl, rfl⟩]

end

/-! ### CANCEL (R82) -/

theorem liveSessions_of_none (h : ∀ id, sessionAt s id = none) : liveSessions s = [] := by
  simp [liveSessions, h]

section
variable {rs : List Entry} {e : Entry} {src : Octet} {rtag : Half}

/-- The requester named leaves the one demand entry, or is found nowhere. -/
theorem cancelRequest_head (hs : ∀ id, sessionAt s id = none) (hq : s.arbiter.queue = e :: rs) (he : e.cls = .demand)
    (hr : ∀ y ∈ rs, y.cls ≠ .demand) : cancelRequest s src rtag =
      if { unit := src, tag := rtag } ∈ e.requesters then (cancelEntry s { unit := src, tag := rtag } e, .done)
      else (s, .notFound) := by
  have rest : rs.filter (fun x => isDemand x ∧ { unit := src, tag := rtag } ∈ x.requesters) = [] :=
    List.filter_eq_nil_iff.2 fun y hy => by simp [isDemand_of_routine (hr y hy)]
  simp only [cancelRequest, hq, List.filter_cons, rest, isDemand_of_demand he, liveSessions_of_none hs, true_and,
    decide_eq_true_eq, List.filter_nil, List.foldl_nil]
  split <;> rfl

theorem cancelEntry_stays {r : Requester} (hq : s.arbiter.queue = e :: rs) (he : e.cls = .demand)
    (hr : ∀ y ∈ rs, y.cls ≠ .demand) (other : ∃ w ∈ e.requesters, w ≠ r) : cancelEntry s r e =
      putQueue s ({ e with requesters := e.requesters.filter (· ≠ r) } :: rs) := by
  have left : e.requesters.filter (· ≠ r) ≠ [] := by
    obtain ⟨w, hw, hwr⟩ := other
    exact List.ne_nil_of_mem (List.mem_filter.2 ⟨hw, decide_eq_true hwr⟩)
  simp only [cancelEntry]
  rw [if_neg left]
  exact replaceEntry_head hq he hr he ⟨rfl, rfl⟩

theorem cancelEntry_leaves {r : Requester} (hq : s.arbiter.queue = e :: rs) (he : e.cls = .demand)
    (hr : ∀ y ∈ rs, y.cls ≠ .demand) (unreserved : e.reservation = none) (unslotted : e.slot = none)
    (last : e.requesters = [r]) : cancelEntry s r e = putQueue s rs := by
  simp [cancelEntry, last, unslotted, leaveQueue_head hq he hr unreserved]

end

/-! ### The wait timer (R81) -/

section
variable {rs : List Entry} {e : Entry}

/-- The record of a request that ended waiting. -/
def waitRecord (s : State) (e : Entry) : ResultRecord :=
  sessionlessRecord s e.line e.program (if e.seenBusy then .lineBusy else .noResource)

/-- The part with a result slot filled with a record for its recipients. -/
def withResult (s : State) (n : Nat) (r : ResultRecord) (rs : List Recipient) : State :=
  { s with interp := { s.interp with
      slots := tabPut .free s.interp.slots n (.filled r rs 0), fillingOrder := s.interp.fillingOrder ++ [n] } }

theorem slotAt_withResult (s : State) (n : Nat) (r : ResultRecord) (rs : List Recipient) :
    slotAt (withResult s n r rs) n = .filled r rs 0 := by
  simp only [slotAt, withResult, tabGet_tabPut_same]

theorem waitExpired_head {n : Nat} (hq : s.arbiter.queue = e :: rs) (he : e.cls = .demand)
    (hr : ∀ y ∈ rs, y.cls ≠ .demand) (unreserved : e.reservation = none) (hn : e.slot = some n)
    (asked : e.requesters ≠ []) :
    waitExpired s e = withResult (putQueue s rs) n (waitRecord s e) (recipients e.requesters) := by
  have served : recipients e.requesters ≠ [] := by simpa [recipients] using asked
  rw [waitExpired, leaveQueue_head hq he hr unreserved, hn, endWithoutSession, fillRecord]
  exact if_neg served

theorem demandFor_head {line program : Nat} (hq : s.arbiter.queue = e :: rs) (he : e.cls = .demand)
    (hl : e.line = line) (hp : e.program = program) : demandFor s line program = some e := by
  rw [demandFor, hq]
  exact List.find?_cons_of_pos (by simp [isDemand_of_demand he, hl, hp])

theorem exec_waitTimer {l : Fin 4096} {p : Fin 32} {n : Nat} (ha : Awake s) (hq : s.arbiter.queue = e :: rs)
    (he : e.cls = .demand) (hr : ∀ y ∈ rs, y.cls ≠ .demand) (hl : e.line = l) (hp : e.program = p)
    (unreserved : e.reservation = none) (hn : e.slot = some n) (asked : e.requesters ≠ []) :
    exec (.waitTimerExpiry l p) s =
      .next (withResult (putQueue s rs) n (waitRecord s e) (recipients e.requesters)) := by
  refine live_of_effect ha.1 (f := fun s => match demandFor s l p with
    | some x => waitExpired s x
    | none => s) ?_ ha.2
  simp only [demandFor_head hq he hl hp]
  exact waitExpired_head hq he hr unreserved hn asked

end

end Sys2Proof.Machine
end

section
/-! PROOFS. The examination of one demand entry that waits alone, and its admission on a bus (R73 to R77, R92). -/

namespace Sys2Proof.Machine
open Sys2Proof

variable {s t : State} {x : Entry}

/-! ### The examination of a queue of one entry (R73, R75) -/

/-- The lone entry leaves at its turn. -/
theorem examineQueue_leaves (hs : s.arbiter.service = .inService) (hq : s.arbiter.queue = [x])
    (turn : entryTurn s x = (t, .left)) (empty : t.arbiter.queue = []) : examineQueue s = t := by
  have walk (n : Nat) : walkQueue (n + 1) 0 s = t := by
    simp only [walkQueue, hq, List.getElem?_cons_zero, turn]
    exact walkQueue_end n 0 (by simp [empty])
  rw [examineQueue, if_pos hs]
  exact walk 8191

/-- The lone entry waits on at its turn. -/
theorem examineQueue_stays {y : Entry} (hs : s.arbiter.service = .inService) (hq : s.arbiter.queue = [x])
    (turn : entryTurn s x = (t, .stays)) (alone : t.arbiter.queue = [y]) : examineQueue s = t := by
  have walk (n : Nat) : walkQueue (n + 1) 0 s = t := by
    simp only [walkQueue, hq, List.getElem?_cons_zero, turn]
    exact walkQueue_end n 1 (by simp [alone])
  rw [examineQueue, if_pos hs]
  exact walk 8191

/-- The one examination that a step has handed on. -/
theorem settle_examined (h : s.agenda = [.examine]) (run : examineQueue { s with agenda := [] } = t)
    (done : t.agenda = []) : settle settleFuel s = t := by
  have settled (n : Nat) : settle (n + 1) s = t := by
    rw [settle_cons n h, takeTodo, run, settle_nil n done]
  exact settled 99999

/-! ### An entry that is ready but for bus and riser (R74) -/

/-- A new demand entry of a metallic program waits alone in IN_SERVICE, its line FREE and quiet, its shelf open and a
result slot FREE. -/
structure WaitsReady (s : State) (x : Entry) : Prop where
  service : s.arbiter.service = .inService
  queue : s.arbiter.queue = [x]
  demand : x.cls = .demand
  unreserved : x.reservation = none
  unbusied : x.seenBusy = false
  metallic : isDialProgram (programAt s x.program) = false
  provisioned : (directoryAt s x.line).isSome = true
  free : markOf s x.line = .free
  quiet : (lineOf s x.line).hook = .idle ∨ (lineOf s x.line).hook = .parked
  shelfOpen : openForAccess s (lineShelf x.line) = true
  slot : (freeSlot s).isSome = true

namespace WaitsReady

theorem readyButPlant (h : WaitsReady s x) : readyButPlant s x = true := by
  obtain ⟨d, hd⟩ := Option.isSome_iff_exists.1 h.provisioned
  simp [Machine.readyButPlant, lineReady, hd, h.service, h.free, h.shelfOpen, h.quiet, h.metallic, h.slot,
    isDemand_of_demand h.demand]

theorem not_lineBusy (h : WaitsReady s x) : lineBusy s x = false := by
  rcases h.quiet with q | q <;> simp [lineBusy, h.free, q, isDemand_of_demand h.demand]

theorem not_busReservedToOther (h : WaitsReady s x) (b : Nat) : busReservedToOther s x b = false := by
  simp [busReservedToOther, h.queue, sameRequest_refl]

theorem not_riserReservedToOther (h : WaitsReady s x) (n : Nat) : riserReservedToOther s x n = false := by
  simp [riserReservedToOther, h.queue, sameRequest_refl]

theorem busOpen_iff (h : WaitsReady s x) (b : Nat) : busOpen s x b = true ↔ (busAt s b).state = .free := by
  simp [busOpen, h.not_busReservedToOther]

theorem riserOpen_iff (h : WaitsReady s x) : riserOpen s x = true ↔ riserAt s (lineShelf x.line) = .free := by
  simp [riserOpen, h.not_riserReservedToOther]

theorem anyBusOpen_iff (h : WaitsReady s x) : anyBusOpen s x = true ↔ ∃ b < 4, (busAt s b).state = .free := by
  simp [anyBusOpen, h.busOpen_iff]

theorem eligible_iff (h : WaitsReady s x) : eligible s x = true ↔
    (freeSessionId s).isSome = true ∧ riserAt s (lineShelf x.line) = .free ∧ ∃ b < 4, (busAt s b).state = .free := by
  simp only [eligible, h.readyButPlant, h.metallic, Bool.true_and, Bool.false_or, Bool.and_eq_true, h.riserOpen_iff,
    h.anyBusOpen_iff]

/-- The entry's turn changes the entry in nothing. -/
theorem replaced (h : WaitsReady s x) : replaceEntry s x = s := by
  rw [replaceEntry_head (e := x) h.queue h.demand (fun _ hy => nomatch hy) h.demand ⟨rfl, rfl⟩, ← h.queue]
  rfl

/-- The turn of the entry: admitted where it is eligible, and else preempting where a session can be chosen (R75,
R78). -/
theorem entryTurn_eq (h : WaitsReady s x) : entryTurn s x = if eligible s x then admitTurn s x
    else (sessionToPreempt s x).elim (s, .stays) fun p => preemptTurn s x p.1 p.2 := by
  have seen : { x with seenBusy := lineBusy s x } = x := by rw [h.not_lineBusy, ← h.unbusied]
  rw [entryTurn, if_pos (isDemand_of_demand h.demand), demandTurn]
  dsimp only
  rw [seen, h.replaced, h.unreserved]
  cases sessionToPreempt s x <;> rfl

end WaitsReady

/-! ### Admission on a bus (R76, R77, R80, R92) -/

/-- An order asked for, in the part as it then stands. -/
theorem requestOrder_joins {o : Order} (hk : o.kind ∈ [OrderKind.riserOperate, .accessRelease, .riserRelease])
    (ho : s.engine.orders.length < 16) (hw : s.engine.waiting = []) (hq : s.ports.southQueue.length < 32)
    (hb : s.ports.southBacklog = []) : requestOrder s o = orderPlaced s o :=
  (requestOrder_places o ho hw).trans (placeOrder_plain o ho hq hb hk)

/-- The mark of a FREE line becomes RESERVED, no URGENT cell waiting: BLOCKED joins (R40, R66). -/
theorem setMark_blocked {len : Nat} {m : Mark} (synth : Bool) (free : markOf s len = .free) (hm : m ≠ .free)
    (hu : s.ports.urgent = []) (hb : s.ports.urgentBacklog = []) : setMark s len m synth =
      { modLine (writeMark s len m) len (fun l => { l with blocked := true }) with
        ports := { s.ports with urgent := [testBlockCell (own s) len true] } } :=
  (if_pos ⟨free, hm⟩).trans (offerTestBlock_alone (s := writeMark s len m) len true hu hb)

/-- A FREE bus is ATTACHED without a notice (R88). -/
theorem setBusState_attached {b : Nat} (free : (busAt s b).state = .free) :
    setBusState s b .attached = modBus s b (fun x => { x with state := .attached }) := by
  simp only [setBusState, free]
  rfl

/-- `t` comes of `s` by the entry's admission to session `id`, on bus `b` and with result slot `n`. -/
structure Admitted (s t : State) (x : Entry) (id b n : Nat) : Prop where
  session : sessionAt t id = some (newSession s x (some b) (some n))
  sessions : ∀ k, k ≠ id → sessionAt t k = sessionAt s k
  bus : busAt t b = { busAt s b with state := .attached, holder := .session id }
  buses : ∀ k, k ≠ b → busAt t k = busAt s k
  riser : riserAt t (lineShelf x.line) = .operated b
  risers : ∀ k, k ≠ lineShelf x.line → riserAt t k = riserAt s k
  mark : markOf t x.line = .reserved
  line : lineOf t x.line = { lineOf s x.line with blocked := true }
  lines : ∀ k, k ≠ x.line → markOf t k = markOf s k ∧ lineOf t k = lineOf s k
  slot : slotAt t n = .reserved
  slots : ∀ k, k ≠ n → slotAt t k = slotAt s k
  frame : t = { s with
    ports := { s.ports with
      urgent := [testBlockCell (own s) x.line true]
      southQueue := s.ports.southQueue ++ [relayOrderCell (own s) (nextOrderTag s)
        (riserOperateOrder (lineShelf x.line) b (.session id))] }
    tracker := { s.tracker with lines := t.tracker.lines }
    arbiter := { s.arbiter with
      queue := [], marks := t.arbiter.marks, admissions := s.arbiter.admissions + 1 }
    engine := { s.engine with
      buses := t.engine.buses, risers := t.engine.risers, sessions := t.engine.sessions
      candidate := (nextOrderTag s + 1) % 256
      orders := s.engine.orders ++ [{
        tag := nextOrderTag s, order := riserOperateOrder (lineShelf x.line) b (.session id), timer := some 40 }] }
    interp := { s.interp with slots := t.interp.slots } }

/-- The entry admitted, up to the request of its RISER OPERATE: the session made, the slot reserved, the mark and the
block value set, bus and riser allocated. -/
def admittedPlant (s : State) (x : Entry) (id b n : Nat) : State :=
  { s with
    ports := { s.ports with urgent := [testBlockCell (own s) x.line true] }
    tracker := { s.tracker with
      lines := tabMod lineZero (tabMod lineZero s.tracker.lines x.line (fun l => { l with blocked := true })) x.line
        (fun l => { l with blocked := true }) }
    arbiter := { s.arbiter with
      queue := [], marks := tabPut .free s.arbiter.marks x.line .reserved, admissions := s.arbiter.admissions + 1 }
    engine := { s.engine with
      buses := tabMod busZero (tabMod busZero s.engine.buses b (fun y => { y with state := .attached })) b
        (fun y => { y with holder := .session id })
      risers := tabPut .free s.engine.risers (lineShelf x.line) (.operated b)
      sessions := tabPut none s.engine.sessions id (some (newSession s x (some b) (some n))) }
    interp := { s.interp with slots := tabPut .free s.interp.slots n .reserved } }

/-- Two changes of one place of a table, one after the other. -/
theorem tabGet_tabMod_twice {α : Type} [DecidableEq α] (d : α) (t : Tab α) (k j : Nat) (f g : α → α) :
    tabGet d (tabMod d (tabMod d t k f) k g) j = if j = k then g (f (tabGet d t k)) else tabGet d t j := by
  rw [tabGet_tabMod, tabGet_tabMod, if_pos rfl, tabGet_tabMod]
  split
  · rfl
  · rfl

/-- Placed behind the allocation, the order has the tag that was next before it. -/
theorem admitted_orderPlaced (s : State) (x : Entry) (id b n : Nat) : Admitted s
    (orderPlaced (admittedPlant s x id b n) (riserOperateOrder (lineShelf x.line) b (.session id))) x id b n := by
  have tag : nextOrderTag (admittedPlant s x id b n) = nextOrderTag s := nextOrderTag_congr rfl rfl fun _ => rfl
  have session (k : Nat) : sessionAt (admittedPlant s x id b n) k =
      if k = id then some (newSession s x (some b) (some n)) else sessionAt s k := by
    simp only [admittedPlant, sessionAt, tabGet_tabPut]
  have bus (k : Nat) : busAt (admittedPlant s x id b n) k =
      if k = b then { busAt s b with state := .attached, holder := .session id } else busAt s k := by
    simp only [admittedPlant, busAt, tabGet_tabMod_twice]
  have riser (k : Nat) : riserAt (admittedPlant s x id b n) k =
      if k = lineShelf x.line then .operated b else riserAt s k := by
    simp only [admittedPlant, riserAt, tabGet_tabPut]
  have mark (k : Nat) : markOf (admittedPlant s x id b n) k = if k = x.line then .reserved else markOf s k := by
    simp only [admittedPlant, markOf, tabGet_tabPut]
  have line (k : Nat) : lineOf (admittedPlant s x id b n) k =
      if k = x.line then { lineOf s x.line with blocked := true } else lineOf s k := by
    simp only [admittedPlant, lineOf, tabGet_tabMod_twice]
  have slot (k : Nat) : slotAt (admittedPlant s x id b n) k = if k = n then .reserved else slotAt s k := by
    simp only [admittedPlant, slotAt, tabGet_tabPut]
  exact {
    session := (session id).trans (if_pos rfl)
    sessions := fun k hk => (session k).trans (if_neg hk)
    bus := (bus b).trans (if_pos rfl)
    buses := fun k hk => (bus k).trans (if_neg hk)
    riser := (riser _).trans (if_pos rfl)
    risers := fun k hk => (riser k).trans (if_neg hk)
    mark := (mark _).trans (if_pos rfl)
    line := (line _).trans (if_pos rfl)
    lines := fun k hk => ⟨(mark k).trans (if_neg hk), (line k).trans (if_neg hk)⟩
    slot := (slot n).trans (if_pos rfl)
    slots := fun k hk => (slot k).trans (if_neg hk)
    frame := by
      rw [orderPlaced, tag]
      rfl }

/-- What the entry's admission needs of the rest of the part: bus, riser, session place and slot, and room for its two
cells and its order. -/
structure AdmissionRoom (s : State) (x : Entry) (id b n : Nat) : Prop where
  bus : chooseBus s x = some b
  busFree : (busAt s b).state = .free
  session : freeSessionId s = some id
  slot : x.slot.or (freeSlot s) = some n
  orders : s.engine.orders.length < 16
  waiting : s.engine.waiting = []
  south : s.ports.southQueue.length < 32
  southBacklog : s.ports.southBacklog = []
  urgent : s.ports.urgent = []
  urgentBacklog : s.ports.urgentBacklog = []

theorem admitEntry_eq {id b n : Nat} (h : WaitsReady s x) (room : AdmissionRoom s x id b n) : admitEntry s x =
    orderPlaced (admittedPlant s x id b n) (riserOperateOrder (lineShelf x.line) b (.session id)) := by
  have left : leaveQueue s x = putQueue s [] :=
    leaveQueue_head (rs := []) h.queue h.demand (fun _ hy => nomatch hy) h.unreserved
  simp only [admitEntry, h.metallic, room.bus, room.session, room.slot, isDemand_of_demand h.demand, left, if_true,
    Bool.false_eq_true, if_false, Option.getD_some]
  rw [setMark_blocked (m := .reserved) false (by exact h.free) nofun (by exact room.urgent) (by exact room.urgentBacklog),
    allocatePlant, setBusState_attached (by exact room.busFree)]
  refine Eq.trans (congrArg (requestOrder · _) ?_)
    (requestOrder_joins (s := admittedPlant s x id b n) (by simp [riserOperateOrder]) room.orders room.waiting room.south
      room.southBacklog)
  simp [putRiser, onEngine, modBus, modLine, onTracker, writeMark, onArbiter, putSlot, putSession, putQueue, onInterp,
    admittedPlant, own]

end Sys2Proof.Machine
end

section
/-! PROOFS. The routine session a demand entry preempts, and its end (R78, R79, R99, R112, R127). -/

namespace Sys2Proof.Machine
open Sys2Proof

variable {s t : State} {x : Entry}

/-! ### Finding in lists -/

theorem find?_range_zero {p : Nat → Bool} (n : Nat) (h : p 0 = true) : (List.range (n + 1)).find? p = some 0 :=
  List.find?_range_eq_some.2 ⟨h, List.mem_range.2 (Nat.succ_pos n), fun j hj => absurd hj (Nat.not_lt_zero j)⟩

theorem find?_of_unique {α : Type} {p : α → Bool} {xs : List α} {a : α} (mem : a ∈ xs) (ha : p a = true)
    (unique : ∀ y ∈ xs, p y = true → y = a) : xs.find? p = some a := by
  cases found : xs.find? p with
  | none => exact absurd ha (List.find?_eq_none.1 found a mem)
  | some y => rw [unique y (List.mem_of_find?_eq_some found) (List.find?_some found)]

theorem freeSlot_zero (h : slotAt s 0 = .free) : freeSlot s = some 0 := find?_range_zero 31 (decide_eq_true h)

theorem freeSlot_isSome {n : Nat} (hn : n < 32) (h : slotAt s n = .free) : (freeSlot s).isSome = true :=
  List.find?_isSome.2 ⟨n, List.mem_range.2 hn, decide_eq_true h⟩

theorem mem_liveSessions {id : Nat} {y : Session} : (id, y) ∈ liveSessions s ↔ id < 8 ∧ sessionAt s id = some y := by
  simp [liveSessions, Config.sessionPlaces]

/-! ### The most recently admitted session (R78) -/

/-- Of the most recently admitted session so far and the next one, the later admitted. -/
def laterAdmitted : Option (Nat × Session) → Nat × Session → Option (Nat × Session)
  | none, y => some y
  | some z, y => if z.2.admission < y.2.admission then some y else some z

theorem latestAdmitted_eq_foldl (xs : List (Nat × Session)) : latestAdmitted xs = xs.foldl laterAdmitted none := by
  unfold latestAdmitted
  congr 1
  funext best y
  cases best <;> rfl

theorem laterAdmitted_latest {best : Option (Nat × Session)} {y : Nat × Session}
    (hb : ∀ z, best = some z → z = y ∨ z.2.admission < y.2.admission) : laterAdmitted best y = some y := by
  cases best with
  | none => rfl
  | some z =>
    rcases hb z rfl with rfl | earlier
    · exact if_neg (Nat.lt_irrefl _)
    · exact if_pos earlier

theorem laterAdmitted_of_latest {x y : Nat × Session} (earlier : x.2.admission < y.2.admission) :
    laterAdmitted (some y) x = some y := if_neg (Nat.lt_asymm earlier)

theorem laterAdmitted_earlier {best : Option (Nat × Session)} {x y z : Nat × Session}
    (hb : ∀ z, best = some z → z.2.admission < y.2.admission) (hx : x.2.admission < y.2.admission)
    (hz : laterAdmitted best x = some z) : z.2.admission < y.2.admission := by
  cases best with
  | none =>
    cases hz
    exact hx
  | some w =>
    simp only [laterAdmitted] at hz
    split at hz
    · cases hz
      exact hx
    · cases hz
      exact hb z rfl

/-- Where one session was admitted after every other, the fold keeps it from where it meets it. -/
theorem foldl_laterAdmitted {xs : List (Nat × Session)} {y : Nat × Session}
    (latest : ∀ z ∈ xs, z = y ∨ z.2.admission < y.2.admission) (best : Option (Nat × Session))
    (met : best = some y ∨ (y ∈ xs ∧ ∀ z, best = some z → z.2.admission < y.2.admission)) :
    xs.foldl laterAdmitted best = some y := by
  induction xs generalizing best with
  | nil => exact met.resolve_right fun h => List.not_mem_nil h.1
  | cons x xs ih =>
    have rest := ih fun z hz => latest z (List.mem_cons_of_mem x hz)
    rw [List.foldl_cons]
    rcases latest x List.mem_cons_self with rfl | earlier
    · refine rest _ (.inl (laterAdmitted_latest fun z hz => ?_))
      rcases met with rfl | ⟨_, before⟩
      · exact .inl (Option.some.inj hz).symm
      · exact .inr (before z hz)
    · rcases met with rfl | ⟨mem, before⟩
      · exact rest _ (.inl (laterAdmitted_of_latest earlier))
      · have later : y ∈ xs := (List.mem_cons.1 mem).resolve_left fun e => by
          subst e
          exact Nat.lt_irrefl _ earlier
        exact rest _ (.inr ⟨later, fun z hz => laterAdmitted_earlier before earlier hz⟩)

theorem latestAdmitted_eq {xs : List (Nat × Session)} {y : Nat × Session} (mem : y ∈ xs)
    (latest : ∀ z ∈ xs, z = y ∨ z.2.admission < y.2.admission) : latestAdmitted xs = some y :=
  (latestAdmitted_eq_foldl xs).trans (foldl_laterAdmitted latest none (.inr ⟨mem, fun _ h => nomatch h⟩))

/-! ### The choice (R78) -/

theorem preemptible_iff {y : Session} : preemptible y = true ↔
    y.cls ≠ .demand ∧ y.bus.isSome = true ∧ y.state ≠ .releasing ∧ y.preempted = false := decide_eq_true_iff

section
variable {id : Nat} {y : Session}

/-- Only a bus is wanting: the preemptible session admitted last. -/
theorem WaitsReady.sessionToPreempt_latest (h : WaitsReady s x) (riser : riserAt s (lineShelf x.line) = .free)
    (buses : ∀ b < 4, (busAt s b).state ≠ .free) (hid : id < 8) (hy : sessionAt s id = some y)
    (can : preemptible y = true)
    (latest : ∀ j z, j ≠ id → sessionAt s j = some z → preemptible z = true → z.admission < y.admission) :
    sessionToPreempt s x = some (id, y) := by
  have shut : ¬ anyBusOpen s x = true := fun e => by
    obtain ⟨b, hb, free⟩ := h.anyBusOpen_iff.1 e
    exact buses b hb free
  rw [sessionToPreempt, if_neg (by simp [isDemand_of_demand h.demand, h.unreserved, h.metallic, h.readyButPlant]),
    if_pos (h.riserOpen_iff.2 riser), if_neg shut]
  refine latestAdmitted_eq (List.mem_filter.2 ⟨mem_liveSessions.2 ⟨hid, hy⟩, can⟩) fun ⟨j, z⟩ hz => ?_
  obtain ⟨live, canz⟩ := List.mem_filter.1 hz
  have hz := (mem_liveSessions.1 live).2
  by_cases hj : j = id
  · subst hj
    exact .inl (by rw [Option.some.inj (hz.symm.trans hy)])
  · exact .inr (latest j z hj hz canz)

/-- The riser is wanting: the one session on the shelf. -/
theorem WaitsReady.sessionToPreempt_onShelf (h : WaitsReady s x) (riser : riserAt s (lineShelf x.line) ≠ .free)
    (hid : id < 8) (hy : sessionAt s id = some y) (can : preemptible y = true)
    (shelf : lineShelf y.line = lineShelf x.line)
    (alone : ∀ j z, j ≠ id → sessionAt s j = some z → lineShelf z.line ≠ lineShelf x.line) :
    sessionToPreempt s x = some (id, y) := by
  have shut : ¬ riserOpen s x = true := fun e => riser (h.riserOpen_iff.1 e)
  rw [sessionToPreempt, if_neg (by simp [isDemand_of_demand h.demand, h.unreserved, h.metallic, h.readyButPlant]),
    if_neg shut]
  refine find?_of_unique (mem_liveSessions.2 ⟨hid, hy⟩) (decide_eq_true ⟨shelf, can, h.not_riserReservedToOther _⟩)
    fun ⟨j, z⟩ hz chosen => ?_
  have hz := (mem_liveSessions.1 hz).2
  obtain ⟨onShelf, _⟩ := of_decide_eq_true chosen
  by_cases hj : j = id
  · subst hj
    rw [Option.some.inj (hz.symm.trans hy)]
  · exact absurd onShelf (alone j z hj hz)

/-- Wanting a bus or the riser alone, the entry is not admitted, and the session that holds it is chosen. -/
theorem WaitsReady.wanting (h : WaitsReady s x) (hid : id < 8) (hy : sessionAt s id = some y) (can : preemptible y = true)
    (wants : (riserAt s (lineShelf x.line) = .free ∧ (∀ b < 4, (busAt s b).state ≠ .free) ∧
        ∀ j z, j ≠ id → sessionAt s j = some z → preemptible z = true → z.admission < y.admission) ∨
      (riserAt s (lineShelf x.line) ≠ .free ∧ lineShelf y.line = lineShelf x.line ∧
        ∀ j z, j ≠ id → sessionAt s j = some z → lineShelf z.line ≠ lineShelf x.line)) :
    eligible s x = false ∧ sessionToPreempt s x = some (id, y) := by
  rcases wants with ⟨riser, buses, latest⟩ | ⟨riser, shelf, alone⟩
  · refine ⟨Bool.eq_false_iff.2 fun e => ?_, h.sessionToPreempt_latest riser buses hid hy can latest⟩
    obtain ⟨_, _, b, hb, free⟩ := h.eligible_iff.1 e
    exact buses b hb free
  · refine ⟨Bool.eq_false_iff.2 fun e => ?_, h.sessionToPreempt_onShelf riser hid hy can shelf alone⟩
    exact riser (h.eligible_iff.1 e).2.1

end

/-! ### The end of the session chosen (R99, R112, R127) -/

/-- The tag of the HEAD STOP of a bus: its open window's, and else the one last issued. -/
def stopTag (s : State) (b : Nat) : Nat :=
  match windowAt s b with
  | some w => w.tag
  | none => ((busAt s b).nextTag + 255) % 256

/-- The part with a session's window closed, its HEAD STOP sent and the session RELEASING. -/
def stopping (s : State) (id b : Nat) : State :=
  { s with
    ports := { s.ports with southQueue := s.ports.southQueue ++ [headStopCell (own s) b (stopTag s b)] }
    engine := { s.engine with sessions := tabMod none s.engine.sessions id (fun y => y.map releasing) }
    meas := { s.meas with windows := tabPut none s.meas.windows b none } }

/-- And with its ACCESS RELEASE placed. -/
def stopped (s : State) (id len b : Nat) : State :=
  orderPlaced (stopping s id b) (accessReleaseOrder len (.session id))

theorem stopAndRelease_eq {id b : Nat} {y : Session} (hb : y.bus = some b) (orders : s.engine.orders.length < 16)
    (waiting : s.engine.waiting = []) (south : s.ports.southQueue.length ≤ 30) (backlog : s.ports.southBacklog = []) :
    stopAndRelease s id y = stopped s id y.line b := by
  have room : s.ports.southQueue.length < 32 := by omega
  simp only [stopAndRelease, hb]
  rw [offerSouth_joins (s := closeWindow s b) _ room backlog, joinSouth_headStop, requestRelease]
  refine (requestOrder_joins (by simp [accessReleaseOrder]) (by exact orders) (by exact waiting) ?_
    (by exact backlog)).trans rfl
  show (s.ports.southQueue ++ [_]).length < 32
  rw [List.length_append, List.length_singleton]
  omega

/-- An ending cause in SETTLING or MEASURING. -/
theorem endSession_stops {id : Nat} {y : Session} (o : EndOutcome) (hy : sessionAt s id = some y) (ho : y.outcome = none)
    (hst : y.state ∈ [SessionState.settling, .measuring]) :
    endSession s id o = stopAndRelease (modSession s id (fun z => { z with outcome := some o })) id y := by
  simp only [endSession, hy, ho, Option.isSome_none, Bool.false_eq_true, if_false]
  simp only [List.mem_cons, List.not_mem_nil, or_false] at hst
  rcases hst with h | h <;> simp only [h]

/-- The part with the one waiting entry holding its reservation, and session `id` named PREEMPTED for it. -/
def namedPreempted (s : State) (e : Entry) (id : Nat) : State :=
  modSession (modSession (putQueue s [e]) id (fun z => { z with preempted := true })) id
    (fun z => { z with outcome := some .preempted })

/-- And with the session's release begun on bus `b`. -/
def preemptedFor (s : State) (e : Entry) (id len b : Nat) : State := stopped (namedPreempted s e id) id len b

/-- The entry with what it reserves of a session it preempts (R78). -/
def withReservation (x : Entry) (y : Session) (b : Nat) : Entry :=
  { x with reservation := some {
      bus := b, riser := if lineShelf y.line = lineShelf x.line then some (lineShelf x.line) else none } }

/-- A session that an entry can preempt here, and room for its two cells and its order. -/
structure Preemptable (s : State) (id b : Nat) (y : Session) : Prop where
  session : sessionAt s id = some y
  bus : y.bus = some b
  state : y.state ∈ [SessionState.settling, .measuring]
  unended : y.outcome = none
  orders : s.engine.orders.length < 16
  waiting : s.engine.waiting = []
  south : s.ports.southQueue.length ≤ 30
  southBacklog : s.ports.southBacklog = []

section
variable {id b : Nat} {y : Session}

theorem preempt_eq (h : WaitsReady s x) (hy : Preemptable s id b y) :
    preempt s x id y = preemptedFor s (withReservation x y b) id y.line b := by
  have queued : replaceEntry s (withReservation x y b) = putQueue s [withReservation x y b] :=
    replaceEntry_head h.queue h.demand (fun _ hy => nomatch hy) h.demand ⟨rfl, rfl⟩
  simp only [preempt, hy.bus, Option.getD_some]
  show endSession (modSession (replaceEntry s (withReservation x y b)) id _) id _ = _
  rw [queued]
  refine (endSession_stops (y := { y with preempted := true }) .preempted (sessionAt_modSession_same hy.session)
    hy.unended hy.state).trans ?_
  exact stopAndRelease_eq hy.bus hy.orders hy.waiting hy.south hy.southBacklog

/-- An examination of an entry that is wanting only what the session holds. -/
theorem examineQueue_preempts (h : WaitsReady s x) (hy : Preemptable s id b y) (barred : eligible s x = false)
    (chosen : sessionToPreempt s x = some (id, y)) :
    examineQueue s = preemptedFor s (withReservation x y b) id y.line b := by
  refine examineQueue_stays h.service h.queue ?_ rfl
  have kept : reservationLapsed (preemptedFor s (withReservation x y b) id y.line b) x = false := by
    show ([withReservation x y b].any _) = false
    simp [withReservation]
  rw [h.entryTurn_eq, barred, chosen]
  simp only [Option.elim_some, preemptTurn, preempt_eq h hy, kept, Bool.false_eq_true, if_false]

/-- `t` comes of `s` by the preemption of session `id` on bus `b` for entry `e`. -/
structure Preempted (s t : State) (e : Entry) (id b : Nat) (y : Session) : Prop where
  session : sessionAt t id = some { y with
    preempted := true, outcome := some .preempted, state := .releasing, accessReleased := false }
  sessions : ∀ j, j ≠ id → sessionAt t j = sessionAt s j
  window : windowAt t b = none
  windows : ∀ j, j ≠ b → windowAt t j = windowAt s j
  frame : t = { s with
    ports := { s.ports with southQueue := s.ports.southQueue ++ [headStopCell (own s) b (stopTag s b),
      relayOrderCell (own s) (nextOrderTag s) (accessReleaseOrder y.line (.session id))] }
    arbiter := { s.arbiter with queue := [e] }
    engine := { s.engine with
      sessions := t.engine.sessions, candidate := (nextOrderTag s + 1) % 256
      orders := s.engine.orders ++ [{
        tag := nextOrderTag s, order := accessReleaseOrder y.line (.session id), timer := some 40 }] }
    meas := { s.meas with windows := t.meas.windows } }

theorem preempted_preemptedFor (e : Entry) (hy : sessionAt s id = some y) :
    Preempted s (preemptedFor s e id y.line b) e id b y := by
  have session (j : Nat) : sessionAt (preemptedFor s e id y.line b) j =
      sessionAt (modSession (modSession (modSession s id (fun z => { z with preempted := true })) id
        (fun z => { z with outcome := some .preempted })) id releasing) j := rfl
  have window (j : Nat) : windowAt (preemptedFor s e id y.line b) j = if j = b then none else windowAt s j :=
    windowAt_putWindow (s := s) b j none
  exact {
    session := (session id).trans
      (sessionAt_modSession_same (sessionAt_modSession_same (sessionAt_modSession_same hy)))
    sessions := fun j hj => by
      rw [session, sessionAt_modSession, if_neg hj, sessionAt_modSession, if_neg hj, sessionAt_modSession, if_neg hj]
    window := (window b).trans (if_pos rfl)
    windows := fun j hj => (window j).trans (if_neg hj)
    frame := by
      rw [preemptedFor, stopped, stopping, orderPlaced, nextOrderTag_congr (s := s) rfl rfl fun _ => rfl]
      simp only [List.append_assoc]
      rfl }

end

end Sys2Proof.Machine
end

section
/-! PROOFS. TEST_REQUEST and CANCEL as rows, and O49. -/

namespace Sys2Proof.Machine
open Sys2Proof

variable {s t : State} {src program : Octet} {tag len rtag limit : Half} {q : List Entry} {x : Entry} {r : ResponseCode}

/-! ### The rows, from the command's effect -/

theorem exec_testRequest_refused (h : Accepts s src 1 .test)
    (run : testRequest (reservePlaces s 1) src len program rtag limit = (reservePlaces s 1, r)) :
    exec (.testRequest src tag len program rtag limit) s = .next (answered s src tag 20#8 r) :=
  exec_refused (c := .testRequest len program rtag limit) rfl h ⟨rfl, rfl, nofun⟩ (congrArg answering run)

theorem exec_testRequest_merges (h : Accepts s src 1 .test) (hs : s.arbiter.service ≠ .inService)
    (run : testRequest (reservePlaces s 1) src len program rtag limit = (putQueue (reservePlaces s 1) q, .merged)) :
    exec (.testRequest src tag len program rtag limit) s = .next (answered (putQueue s q) src tag 20#8 .merged) :=
  exec_answered (c := .testRequest len program rtag limit) (d := putQueue s q) rfl h ⟨rfl, rfl, nofun⟩
    (congrArg answering run) rfl (.of_eq rfl) (by decide) (.inr hs)

theorem exec_testRequest_waits (h : Accepts s src 1 .test) (hs : s.arbiter.service ≠ .inService)
    (run : testRequest (reservePlaces s 1) src len program rtag limit =
      (examineLater (putQueue (reservePlaces s 1) q), .done)) :
    exec (.testRequest src tag len program rtag limit) s = .next (answered (putQueue s q) src tag 20#8 .done) :=
  exec_answered (c := .testRequest len program rtag limit) (d := examineLater (putQueue s q)) rfl h ⟨rfl, rfl, nofun⟩
    (congrArg answering run) rfl (hands_examineLater (putQueue s q)) (by decide) (.inr hs)

theorem exec_cancel_answers (h : Accepts s src 1 .test) (hs : s.arbiter.service ≠ .inService)
    (run : cancelRequest (reservePlaces s 1) src rtag = (putQueue (reservePlaces s 1) q, r)) :
    exec (.cancel src tag rtag) s = .next (answered (putQueue s q) src tag 21#8 r) :=
  exec_answered (c := .cancel rtag) (d := putQueue s q) rfl h ⟨rfl, rfl, nofun⟩
    (congrArg answering run) rfl (.of_eq rfl) (by decide) (.inr hs)

/-- In IN_SERVICE the request that has joined the empty queue and is answered is examined at once (R73). -/
theorem exec_testRequest_examined (h : Accepts s src 1 .test)
    (run : testRequest (reservePlaces s 1) src len program rtag limit =
      (examineLater (putQueue (reservePlaces s 1) [x]), .done))
    (examined : examineQueue (answered (putQueue s [x]) src tag 20#8 .done) = answered t src tag 20#8 .done)
    (idle : t.agenda = s.agenda) :
    exec (.testRequest src tag len program rtag limit) s = .next (answered t src tag 20#8 .done) := by
  obtain ⟨awake, room, held⟩ := h
  have agenda : s.agenda = [] := awake.2
  have taken : ({ answered (examineLater (putQueue s [x])) src tag 20#8 .done with agenda := [] } : State) =
      answered (putQueue s [x]) src tag 20#8 .done := by
    rw [← agenda]
    rfl
  have handed : (answered (examineLater (putQueue s [x])) src tag 20#8 .done).agenda = [.examine] := by
    show s.agenda ++ [.examine] = _
    rw [agenda]
    rfl
  rw [exec_carriedOut (c := .testRequest len program rtag limit) (d := examineLater (putQueue s [x])) rfl awake room rfl
    nofun (permitted_of_group rfl held) (congrArg answering run) rfl]
  exact congrArg _ (settle_examined handed (taken ▸ examined) (idle.trans agenda))

/-! ### Admitted or preempting with its answer already sent -/

/-- A request that joins the queue of IN_SERVICE alone is ready but for bus and riser. -/
theorem waitsReady_answered {line p ms : Nat} {who : Requester} {d : DirectoryEntry} {n : Nat} (code : Octet)
    (service : s.arbiter.service = .inService) (metallic : isDialProgram (programAt s p) = false)
    (provisioned : directoryAt s line = some d) (free : markOf s line = .free)
    (quiet : (lineOf s line).hook = .idle ∨ (lineOf s line).hook = .parked)
    (fresh : (shelfAt s (lineShelf line)).freshness = .fresh) (released : (shelfAt s (lineShelf line)).released = true)
    (hn : n < 32) (slot : slotAt s n = .free) :
    WaitsReady (answered (putQueue s [demandEntry line p who ms]) src tag code r) (demandEntry line p who ms) where
  service := service
  queue := rfl
  demand := rfl
  unreserved := rfl
  unbusied := rfl
  metallic := metallic
  provisioned := Option.isSome_iff_exists.2 ⟨d, provisioned⟩
  free := free
  quiet := quiet
  shelfOpen := decide_eq_true ⟨fresh, released⟩
  slot := freeSlot_isSome hn slot

theorem orderPlaced_answered (code : Octet) (o : Order) :
    orderPlaced (answered s src tag code r) o = answered (orderPlaced s o) src tag code r := by
  have tags : nextOrderTag (answered s src tag code r) = nextOrderTag s := nextOrderTag_congr rfl rfl fun _ => rfl
  rw [orderPlaced, tags]
  rfl

theorem admitted_answered (x : Entry) (id b n : Nat) (code : Octet) (o : Order) :
    orderPlaced (admittedPlant (answered (putQueue s [x]) src tag code r) x id b n) o =
      answered (orderPlaced (admittedPlant s x id b n) o) src tag code r :=
  orderPlaced_answered (s := admittedPlant s x id b n) code o

theorem preemptedFor_answered (x e : Entry) (id n b : Nat) (code : Octet) :
    preemptedFor (answered (putQueue s [x]) src tag code r) e id n b =
      answered (preemptedFor s e id n b) src tag code r :=
  orderPlaced_answered (s := stopping (namedPreempted s e id) id b) code _

/-- The admission on bus 0, in session 0 and with result slot 0, of a request that joins the queue alone. -/
theorem examineQueue_admits (h : WaitsReady s x) (room : AdmissionRoom s x 0 0 0)
    (riser : riserAt s (lineShelf x.line) = .free) : examineQueue s =
      orderPlaced (admittedPlant s x 0 0 0) (riserOperateOrder (lineShelf x.line) 0 (.session 0)) := by
  have can : eligible s x = true :=
    h.eligible_iff.2 ⟨by rw [room.session]; rfl, riser, 0, by decide, room.busFree⟩
  refine examineQueue_leaves h.service h.queue ?_ rfl
  rw [h.entryTurn_eq, if_pos can, admitTurn, h.unreserved, admitEntry_eq h room]
  rfl

theorem WaitsReady.chooseBus_zero (h : WaitsReady s x) (free : (busAt s 0).state = .free)
    (sound : (checkerAt s 0).degraded = false) : chooseBus s x = some 0 := by
  have first : (List.range 4).find? (fun b => busOpen s x b && ! (checkerAt s b).degraded) = some 0 :=
    find?_range_zero 3 (by rw [(h.busOpen_iff 0).2 free, sound]; rfl)
  simp only [chooseBus, h.unreserved, chooseBus.free, first, Option.some_or]

/-- Settles O49: in SUSPENDED by the effect on the queue alone, in IN_SERVICE by the examination of the one entry. -/
theorem requestCommands : Obligations.RequestCommands := by
  unfold Obligations.RequestCommands
  intro s src program tag len rtag limit ds rs d e h who wait new request queued
  have hwait : clampWait limit = wait := clampWait_eq limit
  clear_value wait
  subst hwait
  let place := reservePlaces s 1
  refine ⟨fun hs noSession => ?_, ?_⟩
  · have suspended : s.arbiter.service ≠ .inService := by rw [hs]; nofun
    refine ⟨fun out => ?_, fun hn hp empty => ?_, fun hn hp steps hd dial hq demands routines => ?_,
      fun hq he routines unreserved unslotted => ?_, fun l p slot hq he routines hl hp unreserved hn asked => ?_⟩
    · exact exec_testRequest_refused h (testRequest_outOfRange out)
    · exact exec_testRequest_refused h (testRequest_emptyProgram hn hp empty)
    · have submits := testRequest_passes (s := place) (src := src) (rtag := rtag) (limit := limit) hn hp steps (.inr hs)
        hd (.inr dial)
      refine ⟨fun other room => ?_, fun hds hl hp new few => ?_⟩
      · exact exec_testRequest_waits h suspended (submits.trans (submitDemand_joins hq demands routines other room))
      · subst hds
        exact exec_testRequest_merges h suspended
          (submits.trans (submitDemand_merges hq (demands e List.mem_cons_self) routines hl hp new few))
    · have cancels := cancelRequest_head (s := place) (src := src) (rtag := rtag) noSession hq he routines
      refine ⟨fun mem other => ?_, fun last => ?_, fun absent => ?_⟩
      · refine exec_cancel_answers h suspended (cancels.trans ?_)
        rw [if_pos mem, cancelEntry_stays (s := place) hq he routines other]
      · refine exec_cancel_answers h suspended (cancels.trans ?_)
        rw [if_pos (by rw [last]; exact List.mem_cons_self),
          cancelEntry_leaves (s := place) hq he routines unreserved unslotted last]
      · exact exec_refused (c := .cancel rtag) rfl h ⟨rfl, rfl, nofun⟩
          (congrArg answering (cancels.trans (if_neg absent)))
    · refine ⟨_, waitRecord s e, exec_waitTimer h.1 hq he routines hl hp unreserved hn asked,
        slotAt_withResult _ slot _ _, rfl, rfl, rfl, rfl, rfl, rfl, rfl⟩
  · intro hs hq hn hp steps metallic hd free quiet n fresh released
    have joins : testRequest place src len program rtag limit = (examineLater (putQueue place [new]), .done) :=
      (testRequest_passes (s := place) hn hp steps (.inl hs) hd (.inl metallic)).trans
        (submitDemand_joins (ds := []) (rs := []) hq (by simp) (by simp) (by simp) (by simp))
    have ready {k : Nat} (hk : k < 32) (slot : slotAt s k = .free) :
        WaitsReady (answered (putQueue s [new]) src tag 20#8 .done) new :=
      waitsReady_answered 20#8 hs metallic hd free quiet fresh released hk slot
    refine ⟨?_, ?_⟩
    · intro id y k b free hy hid cls hb hst pre out hf slot wants orders waiting backlog south otag stop
      have held : Preemptable (answered (putQueue s [new]) src tag 20#8 .done) id b y :=
        ⟨hy, hb, hst, out, orders, waiting, south, backlog⟩
      have can : preemptible y = true := preemptible_iff.2 ⟨by rw [cls]; nofun, by rw [hb]; rfl, fun e => by
        rw [e] at hst
        simp at hst, pre⟩
      obtain ⟨barred, chosen⟩ := (ready hf slot).wanting hid hy can (wants.imp_left fun ⟨riser, buses, latest⟩ =>
        ⟨riser, buses, fun j z hj hz canz => by
          obtain ⟨routine, bus, unreleased, unpreempted⟩ := preemptible_iff.1 canz
          exact latest j z hj hz routine bus unreleased unpreempted⟩)
      have p := preempted_preemptedFor (b := b) (withReservation new y b) hy
      refine ⟨_, exec_testRequest_examined h joins ((examineQueue_preempts (ready hf slot) held barred chosen).trans
        (preemptedFor_answered new _ id _ b 20#8)) rfl, p.session, p.sessions, p.window, p.windows, p.frame⟩
    · intro none riser bus sound slot orders waiting backlog south urgent urgentBacklog order otag
      have room : AdmissionRoom (answered (putQueue s [new]) src tag 20#8 .done) new 0 0 0 :=
        ⟨(ready (by decide) slot).chooseBus_zero bus sound, bus, find?_range_zero 7 (congrArg Option.isNone (none 0)),
          freeSlot_zero (s := answered (putQueue s [new]) src tag 20#8 .done) slot, orders, waiting, south, backlog,
          urgent, urgentBacklog⟩
      have a := admitted_orderPlaced s new 0 0 0
      refine ⟨_, exec_testRequest_examined h joins
        ((examineQueue_admits (ready (by decide) slot) room riser).trans (admitted_answered new 0 0 0 20#8 _)) rfl,
        a.session, fun k hk => (a.sessions k hk).trans (none k), a.bus, a.buses, a.riser, a.risers, a.mark, a.line,
        a.lines, a.slot, a.slots, a.frame.trans ?_⟩
      rw [← hq]
      rfl

end Sys2Proof.Machine
end

section
/-! PROOFS. The timers of the measurement unit: O58 is refuted. -/

namespace Sys2Proof.Machine
open Sys2Proof

/-- A demand DIAL session of line 256, its pulse collector's 20 s not yet over. -/
def dialSession256 : Session :=
  { line := 256, program := 1, cls := .demand, requesters := [⟨0x20#8, 7#16⟩], bus := none, admission := 0
    retries := 0, waitMs := 0, slot := some 0, held := none, preempted := false, state := .collecting, started := none
    results := [], verdict := .notJudged, noData := 0, supervisionLost := false, outcome := none, ringGround := false
    belowSoFar := true, step := 0, repeated := false, accessReleased := false, dialTimer := some 5 }

/-- The mark of the DIAL session's line is FREE although the line's block value is set. -/
def blockedWhileFree : State :=
  { State.reset with
    tracker := { State.reset.tracker with lines := [(256, { lineZero with blocked := true })] }
    engine := { State.reset.engine with sessions := [(0, some dialSession256)] }
    meas := { State.reset.meas with collectors := [(0, { collectorZero with phase := .waiting })] } }

/-- Whether the step goes on to a state in which the line is blocked. -/
def leavesBlocked (len : Nat) (o : Host.Outcome State Fault Refusal) : Bool :=
  match o with
  | .next t => (lineOf t len).blocked
  | _ => false

theorem dialExpiry_clearsBlocked : leavesBlocked 256 (exec (.dialSessionTimerExpiry 0) blockedWhileFree) = false := by
  decide +kernel

/-- Refutes O58: the end of a DIAL session writes its line's mark FREE, and the block value with it, whatever the mark
was before; a FREE line whose block value is set does not keep it. -/
theorem not_measurementTimers : ¬ Obligations.MeasurementTimers := by
  unfold Obligations.MeasurementTimers
  intro h
  obtain ⟨-, -, -, dial, -, -⟩ := h blockedWhileFree 0 0 (newWindow blockedWhileFree 0 .settling .tipRing 256 0 0)
    dialSession256 0 ⟨rfl, rfl⟩ rfl rfl
  obtain ⟨t, r, run, -, -, blocked, -⟩ := dial rfl rfl rfl rfl rfl rfl nofun rfl nofun rfl rfl rfl (by decide)
  have cleared := dialExpiry_clearsBlocked
  rw [run] at cleared
  exact absurd (blocked.symm.trans cleared) (by decide)

end Sys2Proof.Machine
end

section
/-! PROOFS. The states of the buses where no reservation lapses and nobody is told, and O47. -/

namespace Sys2Proof.Machine
open Sys2Proof

variable {s t u : State} {i : Instr} {src : Octet} {tag : Half} {c : Command} {r : ResponseCode} {b k : Nat} {y z : Bus}

/-! ### Steps of the session engine alone -/

/-- `t` comes of `s` in the session engine's tables alone, at most `k` examinations handed on. -/
def OnEngine (k : Nat) (s t : State) : Prop :=
  ∃ j ≤ k, t = { s with engine := t.engine, agenda := s.agenda ++ List.replicate j .examine }

theorem OnEngine.of_eq (h : t = { s with engine := t.engine }) : OnEngine 0 s t :=
  ⟨0, Nat.le_refl 0, h.trans (by rw [List.replicate_zero, List.append_nil])⟩

theorem OnEngine.trans {j : Nat} (h : OnEngine j s t) (h' : OnEngine k t u) : OnEngine (j + k) s u := by
  obtain ⟨a, ha, first⟩ := h
  obtain ⟨b, hb, second⟩ := h'
  refine ⟨a + b, by omega, second.trans ?_⟩
  rw [first]
  simp only [List.append_assoc, List.replicate_append_replicate]

theorem OnEngine.mono {j : Nat} (h : OnEngine j s t) (hk : j ≤ k) : OnEngine k s t :=
  let ⟨a, ha, e⟩ := h
  ⟨a, ha.trans hk, e⟩

theorem OnEngine.units (h : OnEngine k s t) : t.interp.units = s.interp.units :=
  let ⟨_, _, e⟩ := h
  congrArg (·.interp.units) e

theorem OnEngine.requests (h : OnEngine k s t) : t.arbiter.queue = s.arbiter.queue :=
  let ⟨_, _, e⟩ := h
  congrArg (·.arbiter.queue) e

/-- An accepted command of one place that works on the session engine alone. -/
theorem exec_onEngine {g : CommandGroup} (hi : rowCommand i = some (src, tag, c)) (h : Accepts s src 1 g)
    (hc : IsPlainCommand c g) (run : carryOut (reservePlaces s 1) src c = (u, plainAnswer r))
    (hu : OnEngine k (reservePlaces s 1) u) (hk : k ≤ 16) (hq : NoRequests s) :
    exec i s = .next (answered { s with engine := u.engine } src tag (commandCode c) r) := by
  obtain ⟨j, hj, frame⟩ := hu
  exact exec_answered (d := { s with engine := u.engine, agenda := s.agenda ++ List.replicate j .examine }) (k := k) hi h hc
    (run.trans (Prod.ext frame rfl)) rfl ⟨j, hj, rfl⟩ hk (.inl hq)

/-! ### One bus (R73, R79, R88, R107) -/

/-- `t` comes of `s` by bus `b` becoming `y`, at most `k` examinations handed on. -/
structure Rebussed (k : Nat) (s t : State) (b : Nat) (y : Bus) : Prop where
  bus : busAt t b = y
  buses : ∀ j, j ≠ b → busAt t j = busAt s j
  engine : t.engine = { s.engine with buses := t.engine.buses }
  frame : OnEngine k s t

theorem rebussed_refl (s : State) (b : Nat) : Rebussed 0 s s b (busAt s b) := ⟨rfl, fun _ _ => rfl, rfl, .of_eq rfl⟩

theorem rebussed_modBus (s : State) (b : Nat) (f : Bus → Bus) : Rebussed 0 s (modBus s b f) b (f (busAt s b)) where
  bus := (busAt_modBus ..).trans (if_pos rfl)
  buses _ hj := (busAt_modBus ..).trans (if_neg hj)
  engine := rfl
  frame := .of_eq rfl

theorem Rebussed.trans {j : Nat} (h : Rebussed j s t b y) (h' : Rebussed k t u b z) : Rebussed (j + k) s u b z where
  bus := h'.bus
  buses n hn := (h'.buses n hn).trans (h.buses n hn)
  engine := by rw [h'.engine, h.engine]
  frame := h.frame.trans h'.frame

theorem rebussed_examineLater (hb : busAt s b = y) : Rebussed 1 s (examineLater s) b y :=
  ⟨hb, fun _ _ => rfl, rfl, 1, Nat.le_refl 1, rfl⟩

theorem Rebussed.riser (h : Rebussed k s t b y) (n : Nat) : riserAt t n = riserAt s n := by
  rw [riserAt, h.engine]; rfl

theorem Rebussed.shape (h : Rebussed k s t b y) : ∃ x, ∃ j ≤ k, t = { s with
    engine := { s.engine with buses := x }, agenda := s.agenda ++ List.replicate j .examine } := by
  obtain ⟨j, hj, frame⟩ := h.frame
  refine ⟨t.engine.buses, j, hj, ?_⟩
  rw [← h.engine]
  exact frame

theorem Rebussed.mono {j : Nat} (h : Rebussed j s t b y) (hk : j ≤ k) : Rebussed k s t b y :=
  ⟨h.bus, h.buses, h.engine, h.frame.mono hk⟩

/-- No waiting request holds a reservation. -/
abbrev Unreserved (s : State) : Prop := ∀ x ∈ s.arbiter.queue, x.reservation = none

theorem unreserved_of_noRequests (hq : NoRequests s) : Unreserved s := fun x hx => by
  rw [hq] at hx
  exact absurd hx List.not_mem_nil

theorem lapseReservations_none (hq : Unreserved s) : lapseReservations s b = s :=
  if_neg fun h => by
    obtain ⟨x, hx, held⟩ := List.any_eq_true.1 h
    simp [hq x hx] at held

/-- A bus comes into a state, no reservation lapsing and nobody told. -/
theorem rebussed_setBusState (hn : NoNotices s) (hq : Unreserved s) (b : Nat) (st : BusState) :
    Rebussed 1 s (setBusState s b st) b { busAt s b with state := st } := by
  by_cases same : (busAt s b).state = st
  · rw [setBusState, if_pos same, ← same]
    exact (rebussed_refl s b).mono (by omega)
  · have put := rebussed_modBus s b (fun x => { x with state := st })
    generalize hu : modBus s b (fun x => { x with state := st }) = u at put
    have silent : notify u (.bus b st) = u := notify_none _ (put.frame.units.trans hn)
    have calm : lapseReservations u b = u := lapseReservations_none (by rw [Unreserved, put.frame.requests]; exact hq)
    by_cases free : st = .free
    · have run : setBusState s b st = examineLater u := by
        simp only [setBusState, if_neg same, hu, silent, ite_self]
        simp only [free, if_true, reduceCtorEq, or_self, if_false]
      rw [run]
      exact put.trans (rebussed_examineLater put.bus)
    · have run : setBusState s b st = u := by
        simp only [setBusState, if_neg same, hu, silent, ite_self, if_neg free, calm]
      rw [run]
      exact put.mono (by omega)

/-- A bus that would become FREE does, or it goes OUT_OF_SERVICE under REMOVE_PENDING (R107). -/
theorem rebussed_busToFree (hn : NoNotices s) (hq : NoRequests s) (b : Nat) :
    Rebussed 1 s (busToFree s b) b { busAt s b with
      removePending := false, state := if (busAt s b).removePending then .outOfService else .free } := by
  cases pending : (busAt s b).removePending with
  | true =>
    have cleared := rebussed_modBus s b (fun x => { x with removePending := false })
    rw [busToFree, if_pos pending]
    have gone := cleared.trans (rebussed_setBusState (cleared.frame.units.trans hn)
      (unreserved_of_noRequests (cleared.frame.requests.trans hq)) b
      .outOfService)
    rw [cleared.bus] at gone
    exact gone
  | false =>
    have freed := rebussed_setBusState hn (unreserved_of_noRequests hq) b .free
    rw [busToFree, if_neg (by rw [pending]; nofun)]
    convert freed using 1
    simp only [pending, Bool.false_eq_true, if_false]

/-! ### The commands (R107, R108) -/

/-- The bus's part of a command's effect, as the rest of the part sees it once nothing is left handed on. -/
theorem Rebussed.becomes (h : Rebussed k (reservePlaces s 1) u b y) :
    let t : State := { s with engine := u.engine }
    busAt t b = y ∧ (∀ j, j ≠ b → busAt t j = busAt s j) ∧
      t = { s with engine := { s.engine with buses := t.engine.buses } } :=
  ⟨h.bus, h.buses, congrArg (fun e => { s with engine := e }) h.engine⟩

theorem busRemove_range {x : Octet} (h : 3 < x.toNat) : busRemove s x = (s, .range) := if_pos h

theorem busRestore_range {x : Octet} (h : 3 < x.toNat) : busRestore s x = (s, .range) := if_pos h

theorem busRemove_free {x : Octet} (h : x.toNat ≤ 3) (hs : (busAt s x.toNat).state = .free) :
    busRemove s x = (setBusState s x.toNat .outOfService, .done) := by
  simp only [busRemove, if_neg (Nat.not_lt.2 h), hs]

theorem busRemove_outOfService {x : Octet} (h : x.toNat ≤ 3) (hs : (busAt s x.toNat).state = .outOfService) :
    busRemove s x = (s, .done) := by
  simp only [busRemove, if_neg (Nat.not_lt.2 h), hs]

theorem busRemove_inUse {x : Octet} (h : x.toNat ≤ 3) (hs : (busAt s x.toNat).state ∈ [.attached, .quarantine, .stuck]) :
    busRemove s x = (modBus s x.toNat (fun x => { x with removePending := true }), .done) := by
  simp only [List.mem_cons, List.not_mem_nil, or_false] at hs
  rcases hs with hs | hs | hs <;> simp only [busRemove, if_neg (Nat.not_lt.2 h), hs]

theorem busRestore_free {x : Octet} (h : x.toNat ≤ 3) (hs : (busAt s x.toNat).state = .free) :
    busRestore s x = (s, .state) := by
  simp only [busRestore, if_neg (Nat.not_lt.2 h), hs]

theorem busRestore_outOfService {x : Octet} (h : x.toNat ≤ 3) (hs : (busAt s x.toNat).state = .outOfService) :
    busRestore s x = (setBusState s x.toNat .free, .done) := by
  simp only [busRestore, if_neg (Nat.not_lt.2 h), hs]

theorem busRestore_stuck {x : Octet} (h : x.toNat ≤ 3) (hs : (busAt s x.toNat).state = .stuck) :
    busRestore s x = (restoreStuck s x.toNat, .done) := by
  simp only [busRestore, if_neg (Nat.not_lt.2 h), hs]

theorem busRestore_pending {x : Octet} (h : x.toNat ≤ 3) (hs : (busAt s x.toNat).state ∈ [.attached, .quarantine])
    (hp : (busAt s x.toNat).removePending = true) :
    busRestore s x = (modBus s x.toNat (fun x => { x with removePending := false }), .done) := by
  simp only [List.mem_cons, List.not_mem_nil, or_false] at hs
  rcases hs with hs | hs <;> simp only [busRestore, if_neg (Nat.not_lt.2 h), hs, hp, if_true]

theorem busRestore_inUse {x : Octet} (h : x.toNat ≤ 3) (hs : (busAt s x.toNat).state ∈ [.attached, .quarantine])
    (hp : (busAt s x.toNat).removePending = false) : busRestore s x = (s, .state) := by
  simp only [List.mem_cons, List.not_mem_nil, or_false] at hs
  rcases hs with hs | hs <;> simp only [busRestore, if_neg (Nat.not_lt.2 h), hs, hp, Bool.false_eq_true, if_false]

/-! ### A STUCK bus restored (R108) -/

/-- The risers toward a bus are those `riserToward` looks for. -/
theorem riserToward_none (h : ∀ n, ¬ (n < 16 ∧ (riserAt s n = .operated b ∨ riserAt s n = .unknown b))) :
    riserToward s b = none :=
  List.find?_eq_none.2 fun n hn e => h n ⟨List.mem_range.1 hn, of_decide_eq_true e⟩

theorem riserToward_some {n : Nat} (hn : n < 16) (toward : riserAt s n = .operated b ∨ riserAt s n = .unknown b)
    (alone : ∀ k, k ≠ n → ¬ (k < 16 ∧ (riserAt s k = .operated b ∨ riserAt s k = .unknown b))) :
    riserToward s b = some n :=
  find?_of_unique (List.mem_range.2 hn) (decide_eq_true toward) fun k hk e =>
    Decidable.byContradiction fun ne => alone k ne ⟨List.mem_range.1 hk, of_decide_eq_true e⟩

/-- `t` comes of `s` by the restoring of STUCK bus `b`, with the risers of which `freed` tells. -/
structure Restored (s t : State) (b : Nat) (freed : Nat → Prop) : Prop where
  bus : busAt t b = { busAt s b with state := .free, retry := none, removePending := false }
  buses : ∀ k, k ≠ b → busAt t k = busAt s k
  released : ∀ k, freed k → riserAt t k = .free
  kept : ∀ k, ¬ freed k → riserAt t k = riserAt s k
  engine : t.engine = { s.engine with
    buses := t.engine.buses, risers := t.engine.risers
    orders := s.engine.orders.filter (fun o => o.order.owner ≠ .retry b)
    waiting := s.engine.waiting.filter (fun o => o.owner ≠ .retry b) }
  frame : OnEngine 2 s t

/-- The bus's own part of a restoring. -/
theorem rebussed_restored (hn : NoNotices s) (hq : NoRequests s) (b : Nat) :
    Rebussed 1 s (setBusState (modBus s b (fun x => { x with retry := none, removePending := false })) b .free) b
      { busAt s b with state := .free, retry := none, removePending := false } := by
  have cleared := rebussed_modBus s b (fun x => { x with retry := none, removePending := false })
  have freed := cleared.trans (rebussed_setBusState (cleared.frame.units.trans hn)
      (unreserved_of_noRequests (cleared.frame.requests.trans hq)) b .free)
  rw [cleared.bus] at freed
  exact freed

theorem restored_noRiser (hn : NoNotices s) (hq : NoRequests s) (h : riserToward s b = none) :
    Restored s (restoreStuck s b) b (fun _ => False) := by
  let given := giveUpOrders s (.retry b)
  have toward : riserToward given b = none := h
  have run : restoreStuck s b =
      setBusState (modBus given b (fun x => { x with retry := none, removePending := false })) b .free := by
    simp only [restoreStuck, show giveUpOrders s (.retry b) = given from rfl, toward]
  rw [run]
  have r := rebussed_restored (s := given) hn hq b
  exact {
    bus := r.bus
    buses := r.buses
    released := fun _ => False.elim
    kept := fun k _ => r.riser k
    engine := by rw [r.engine]; rfl
    frame := ((OnEngine.of_eq rfl).trans r.frame).mono (by omega) }

theorem restored_riser {n : Nat} (hn : NoNotices s) (hq : NoRequests s) (h : riserToward s b = some n) :
    Restored s (restoreStuck s b) b (fun k => k = n) := by
  let given := giveUpOrders s (.retry b)
  have toward : riserToward given b = some n := h
  have run : restoreStuck s b =
      setBusState (modBus (freeRiser given n) b (fun x => { x with retry := none, removePending := false })) b .free := by
    simp only [restoreStuck, show giveUpOrders s (.retry b) = given from rfl, toward]
  obtain ⟨x, j, hj, freed, risers⟩ := freeRiser_frame given n
  rw [run, freed]
  let v : State := { given with
    engine := { given.engine with risers := x }, agenda := given.agenda ++ List.replicate j .examine }
  have r := rebussed_restored (s := v) hn hq b
  have riser (k : Nat) : riserAt _ k = if k = n then .free else riserAt s k :=
    (r.riser k).trans (risers k)
  exact {
    bus := r.bus
    buses := r.buses
    released := fun k hk => (riser k).trans (if_pos hk)
    kept := fun k hk => (riser k).trans (if_neg hk)
    engine := by rw [r.engine]; rfl
    frame := ((show OnEngine 1 s v from ⟨j, hj, rfl⟩).trans r.frame).mono (by omega) }

theorem Restored.becomes {freed : Nat → Prop} (h : Restored (reservePlaces s 1) u b freed) :
    let t : State := { s with engine := u.engine }
    busAt t b = { busAt s b with state := .free, retry := none, removePending := false } ∧
      (∀ k, k ≠ b → busAt t k = busAt s k) ∧ (∀ k, freed k → riserAt t k = .free) ∧
      (∀ k, ¬ freed k → riserAt t k = riserAt s k) ∧
      t = { s with engine := { s.engine with
        buses := t.engine.buses, risers := t.engine.risers
        orders := s.engine.orders.filter (fun o => o.order.owner ≠ .retry b)
        waiting := s.engine.waiting.filter (fun o => o.owner ≠ .retry b) } } :=
  ⟨h.bus, h.buses, h.released, h.kept, congrArg (fun e => { s with engine := e }) h.engine⟩

/-! ### The quarantine timer (R106) -/

theorem exec_quarantineTimerExpiry {k : Fin 4} (ha : Awake s) (hq : NoRequests s)
    (running : (busAt s k).quarantine.isSome = true) (h : Rebussed 1 s (quarantineExpired s k) k y) :
    exec (.quarantineTimerExpiry k) s = .next { s with engine := (quarantineExpired s k).engine } := by
  obtain ⟨j, hj, frame⟩ := h.frame
  have run : (if (busAt s k).quarantine.isSome then quarantineExpired s k else s) = quarantineExpired s k := if_pos running
  have step := live_of_examine (f := fun s => if (busAt s k).quarantine.isSome then quarantineExpired s k else s) j
    (by unfold settleFuel; omega) ha.1 (by rw [run, frame, ha.2]; rfl) (.inl (by rw [run, h.frame.requests]; exact hq))
  refine step.trans (congrArg Host.Outcome.next ?_)
  rw [run]
  conv_lhs => rw [frame]
  rw [← ha.2]

theorem rebussed_quarantineExpired_held (hh : (busAt s b).holder ≠ .none) :
    Rebussed 1 s (quarantineExpired s b) b { busAt s b with quarantine := none } := by
  have stopped := rebussed_modBus s b (fun x => { x with quarantine := none })
  have run : quarantineExpired s b = modBus s b (fun x => { x with quarantine := none }) :=
    if_neg (by rw [stopped.bus]; exact fun h => hh h.2)
  rw [run]
  exact stopped.mono (by omega)

theorem rebussed_quarantineExpired_alone (hn : NoNotices s) (hq : NoRequests s) (st : (busAt s b).state = .quarantine)
    (hh : (busAt s b).holder = .none) :
    Rebussed 1 s (quarantineExpired s b) b { busAt s b with
      quarantine := none, removePending := false
      state := if (busAt s b).removePending then .outOfService else .free } := by
  have stopped := rebussed_modBus s b (fun x => { x with quarantine := none })
  have run : quarantineExpired s b = busToFree (modBus s b (fun x => { x with quarantine := none })) b :=
    if_pos (by rw [stopped.bus]; exact ⟨st, hh⟩)
  have freed := stopped.trans (rebussed_busToFree (stopped.frame.units.trans hn) (stopped.frame.requests.trans hq) b)
  rw [stopped.bus] at freed
  rw [run]
  exact freed

/-- Settles O47, by the state of the bus. -/
theorem busCommands : Obligations.BusCommands := by
  unfold Obligations.BusCommands
  intro s src x tag h hn hq
  have removeRefused {r} (run : busRemove (reservePlaces s 1) x = (reservePlaces s 1, r)) :=
    exec_refused (i := .busRemove src tag x) (c := .busRemove x) rfl h ⟨rfl, rfl, nofun⟩ (congrArg answering run)
  have restoreRefused {r} (run : busRestore (reservePlaces s 1) x = (reservePlaces s 1, r)) :=
    exec_refused (i := .busRestore src tag x) (c := .busRestore x) rfl h ⟨rfl, rfl, nofun⟩ (congrArg answering run)
  have removeRuns {u r y k} (run : busRemove (reservePlaces s 1) x = (u, r))
      (hu : Rebussed k (reservePlaces s 1) u x.toNat y) (hk : k ≤ 16) :=
    exec_onEngine (i := .busRemove src tag x) (c := .busRemove x) rfl h ⟨rfl, rfl, nofun⟩ (congrArg answering run)
      hu.frame hk hq
  have restoreRuns {u r k} (run : busRestore (reservePlaces s 1) x = (u, r)) (hu : OnEngine k (reservePlaces s 1) u)
      (hk : k ≤ 16) :=
    exec_onEngine (i := .busRestore src tag x) (c := .busRestore x) rfl h ⟨rfl, rfl, nofun⟩ (congrArg answering run)
      hu hk hq
  refine ⟨fun hx => ⟨removeRefused (busRemove_range hx), restoreRefused (busRestore_range hx)⟩, ?_, ?_, ?_, ?_, ?_, ?_, ?_⟩
  · intro hx free
    have out := rebussed_setBusState (s := reservePlaces s 1) hn (unreserved_of_noRequests hq) x.toNat .outOfService
    exact ⟨restoreRefused (busRestore_free hx free), _, removeRuns (busRemove_free hx free) out (by omega), out.becomes⟩
  · intro hx out
    have free := rebussed_setBusState (s := reservePlaces s 1) hn (unreserved_of_noRequests hq) x.toNat .free
    exact ⟨removeRefused (busRemove_outOfService hx out), _,
      restoreRuns (busRestore_outOfService hx out) free.frame (by omega), free.becomes⟩
  · intro hx inUse
    have marked := rebussed_modBus (reservePlaces s 1) x.toNat (fun x => { x with removePending := true })
    exact ⟨_, removeRuns (busRemove_inUse hx inUse) marked (by omega), marked.becomes⟩
  · intro hx held pending
    have back := rebussed_modBus (reservePlaces s 1) x.toNat (fun x => { x with removePending := false })
    exact ⟨_, restoreRuns (busRestore_pending hx held pending) back.frame (by omega), back.becomes⟩
  · intro hx held stays
    exact restoreRefused (busRestore_inUse hx held stays)
  · intro hx stuck
    refine ⟨fun none => ?_, fun n toward alone => ?_⟩
    · have r := restored_noRiser (s := reservePlaces s 1) hn hq (riserToward_none none)
      exact ⟨_, restoreRuns (busRestore_stuck hx stuck) r.frame (by omega), r.becomes⟩
    · have r := restored_riser (s := reservePlaces s 1) hn hq (riserToward_some toward.1 toward.2 alone)
      exact ⟨_, restoreRuns (busRestore_stuck hx stuck) r.frame (by omega), r.becomes⟩
  · intro k hk running state
    rw [← hk] at running state ⊢
    refine ⟨fun held => ?_, fun alone => ?_⟩
    · have r := rebussed_quarantineExpired_held held
      exact ⟨_, exec_quarantineTimerExpiry h.1 hq running r, r.bus, r.buses,
        congrArg (fun e => { s with engine := e }) r.engine⟩
    · have r := rebussed_quarantineExpired_alone hn hq state alone
      exact ⟨_, exec_quarantineTimerExpiry h.1 hq running r, r.bus, r.buses,
        congrArg (fun e => { s with engine := e }) r.engine⟩

end Sys2Proof.Machine
end

section
/-! PROOFS. Waiting orders sent, sessions that end and leave their bus to the riser clean-up. -/

namespace Sys2Proof.Machine
open Sys2Proof

variable {s t u : State} {i : Instr}

/-- A step whose work hands on a few examinations of an empty queue, or outside IN_SERVICE, leaves no work. -/
theorem live_of_hands {f : State → State} {k : Nat} (ha : Awake s) (run : f s = t) (hands : Hands k s t) (hk : k ≤ 16)
    (hq : t.arbiter.queue = [] ∨ t.arbiter.service ≠ .inService) : live f s = .next { t with agenda := s.agenda } := by
  subst run
  obtain ⟨j, hj, agenda⟩ := hands
  rw [ha.2, List.nil_append] at agenda
  rw [live_of_examine j (by unfold settleFuel; omega) ha.1 agenda hq, ha.2]

/-! ### Orders of the wait list (R90, R93) -/

/-- The part with `rest` waiting. -/
def unwaited (s : State) (rest : List Order) : State := { s with engine := { s.engine with waiting := rest } }

theorem takeWaiting_idle (h : s.engine.waiting = [] ∨ 16 ≤ s.engine.orders.length) : takeWaiting s = s := by
  unfold takeWaiting
  split
  · rfl
  · next o rest hw =>
    rcases h with none | full
    · rw [none] at hw
      exact absurd hw nofun
    · exact if_pos full

section
variable {o : Order} {rest : List Order} (hw : s.engine.waiting = o :: rest) (ho : s.engine.orders.length < 16)
include hw ho

theorem takeWaiting_places (hk : o.kind ≠ .accessOperate) : takeWaiting s = placeOrder (unwaited s rest) o := by
  simp only [takeWaiting, hw, if_neg (Nat.not_le.2 ho : ¬ Config.orderCapacity ≤ _)]
  split
  · next h _ => exact absurd h hk
  · rfl

theorem takeWaiting_tries {id : Nat} (hk : o.kind = .accessOperate) (hid : o.owner = .session id) :
    takeWaiting s = tryAccess (unwaited s rest) id := by
  simp only [takeWaiting, hw, if_neg (Nat.not_le.2 ho : ¬ Config.orderCapacity ≤ _), hk, hid]
  rfl

end

/-- The cell of an order that needs no hook test, by its kind (section 11.5). -/
theorem relayOrderCell_plain {o : Order} {a code : Octet} {carried : List Octet} {tag : Nat}
    (h : (o.kind, code, carried) ∈ [(OrderKind.riserOperate, 1#8, [BitVec.ofNat 8 o.bus, 0#8, 0#8]),
        (.accessRelease, 3#8, 0#8 :: octets2 o.line), (.riserRelease, 4#8, [BitVec.ofNat 8 o.bus, 0#8, 0#8])]) :
    relayOrderCell a tag o =
      makeCell 0x21#8 a (BitVec.ofNat 8 (0x10 + o.shelf)) ([BitVec.ofNat 8 tag, code] ++ carried) := by
  simp only [List.mem_cons, List.not_mem_nil, or_false, Prod.mk.injEq] at h
  rcases h with ⟨kind, rfl, rfl⟩ | ⟨kind, rfl, rfl⟩ | ⟨kind, rfl, rfl⟩ <;> simp only [relayOrderCell, kind] <;> rfl

/-- The hook test passed, the ACCESS OPERATE takes an entry and its cell joins (R93). -/
theorem tryAccess_joins {id : Nat} {x : Session} (hx : sessionAt s id = some x) (ht : hookTest s x = true)
    (ho : s.engine.orders.length < 16) (hq : s.ports.southQueue.length < 32) (hb : s.ports.southBacklog = []) :
    let placed := orderPlaced s (accessOperateOrder x.line (.session id))
    ∃ l m e, tryAccess s id = { placed with
        tracker := { s.tracker with lines := l }, arbiter := { s.arbiter with marks := m }
        engine := { placed.engine with sessions := e } } ∧
      (∀ k, tabGet lineZero l k =
        if k = x.line then { lineOf s x.line with cutOff := true, blocked := true } else lineOf s k) ∧
      (∀ k, tabGet Mark.free m k = if k = x.line then .inSession else markOf s k) ∧
      ∀ k, tabGet none e k = if k = id then some { x with state := .connecting } else sessionAt s k := by
  intro placed
  obtain ⟨l, m, cut, lines, marks⟩ := cutLine_frame placed x.line
  obtain ⟨e, connecting, sessions⟩ := modSession_frame (s := cutLine placed x.line)
    (fun x => { x with state := .connecting }) (hx : sessionAt (cutLine placed x.line) id = some x)
  refine ⟨l, m, e, ?_, lines, marks, sessions⟩
  simp only [tryAccess, hx, ht, if_true]
  rw [placeOrder_access _ ho hq hb rfl rfl]
  exact connecting.trans (by rw [cut]; rfl)

/-! ### A request given back, its line's reports offered (R40, R41, R83) -/

/-- The reports that a line's mark becoming FREE offers: UNBLOCKED, and the synthesised one behind it. -/
def freedReports (s : State) (len : Nat) (synth : Bool) : List Cell :=
  testBlockCell (own s) len false ::
    if synth then (synthesisedReport (lineOf s len)).toList.map (synthReportCell (own s) len) else []

/-- A line's mark becomes FREE, no URGENT cell waiting (R40, R41, R66). -/
theorem setMark_reports {len : Nat} (synth : Bool) (hm : markOf s len ≠ .free) (hu : s.ports.urgent = [])
    (hb : s.ports.urgentBacklog = []) : setMark s len .free synth =
      examineLater { unblockedAlone s len with ports := { s.ports with urgent := freedReports s len synth } } := by
  have alone : offerTestBlock (writeMark s len .free) len false = unblockedAlone s len :=
    offerTestBlock_alone len false hu hb
  have room : (unblockedAlone s len).ports.urgent.length < Config.urgentCapacity ∧
      (unblockedAlone s len).ports.urgentBacklog = [] := ⟨show 1 < Config.urgentCapacity by decide, hb⟩
  rw [setMark, if_neg fun h => hm h.1, if_pos ⟨hm, rfl⟩]
  refine congrArg examineLater ?_
  simp only [offerUnblocked, alone, lineOf_unblockedAlone, if_true, synthesisedReport_blocked, freedReports]
  cases synthesisedReport (lineOf s len) with
  | none => rw [Option.toList_none, List.map_nil, ite_self]; rfl
  | some r =>
    cases synth with
    | false => rfl
    | true => exact if_pos room

/-- `t` comes of `s` by the end of session `id`, whose request rejoins an empty queue as `e`, the reports `urgent` of
its line offered. -/
structure GivenBack (s t : State) (id : Nat) (x : Session) (e : Entry) (urgent : List Cell) : Prop where
  gone : sessionAt t id = none
  sessions : ∀ k, k ≠ id → sessionAt t k = sessionAt s k
  mark : markOf t x.line = .free
  line : lineOf t x.line = { lineOf s x.line with blocked := false }
  others : ∀ k, k ≠ x.line → markOf t k = markOf s k ∧ lineOf t k = lineOf s k
  hands : Hands 3 s t
  frame : t = { s with
    ports := { s.ports with urgent := urgent }
    tracker := { s.tracker with lines := t.tracker.lines }
    arbiter := { s.arbiter with marks := t.arbiter.marks, queue := [e] }
    engine := { s.engine with sessions := t.engine.sessions }, agenda := t.agenda }

/-- A demand session without an outcome can give its request back to an empty queue. -/
structure CanReturn (s : State) (id : Nat) (x : Session) : Prop where
  session : sessionAt s id = some x
  demand : x.cls = .demand
  outcome : x.outcome = none
  mark : markOf s x.line ≠ .free
  quiet : NoRequests s
  urgent : s.ports.urgent = []
  backlog : s.ports.urgentBacklog = []

section
variable {id : Nat} {x : Session} (h : CanReturn s id x)
include h

theorem CanReturn.givenBack (synth : Bool) (ret : Returning) : GivenBack s (finishSession s id .free synth ret) id x
    (entryOf x ret) (freedReports s x.line synth) := by
  let gone := putSession s id none
  have marked := setMark_reports (s := gone) synth h.mark h.urgent h.backlog
  obtain ⟨l, m, frame, lines, marks⟩ := unblockedAlone_frame gone x.line
  rw [frame] at marked
  have demand : (entryOf x ret).cls = .demand := by cases ret <;> exact h.demand
  have back := (returnRequest_demand (s := setMark gone x.line .free synth) h.demand (ret := ret)).trans
    (giveBack_empty (by rw [marked]; exact h.quiet) demand)
  have run : finishSession s id .free synth ret = examineLater (examineLater { setMark gone x.line .free synth with
      arbiter := { (setMark gone x.line .free synth).arbiter with queue := [entryOf x ret] } }) := by
    simp only [finishSession, h.session, h.outcome]
    exact congrArg examineLater back
  rw [run, marked]
  exact {
    gone := (sessionAt_putSession (s := s) id id none).trans (if_pos rfl)
    sessions := fun k hk => (sessionAt_putSession (s := s) id k none).trans (if_neg hk)
    mark := (marks x.line).trans (if_pos rfl)
    line := (lines x.line).trans (if_pos rfl)
    others := fun k hk => ⟨(marks k).trans (if_neg hk), (lines k).trans (if_neg hk)⟩
    hands := ⟨3, Nat.le_refl 3, by simp only [examineLater_agenda, List.append_assoc]; rfl⟩
    frame := rfl }

end

/-- `t` comes of `s` as by `GivenBack`, and the session's bus passes to the riser clean-up, its RISER RELEASE joining
(R99). -/
structure CleanedUp (s t : State) (id : Nat) (x : Session) (b : Nat) (e : Entry) (urgent : List Cell) : Prop where
  gone : sessionAt t id = none
  sessions : ∀ k, k ≠ id → sessionAt t k = sessionAt s k
  mark : markOf t x.line = .free
  line : lineOf t x.line = { lineOf s x.line with blocked := false }
  others : ∀ k, k ≠ x.line → markOf t k = markOf s k ∧ lineOf t k = lineOf s k
  bus : busAt t b = { busAt s b with holder := .cleanUp }
  buses : ∀ k, k ≠ b → busAt t k = busAt s k
  hands : Hands 3 s t
  frame : t = { s with
    ports := { s.ports with
      urgent := urgent
      southQueue := s.ports.southQueue ++ [makeCell 0x21#8 (own s) (BitVec.ofNat 8 (0x10 + x.line / 256))
        [BitVec.ofNat 8 (nextOrderTag s), 4#8, BitVec.ofNat 8 b, 0#8, 0#8]] }
    tracker := { s.tracker with lines := t.tracker.lines }
    arbiter := { s.arbiter with marks := t.arbiter.marks, queue := [e] }
    engine := { s.engine with
      buses := t.engine.buses, sessions := t.engine.sessions, candidate := (nextOrderTag s + 1) % 256
      orders := s.engine.orders ++ [{
        tag := nextOrderTag s
        order := { kind := .riserRelease, shelf := x.line / 256, bus := b, line := 0, owner := .cleanUp b }
        timer := some 40 }] }
    agenda := t.agenda }

theorem giveUpOrders_none {w : Owner} (ho : ∀ y ∈ s.engine.orders, y.order.owner ≠ w) (hw : s.engine.waiting = []) :
    giveUpOrders s w = s := by
  have kept : s.engine.orders.filter (fun o => o.order.owner ≠ w) = s.engine.orders :=
    List.filter_eq_self.2 fun y hy => decide_eq_true (ho y hy)
  rw [giveUpOrders, onEngine, kept, hw, List.filter_nil, ← hw]

/-- A session in RESERVED with no order of its own ends, the riser clean-up taking its bus over (R83, R99). -/
theorem CanReturn.cleanedUp {id b : Nat} {x : Session} (h : CanReturn s id x) (hb : x.bus = some b) (synth : Bool)
    (ret : Returning) (own : ∀ y ∈ s.engine.orders, y.order.owner ≠ .session id) (waiting : s.engine.waiting = [])
    (orders : s.engine.orders.length < 16) (south : s.ports.southQueue.length < 32)
    (backlog : s.ports.southBacklog = []) :
    CleanedUp s (dropReserved s id synth ret) id x b (entryOf x ret) (freedReports s x.line synth) := by
  have ordered : s.engine.orders.any
      (fun o => o.order.owner = .session id ∧ o.order.kind = .accessOperate) = false :=
    List.any_eq_false.2 fun y hy e => own y hy (of_decide_eq_true e).1
  have run := dropReserved_ordered (synth := synth) (ret := ret) h.session hb waiting (if_neg (by rw [ordered]; nofun))
  rw [giveUpOrders_none own waiting] at run
  rw [run]
  obtain ⟨gone, sessions, mark, line, others, hands, frame⟩ := h.givenBack synth ret
  generalize finishSession s id .free synth ret = v at gone sessions mark line others hands frame
  obtain ⟨y, held, buses⟩ := modBus_frame v b (fun x => { x with holder := .cleanUp })
  have joined := requestOrder_joins (s := modBus v b (fun x => { x with holder := .cleanUp }))
    (o := riserReleaseOrder (lineShelf x.line) b (.cleanUp b)) (by simp [riserReleaseOrder])
    (by rw [held, frame]; exact orders) (by rw [held, frame]; exact waiting) (by rw [held, frame]; exact south)
    (by rw [held, frame]; exact backlog)
  have tag : nextOrderTag (modBus v b (fun x => { x with holder := .cleanUp })) = nextOrderTag s := by
    rw [held]
    exact nextOrderTag_congr (by rw [frame]) (by rw [frame]) fun n => by rw [frame]; rfl
  rw [orderPlaced_eq (relayOrderCell_riserRelease rfl b _), tag, held] at joined
  have bus (k : Nat) : busAt v k = busAt s k := by rw [frame]; rfl
  rw [startCleanUp, held, joined]
  exact {
    gone := gone
    sessions := sessions
    mark := mark
    line := line
    others := others
    bus := (buses b).trans (by rw [if_pos rfl, bus])
    buses := fun k hk => (buses k).trans (by rw [if_neg hk, bus])
    hands := hands
    frame := by rw [frame]; rfl }

end Sys2Proof.Machine
end

section
/-! PROOFS. Orders that run out, and what their owners make of it: O56. -/

namespace Sys2Proof.Machine
open Sys2Proof

variable {s t u : State} {i : Instr}

/-! ### An entry that runs out leaves the table (R91) -/

/-- The part with the order table `orders`. -/
def withOrders (s : State) (orders : List OutstandingOrder) : State :=
  { s with engine := { s.engine with orders := orders } }

/-- The order entry `e`, between `before` and `after`, whose timer runs. -/
structure Runs (s : State) (before after : List OutstandingOrder) (e : OutstandingOrder) : Prop where
  awake : Awake s
  orders : s.engine.orders = before ++ e :: after
  other : ∀ x ∈ before ++ after, x.tag ≠ e.tag
  timer : e.timer.isSome = true
  tag : e.tag < 256

section
variable {before after : List OutstandingOrder} {e : OutstandingOrder} {k : Nat} (h : Runs s before after e)
include h

theorem Runs.orderExpired : orderExpired s e.tag = orderTimedOut (withOrders s (before ++ after)) e.order := by
  have found : s.engine.orders.find? (fun o => o.tag = e.tag) = some e := by
    rw [h.orders]
    exact find_order (decide_eq_true rfl) fun x hx => decide_eq_false (h.other x (List.mem_append_left _ hx))
  have rest : s.engine.orders.filter (fun x => x.tag ≠ e.tag) = before ++ after := by
    rw [h.orders, List.filter_append, List.filter_cons_of_neg (by simp), ← List.filter_append]
    exact List.filter_eq_self.2 fun x hx => decide_eq_true (h.other x hx)
  simp only [Machine.orderExpired, found, h.timer, if_true, removeOrder, onEngine, rest]
  rfl

/-- An order that runs out: what its owner makes of it, and then the few examinations it handed on. -/
theorem Runs.exec (run : orderTimedOut (withOrders s (before ++ after)) e.order = t)
    (hands : Hands k (withOrders s (before ++ after)) t) (hk : k ≤ 16)
    (hq : t.arbiter.queue = [] ∨ t.arbiter.service ≠ .inService) :
    exec (.orderTimeout (BitVec.ofNat 8 e.tag)) s = .next { t with agenda := s.agenda } :=
  live_of_hands (f := fun s => Machine.orderExpired s (BitVec.ofNat 8 e.tag).toNat) h.awake
    ((congrArg (Machine.orderExpired s) (octet_toNat h.tag)).trans (h.orderExpired.trans run)) hands hk hq

/-- An order whose running out hands nothing on. -/
theorem Runs.exec_quiet (run : orderTimedOut (withOrders s (before ++ after)) e.order = t)
    (agenda : t.agenda = s.agenda) : Machine.exec (.orderTimeout (BitVec.ofNat 8 e.tag)) s = .next t :=
  live_of_effect (f := fun s => Machine.orderExpired s (BitVec.ofNat 8 e.tag).toNat) h.awake.1
    ((congrArg (Machine.orderExpired s) (octet_toNat h.tag)).trans (h.orderExpired.trans run)) (agenda.trans h.awake.2)

end

/-- A shelf that loses its release is not opened (R32). -/
theorem setReleased_false (s : State) (n : Nat) :
    setReleased s n false = modShelf s n (fun x => { x with released := false }) := by
  have shut : openForAccess (modShelf s n (fun x => { x with released := false })) n = false := by
    simp [openForAccess, shelfAt_modShelf_same]
  exact if_neg fun h => by
    rw [shut] at h
    exact absurd h.1 nofun

/-! ### A failure counts on its OPEN ticket (R154, R155) -/

/-- A ticket as a failure without a value is seen again. -/
def seenAgain (s : State) (tk : Ticket) : Ticket :=
  { tk with lastSeen := stampNow s, occurrences := min (tk.occurrences + 1) 65535 }

/-- The ticket manager as such a failure is seen again on the OPEN ticket `tk`. -/
def failureSeen (s : State) (tk : Ticket) : TicketManager :=
  { s.tickets with tickets := s.tickets.tickets.map (fun u => if u.id = tk.id then seenAgain s tk else u) }

theorem equipmentFail_opened {u : Subject} {c : FaultClass} {tk : Ticket} (hf : findTicket s u c = some tk)
    (ho : tk.state = .opened) (hm : isMeasured c = false) (v : Option Int) :
    equipmentFail s u c v = { s with tickets := failureSeen s tk } := by
  obtain ⟨-, -, cls⟩ := findTicket_spec hf
  have again : updateTicket s v tk = seenAgain s tk := by
    simp only [updateTicket, cls, hm, Bool.false_eq_true, if_false]
    rw [seenAgain, ← cls]
    rfl
  simp only [equipmentFail, failTicket, hf, ho, again]
  rfl

/-! ### A bus whose release has run out (R101, R102) -/

/-- `t` comes of `s` by bus `b` being STUCK with the order `p` pending, the riser of shelf `n` UNKNOWN, and the failure
seen on the ticket `tk`. -/
structure Stuck (s t : State) (b n : Nat) (p : PendingRelease) (tk : Ticket) : Prop where
  bus : busAt t b = { busAt s b with
    state := .stuck, holder := .none, quarantine := none
    retry := some { order := p, resends := 0, timer := some 1000 } }
  buses : ∀ k, k ≠ b → busAt t k = busAt s k
  riser : riserAt t n = .unknown b
  risers : ∀ k, k ≠ n → riserAt t k = riserAt s k
  hands : Hands 1 s t
  frame : t = { s with
    engine := { s.engine with buses := t.engine.buses, risers := t.engine.risers }
    tickets := failureSeen s tk, agenda := t.agenda }

theorem stuck_releaseFailed {b n : Nat} {p : PendingRelease} {tk : Ticket} (hn : NoNotices s) (hq : Unreserved s)
    (hf : findTicket s (.shelf n) .accessFail = some tk) (ho : tk.state = .opened) :
    Stuck s (releaseFailed s b n p) b n p tk := by
  have left := rebussed_modBus s b (fun x => { x with holder := .none, quarantine := none })
  have put := left.trans (rebussed_setBusState (left.frame.units.trans hn)
    (by rw [Unreserved, left.frame.requests]; exact hq) b .stuck)
  rw [left.bus] at put
  have run : releaseFailed s b n p =
      startRetry (equipmentFail (putRiser (setBusState (modBus s b (fun x =>
        { x with holder := .none, quarantine := none })) b .stuck) n (.unknown b)) (.shelf n) .accessFail none) b p := rfl
  generalize setBusState (modBus s b (fun x => { x with holder := .none, quarantine := none })) b .stuck = v at put run
  obtain ⟨y, j, hj, rfl⟩ := put.shape
  let v : State := { s with engine := { s.engine with buses := y }, agenda := s.agenda ++ List.replicate j .examine }
  have found : findTicket (putRiser v n (.unknown b)) (.shelf n) .accessFail = some tk := hf
  rw [run, equipmentFail_opened found ho rfl]
  have retried (k : Nat) : busAt (startRetry { putRiser v n (.unknown b) with tickets := failureSeen s tk } b p) k =
      if k = b then { busAt v b with retry := some { order := p, resends := 0, timer := some Config.retryMs } }
      else busAt v k := busAt_modBus ..
  have moved (k : Nat) := riserAt_putRiser (s := v) n k (.unknown b)
  exact {
    bus := (retried b).trans ((if_pos rfl).trans (by rw [put.bus]; rfl))
    buses := fun k hk => (retried k).trans ((if_neg hk).trans (put.buses k hk))
    riser := (moved n).trans (if_pos rfl)
    risers := fun k hk => (moved k).trans (if_neg hk)
    hands := ⟨j, hj, rfl⟩
    frame := rfl }

/-! ### A session asks for its ACCESS RELEASE (R98) -/

theorem requestRelease_joins {id : Nat} {x y : Session} (hy : sessionAt s id = some y)
    (orders : s.engine.orders.length < 16) (waiting : s.engine.waiting = []) (south : s.ports.southQueue.length < 32)
    (backlog : s.ports.southBacklog = []) :
    ∃ e, requestRelease s id x = { s with
        ports := { s.ports with southQueue := s.ports.southQueue ++ [makeCell 0x21#8 (own s)
          (BitVec.ofNat 8 (0x10 + x.line / 256)) ([BitVec.ofNat 8 (nextOrderTag s), 3#8, 0#8] ++ octets2 x.line)] }
        engine := { s.engine with
          sessions := e, candidate := (nextOrderTag s + 1) % 256
          orders := s.engine.orders ++ [{
            tag := nextOrderTag s, order := accessReleaseOrder x.line (.session id), timer := some 40 }] } } ∧
      ∀ k, tabGet none e k = if k = id then some (releasing y) else sessionAt s k := by
  obtain ⟨e, moved, sessions⟩ := modSession_frame releasing hy
  refine ⟨e, ?_, sessions⟩
  have run : requestRelease s id x = requestOrder (modSession s id releasing) (accessReleaseOrder x.line (.session id)) :=
    rfl
  let v : State := { s with engine := { s.engine with sessions := e } }
  rw [run, moved]
  exact (requestOrder_joins (s := v) (by simp [accessReleaseOrder]) orders waiting south backlog).trans
    (orderPlaced_eq (relayOrderCell_accessRelease rfl _))

/-! ### Lock-out (R101) -/

section
variable {rs : List StepResult} (h : ∀ y ∈ rs, y.status = .notRun ∧ y.digits = [])
include h

/-- No step that was not run has a value. -/
theorem filter_notRun (p : StepResult → Prop) [DecidablePred p] (hp : ∀ r, p r → r.status = .value) :
    rs.filter (fun r => decide (p r)) = [] :=
  List.filter_eq_nil_iff.2 fun y hy e => by
    have valued := hp y (of_decide_eq_true e)
    rw [(h y hy).1] at valued
    exact absurd valued nofun

theorem allFvValued_notRun : allFvValued rs = false := by
  refine decide_eq_false fun ⟨any, all⟩ => ?_
  obtain ⟨y, hy⟩ := List.exists_mem_of_ne_nil _ any
  have valued := of_decide_eq_true (List.all_eq_true.1 all y hy)
  rw [(h y (List.mem_filter.1 hy).1).1] at valued
  exact absurd valued nofun

/-- Steps that were not run judge no class, nor does a settling verdict that is none (R144 to R149). -/
theorem judge_notRun (p : Profile) (c : FaultClass) : judge p rs .notJudged c = .notJudged := by
  have resist (l : Leg) : resistances rs l = [] :=
    List.map_eq_nil_iff.2 (filter_notRun h _ fun _ hr => hr.2.1)
  have fv : rs.filter (fun r => r.kind = .fv ∧ r.status = .value) = [] := filter_notRun h _ fun _ hr => hr.2
  have cap : rs.filter (fun r => r.kind = .cap ∧ r.status = .value ∧ r.leg = some .tipRing ∧ r.negative = false) = [] :=
    filter_notRun h _ fun _ hr => hr.2.1
  have foreign : rs.any (fun r => r.kind = .res ∧ r.status = .foreign) = false :=
    List.any_eq_false.2 fun y hy e => by
      have found := (of_decide_eq_true e).2
      rw [(h y hy).1] at found
      exact absurd found nofun
  have digits : rs.flatMap (·.digits) = [] := List.flatMap_eq_nil_iff.2 fun y hy => (h y hy).2
  have none := allFvValued_notRun h
  cases c with
  | tipGround => simp only [judge, resist]; rfl
  | ringGround => simp only [judge, resist]; rfl
  | short => simp only [judge, resist]; rfl
  | lowInsulation => simp only [judge, resist]; rfl
  | foreignDc => simp only [judge, judgeForeignDc, fv, foreign, none]; rfl
  | foreignAc => simp only [judge, judgeForeignAc, fv, none]; rfl
  | openLoop => simp only [judge, cap]; rfl
  | dialFault => simp only [judge, judgeDial, digits]; rfl
  | _ => rfl

end

theorem classify_notRun {r : ResultRecord} (h : ∀ y ∈ r.results, y.status = .notRun ∧ y.digits = []) :
    classify s r .notJudged = (s, { r with failed := [], actions := [] }) := by
  have verdict : recordVerdict r .notJudged = .notJudged := ite_self _
  simp only [classify, verdict, judge_notRun h]
  rfl

theorem slotAt_withResult_other {n k : Nat} {r : ResultRecord} {rs : List Recipient} (hk : k ≠ n) :
    slotAt (withResult s n r rs) k = slotAt s k := by
  simp only [slotAt, withResult, tabGet_tabPut, hk, if_false]

/-- A demand session whose steps were not run: its record goes to its slot as it stands (R144, R205). -/
theorem handRecord_notRun {id n : Nat} {x : Session} {o : EndOutcome} (hc : x.cls = .demand)
    (hv : x.verdict = .notJudged) (hs : x.slot = some n) (hq : x.requesters ≠ []) (ho : o ≠ .complete)
    (hr : ∀ y ∈ x.results, y.status = .notRun ∧ y.digits = []) :
    handRecord s id x o =
      withResult s n { sessionRecord s id x o with failed := [], actions := [] } (recipients x.requesters) := by
  have judged : classify s (sessionRecord s id x o) x.verdict =
      (s, { sessionRecord s id x o with failed := [], actions := [] }) := by
    rw [hv]
    exact classify_notRun hr
  have some : recipients x.requesters ≠ [] := fun h => hq (List.map_eq_nil_iff.1 h)
  simp only [handRecord, judged, hc, ho, if_false, hs, fillRecord, fillSlot, some]
  rfl

/-- A session with an outcome ends: its record is handed over (R80, R98). -/
theorem finishSession_ended {id : Nat} {x : Session} {o : EndOutcome} {m : Mark} {synth : Bool} {ret : Returning}
    (hx : sessionAt s id = some x) (ho : x.outcome = some o) : finishSession s id m synth ret =
      examineLater (handRecord (setMark (putSession s id none) x.line m synth) id x o) := by
  simp only [finishSession, hx, ho]

/-- A marked line is LOCKED_OUT, no URGENT cell waiting: BLOCKED joins (R38, R101). -/
theorem lockLine_frame {len : Nat} (hm : markOf s len ≠ .free) (hu : s.ports.urgent = [])
    (hb : s.ports.urgentBacklog = []) : ∃ l m, lockLine s len = { s with
      ports := { s.ports with urgent := [testBlockCell (own s) len true] }
      tracker := { s.tracker with lines := l }, arbiter := { s.arbiter with marks := m } } ∧
    (∀ k, tabGet lineZero l k = if k = len then { lineOf s len with blocked := true } else lineOf s k) ∧
    ∀ k, tabGet Mark.free m k = if k = len then .lockedOut else markOf s k := by
  have marked : setMark s len .lockedOut false = writeMark s len .lockedOut := by
    rw [setMark, if_neg fun h => hm h.1, if_neg fun h => absurd h.2 nofun]
  have line (k : Nat) := lineOf_modLine (s := writeMark s len .lockedOut) len k (fun l => { l with blocked := true })
  refine ⟨_, _, (congrArg (offerTestBlock · len true) marked).trans (offerTestBlock_alone len true hu hb),
    fun k => (line k).trans ?_, fun k => markOf_writeMark s len k .lockedOut⟩
  rw [lineOf_writeMark, lineOf_writeMark, if_pos rfl]
  by_cases hk : k = len
  · rw [if_pos hk, if_pos hk]
  · rw [if_neg hk, if_neg hk, if_neg hk]

/-- A LOCKED_OUT line's mark is written again at its session's end, nothing being offered. -/
theorem setMark_lockedOut {len : Nat} (hm : markOf s len = .lockedOut) : ∃ l m, setMark s len .lockedOut false = { s with
      tracker := { s.tracker with lines := l }, arbiter := { s.arbiter with marks := m } } ∧
    (∀ k, tabGet lineZero l k = if k = len then { lineOf s len with blocked := true } else lineOf s k) ∧
    ∀ k, tabGet Mark.free m k = if k = len then .lockedOut else markOf s k := by
  refine ⟨_, _, ?_, fun k => lineOf_writeMark s len k .lockedOut, fun k => markOf_writeMark s len k .lockedOut⟩
  rw [setMark, if_neg fun h => by rw [hm] at h; exact absurd h.1 nofun, if_neg fun h => absurd h.2 nofun]
  rfl

/-- `t` comes of `s` by the end of session `id` under lock-out, its record `r` going to slot `n` (R101). -/
structure LockedOut (s t : State) (id n : Nat) (x : Session) (r : ResultRecord) : Prop where
  gone : sessionAt t id = none
  sessions : ∀ k, k ≠ id → sessionAt t k = sessionAt s k
  mark : markOf t x.line = .lockedOut
  line : lineOf t x.line = { lineOf s x.line with blocked := true }
  others : ∀ k, k ≠ x.line → markOf t k = markOf s k ∧ lineOf t k = lineOf s k
  slot : slotAt t n = .filled r (recipients x.requesters) 0
  slots : ∀ k, k ≠ n → slotAt t k = slotAt s k
  hands : Hands 1 s t
  frame : t = { s with
    ports := { s.ports with urgent := [testBlockCell (own s) x.line true] }
    tracker := { s.tracker with lines := t.tracker.lines }
    arbiter := { s.arbiter with marks := t.arbiter.marks }
    engine := { s.engine with sessions := t.engine.sessions }
    interp := { s.interp with slots := t.interp.slots, fillingOrder := s.interp.fillingOrder ++ [n] }
    agenda := t.agenda }

/-- The session's part of lock-out, before its bus's. -/
def lockedSession (s : State) (id : Nat) (x : Session) : State :=
  finishSession (modSession (lockLine s x.line) id (fun x =>
    { x with outcome := some (x.outcome.getD .accessFail), held := none })) id .lockedOut false .failed

theorem lockOut_eq {id b : Nat} {x : Session} (hb : x.bus = some b) :
    lockOut s id x = releaseFailed (lockedSession s id x) b (lineShelf x.line) (.access x.line) := by
  simp only [lockOut, hb]
  rfl

theorem lockedOut_lockedSession {id n : Nat} {x : Session} (hx : sessionAt s id = some x) (hc : x.cls = .demand)
    (ho : x.outcome = none) (hv : x.verdict = .notJudged) (hr : ∀ y ∈ x.results, y.status = .notRun ∧ y.digits = [])
    (hs : x.slot = some n) (hq : x.requesters ≠ []) (hm : markOf s x.line ≠ .free) (hu : s.ports.urgent = [])
    (hb : s.ports.urgentBacklog = []) : ∃ r, LockedOut s (lockedSession s id x) id n x r ∧
      r.outcome = .accessFail ∧ r.line = x.line ∧ r.session = some id ∧ r.failed = [] := by
  obtain ⟨l, m, locked, lines, marks⟩ := lockLine_frame hm hu hb
  let f : Session → Session := fun x => { x with outcome := some (x.outcome.getD .accessFail), held := none }
  obtain ⟨e, named, sessions⟩ := modSession_frame (s := lockLine s x.line) f
    (by rw [locked]; exact hx : sessionAt (lockLine s x.line) id = some x)
  rw [locked] at named sessions
  let v : State := { s with
    ports := { s.ports with urgent := [testBlockCell (own s) x.line true] }
    tracker := { s.tracker with lines := l }, arbiter := { s.arbiter with marks := m }
    engine := { s.engine with sessions := e } }
  have ended : sessionAt v id = some (f x) := (sessions id).trans (if_pos rfl)
  obtain ⟨l', m', again, lines', marks'⟩ := setMark_lockedOut (s := putSession v id none) (len := x.line)
    ((marks x.line).trans (if_pos rfl))
  let w : State := { putSession v id none with
    tracker := { s.tracker with lines := l' }, arbiter := { s.arbiter with marks := m' } }
  have record := handRecord_notRun (s := w) (id := id) (x := f x) (n := n) (o := .accessFail) hc hv hs hq nofun hr
  have outcome : (f x).outcome = some .accessFail := by
    show some (x.outcome.getD .accessFail) = _
    rw [ho]; rfl
  have run : lockedSession s id x = examineLater (handRecord w id (f x) .accessFail) := by
    have start : lockedSession s id x = finishSession v id .lockedOut false .failed := by
      rw [lockedSession, locked, named]
    rw [start, finishSession_ended ended outcome]
    exact congrArg (fun v => examineLater (handRecord v id (f x) .accessFail)) again
  rw [run, record]
  have line (k : Nat) : tabGet lineZero l' k =
      if k = x.line then { lineOf s x.line with blocked := true } else lineOf s k := by
    rw [lines' k]
    by_cases hk : k = x.line
    · rw [if_pos hk, if_pos hk]
      show { tabGet lineZero l x.line with blocked := true } = _
      rw [lines, if_pos rfl]
    · rw [if_neg hk, if_neg hk]
      exact (lines k).trans (if_neg hk)
  have mark (k : Nat) : tabGet Mark.free m' k = if k = x.line then .lockedOut else markOf s k := by
    rw [marks' k]
    by_cases hk : k = x.line
    · rw [if_pos hk, if_pos hk]
    · rw [if_neg hk, if_neg hk]
      exact (marks k).trans (if_neg hk)
  exact ⟨_, {
    gone := (sessionAt_putSession (s := v) id id none).trans (if_pos rfl)
    sessions := fun k hk => (sessionAt_putSession (s := v) id k none).trans
      ((if_neg hk).trans ((sessions k).trans (if_neg hk)))
    mark := (mark x.line).trans (if_pos rfl)
    line := (line x.line).trans (if_pos rfl)
    others := fun k hk => ⟨(mark k).trans (if_neg hk), (line k).trans (if_neg hk)⟩
    slot := slotAt_withResult ..
    slots := fun k hk => slotAt_withResult_other (s := w) hk
    hands := ⟨1, Nat.le_refl 1, rfl⟩
    frame := rfl }, rfl, rfl, rfl, rfl⟩

/-! ### The orders that run out, by their owner (R91) -/

section
variable {before after : List OutstandingOrder} {e : OutstandingOrder} (h : Runs s before after e)
include h

/-- A release retry's order: the timer restarts below ten re-sends (R103). -/
theorem Runs.exec_retry {b : Nat} {r : ReleaseRetry} (ow : e.order.owner = .retry b) (hr : (busAt s b).retry = some r) :
    Machine.exec (.orderTimeout (BitVec.ofNat 8 e.tag)) s = .next (modBus (withOrders s (before ++ after)) b (fun x =>
      { x with retry := some { r with timer := if r.resends < 10 then some 1000 else none } })) := by
  refine h.exec_quiet ?_ rfl
  simp only [orderTimedOut, ow, retryTimedOut]
  have held : (tabGet busZero (withOrders s (before ++ after)).engine.buses b).retry = some r := hr
  refine congrArg (fun tab => onEngine (withOrders s (before ++ after)) (fun e => { e with buses := tab }))
    (tabMod_congr ?_)
  rw [held]
  rfl

/-- A fresh shelf's RELEASE ALL: the shelf is UNKNOWN (R115). -/
theorem Runs.exec_freshRelease {n : Nat} (ow : e.order.owner = .freshRelease n) :
    Machine.exec (.orderTimeout (BitVec.ofNat 8 e.tag)) s =
      .next (modShelf (withOrders s (before ++ after)) n (fun x => { x with released := false })) := by
  refine h.exec_quiet ?_ rfl
  simp only [orderTimedOut, ow]
  exact setReleased_false ..

/-- A riser clean-up's order: its bus is STUCK (R101, R102). -/
theorem Runs.exec_cleanUp {n b : Nat} {tk : Ticket} (hq : NoRequests s) (hn : NoNotices s) (hs : e.order.shelf = n)
    (hf : findTicket s (.shelf n) .accessFail = some tk) (ho : tk.state = .opened) (ow : e.order.owner = .cleanUp b) :
    ∃ t, Machine.exec (.orderTimeout (BitVec.ofNat 8 e.tag)) s = .next { t with agenda := s.agenda } ∧
      Stuck (withOrders s (before ++ after)) t b n
        (if e.order.kind = .accessRelease then .access e.order.line else .riser n) tk := by
  have stuck := stuck_releaseFailed (s := withOrders s (before ++ after)) (b := b) (n := n)
    (p := if e.order.kind = .accessRelease then .access e.order.line else .riser n) hn (unreserved_of_noRequests hq) hf ho
  refine ⟨_, h.exec ?_ stuck.hands (by omega) (.inl ?_), stuck⟩
  · simp only [orderTimedOut, ow, cleanUpTimedOut, hs]
  · rw [stuck.frame]
    exact hq

end

/-- The order entry of session `id`, `x`, which holds bus `b` for a line of shelf `n`. -/
structure SessionRuns (s : State) (before after : List OutstandingOrder) (e : OutstandingOrder) (id : Nat) (x : Session)
    (b n : Nat) : Prop extends Runs s before after e where
  owner : e.order.owner = .session id
  shelf : e.order.shelf = n
  session : sessionAt s id = some x
  bus : x.bus = some b
  line : x.line / 256 = n

section
variable {before after : List OutstandingOrder} {e : OutstandingOrder} {id b n : Nat} {x : Session}
  (h : SessionRuns s before after e id x b n)
include h

theorem SessionRuns.timedOut : orderTimedOut (withOrders s (before ++ after)) e.order =
    sessionTimedOut (withOrders s (before ++ after)) id x e.order := by
  have session : sessionAt (withOrders s (before ++ after)) id = some x := h.session
  simp only [orderTimedOut, h.owner, session]

theorem SessionRuns.room (orders : s.engine.orders.length < 16) : (before ++ after).length < 16 := by
  have all : (before ++ e :: after).length < 16 := h.orders ▸ orders
  rw [List.length_append, List.length_cons] at all
  rw [List.length_append]
  omega

/-- A RISER OPERATE below two retries: the session ends, its bus passing to the riser clean-up (R83, R100). -/
theorem SessionRuns.exec_riserOperate (ret : CanReturn (withOrders s (before ++ after)) id x)
    (hs : s.arbiter.service ≠ .inService) (kind : e.order.kind = .riserOperate) (retries : x.retries < 2)
    (orders : s.engine.orders.length < 16) (south : s.ports.southQueue.length < 32)
    (backlog : s.ports.southBacklog = []) (waiting : s.engine.waiting = [])
    (own : ∀ y ∈ before ++ after, y.order.owner ≠ .session id) :
    ∃ t, exec (.orderTimeout (BitVec.ofNat 8 e.tag)) s = .next { t with agenda := s.agenda } ∧
      CleanedUp (withOrders s (before ++ after)) t id x b (entryOf x .failed)
        (freedReports (withOrders s (before ++ after)) x.line true) := by
  have ended := ret.cleanedUp h.bus true .failed own waiting (h.room orders) south backlog
  refine ⟨_, h.exec (h.timedOut.trans ?_) ended.hands (by omega) (.inr ?_), ended⟩
  · simp only [sessionTimedOut, kind, connectFailed, retries, if_true]
  · rw [ended.frame]
    exact hs

/-- A RISER RELEASE: the session ends, and its bus is STUCK (R83, R102). -/
theorem SessionRuns.exec_riserRelease {tk : Ticket} (ret : CanReturn (withOrders s (before ++ after)) id x)
    (hs : s.arbiter.service ≠ .inService) (hn : NoNotices s) (hf : findTicket s (.shelf n) .accessFail = some tk)
    (ho : tk.state = .opened) (kind : e.order.kind = .riserRelease) (bus : e.order.bus = b) :
    ∃ v t, exec (.orderTimeout (BitVec.ofNat 8 e.tag)) s = .next { t with agenda := s.agenda } ∧
      GivenBack (withOrders s (before ++ after)) v id x (entryOf x .failed)
        (freedReports (withOrders s (before ++ after)) x.line true) ∧ Stuck v t b n (.riser n) tk := by
  have ended := ret.givenBack true .failed
  have run : orderTimedOut (withOrders s (before ++ after)) e.order =
      releaseFailed (finishSession (withOrders s (before ++ after)) id .free true .failed) b n (.riser n) := by
    rw [h.timedOut]
    simp only [sessionTimedOut, kind, riserReleaseFailed, bus, h.shelf]
  generalize finishSession (withOrders s (before ++ after)) id .free true .failed = v at ended run
  have frame := ended.frame
  have stuck := stuck_releaseFailed (s := v) (b := b) (n := n) (p := .riser n) (tk := tk) (by rw [frame]; exact hn)
    (by rw [frame]; intro y hy; rw [List.mem_singleton.1 hy]; rfl) (by rw [frame]; exact hf) ho
  refine ⟨v, _, h.exec run (ended.hands.trans stuck.hands) (by omega) (.inr ?_), ended, stuck⟩
  rw [stuck.frame, frame]
  exact hs

/-- An ACCESS OPERATE: the session asks for its ACCESS RELEASE, the third failure counting on the shelf's ticket
(R98, R100). -/
theorem SessionRuns.exec_accessOperate {tk : Ticket} (hf : findTicket s (.shelf n) .accessFail = some tk)
    (ho : tk.state = .opened) (kind : e.order.kind = .accessOperate) (orders : s.engine.orders.length < 16)
    (south : s.ports.southQueue.length < 32) (backlog : s.ports.southBacklog = []) (waiting : s.engine.waiting = []) :
    let g := withOrders s (before ++ after)
    ∃ e', exec (.orderTimeout (BitVec.ofNat 8 e.tag)) s = .next { g with
        ports := { s.ports with southQueue := s.ports.southQueue ++ [makeCell 0x21#8 (own s)
          (BitVec.ofNat 8 (0x10 + n)) ([BitVec.ofNat 8 (nextOrderTag g), 3#8, 0#8] ++ octets2 x.line)] }
        engine := { g.engine with
          sessions := e', candidate := (nextOrderTag g + 1) % 256
          orders := before ++ after ++ [{
            tag := nextOrderTag g, order := accessReleaseOrder x.line (.session id), timer := some 40 }] }
        tickets := if x.retries < 2 then s.tickets else failureSeen s tk } ∧
      (∀ k, tabGet none e' k = if k = id then some { x with
          state := .releasing, accessReleased := false
          outcome := if x.retries < 2 then x.outcome else some .accessFail } else sessionAt s k) := by
  intro g
  have session : sessionAt g id = some x := h.session
  have timedOut : orderTimedOut g e.order = requestRelease (connectFailed g id x) id x := by
    rw [h.timedOut]
    simp only [sessionTimedOut, kind]
    rfl
  rw [← h.line]
  by_cases retries : x.retries < 2
  · have failed : connectFailed g id x = g := if_pos retries
    obtain ⟨e', run, sessions⟩ := requestRelease_joins (s := g) (x := x) session (h.room orders) waiting south backlog
    simp only [retries, if_true]
    exact ⟨e', h.exec_quiet (timedOut.trans ((congrArg (requestRelease · id x) failed).trans run)) rfl, sessions⟩
  · obtain ⟨e₁, named, sessions₁⟩ := modSession_frame (fun x => { x with outcome := some EndOutcome.accessFail }) session
    let v : State := { g with engine := { g.engine with sessions := e₁ }, tickets := failureSeen s tk }
    have failed : connectFailed g id x = v := by
      rw [connectFailed, if_neg retries, named]
      exact equipmentFail_opened (tk := tk) (by rw [lineShelf, h.line]; exact hf) ho rfl none
    obtain ⟨e', run, sessions⟩ := requestRelease_joins (s := v) (id := id) (x := x)
      ((sessions₁ id).trans (if_pos rfl)) (h.room orders) waiting south backlog
    simp only [retries, if_false]
    refine ⟨e', h.exec_quiet (timedOut.trans ((congrArg (requestRelease · id x) failed).trans run)) rfl, fun k => ?_⟩
    rw [sessions k]
    by_cases hk : k = id
    · rw [if_pos hk, if_pos hk]; rfl
    · rw [if_neg hk, if_neg hk]
      exact (sessions₁ k).trans (if_neg hk)

/-- An ACCESS RELEASE: lock-out (R101). -/
theorem SessionRuns.exec_accessRelease {slot : Nat} {tk : Ticket} (hq : NoRequests s) (hn : NoNotices s)
    (hf : findTicket s (.shelf n) .accessFail = some tk) (ho : tk.state = .opened)
    (kind : e.order.kind = .accessRelease) (hc : x.cls = .demand) (out : x.outcome = none) (hv : x.verdict = .notJudged)
    (hr : ∀ y ∈ x.results, y.status = .notRun ∧ y.digits = []) (hslot : x.slot = some slot) (asked : x.requesters ≠ [])
    (hm : markOf s x.line ≠ .free) (hu : s.ports.urgent = []) (hb : s.ports.urgentBacklog = []) :
    ∃ v t r, exec (.orderTimeout (BitVec.ofNat 8 e.tag)) s = .next { t with agenda := s.agenda } ∧
      LockedOut (withOrders s (before ++ after)) v id slot x r ∧ Stuck v t b n (.access x.line) tk ∧
      r.outcome = .accessFail ∧ r.line = x.line ∧ r.session = some id ∧ r.failed = [] := by
  obtain ⟨r, locked, record⟩ := lockedOut_lockedSession (s := withOrders s (before ++ after)) h.session hc out hv hr hslot
    asked hm hu hb
  have run : orderTimedOut (withOrders s (before ++ after)) e.order =
      releaseFailed (lockedSession (withOrders s (before ++ after)) id x) b n (.access x.line) := by
    rw [h.timedOut]
    simp only [sessionTimedOut, kind]
    rw [lockOut_eq h.bus, lineShelf, h.line]
  generalize lockedSession (withOrders s (before ++ after)) id x = v at locked run
  have frame := locked.frame
  have stuck := stuck_releaseFailed (s := v) (b := b) (n := n) (p := .access x.line) (tk := tk) (by rw [frame]; exact hn)
    (unreserved_of_noRequests (by rw [frame]; exact hq)) (by rw [frame]; exact hf) ho
  refine ⟨v, _, r, h.exec run (locked.hands.trans stuck.hands) (by omega) (.inl ?_), locked, stuck, record⟩
  rw [stuck.frame, frame]
  exact hq

end

end Sys2Proof.Machine
end

section
/-! PROOFS. Orders sent and expired: O56. -/

namespace Sys2Proof.Machine
open Sys2Proof

variable {s t u : State} {i : Instr}

/-! ### The steps of O56 -/

theorem exec_orderWaitListEntry (ha : Awake s) (run : takeWaiting s = t) (agenda : t.agenda = s.agenda) :
    exec .orderWaitListEntry s = .next t :=
  live_of_effect ha.1 run (agenda.trans ha.2)

theorem exec_releaseRetryTimerExpiry {b : Fin 4} {r : ReleaseRetry} (ha : Awake s) (hr : (busAt s b).retry = some r)
    (ht : r.timer.isSome = true) (run : retryExpired s b r = t) (agenda : t.agenda = s.agenda) :
    exec (.releaseRetryTimerExpiry b) s = .next t :=
  live_of_effect (f := fun s => match (busAt s b).retry with
    | some r => if r.timer.isSome then retryExpired s b r else s
    | none => s) ha.1 (by simp only [hr, ht, if_true, run]) (agenda.trans ha.2)

/-- A demand session's request as it rejoins the queue (R83). -/
def rejoined (x : Session) (busy : Bool) (retries : Nat) : Entry :=
  { line := x.line, program := x.program, cls := .demand, requesters := x.requesters, returned := true
    waitMs := x.waitMs, seenBusy := busy, retries := retries, reservation := none, slot := x.slot }

theorem entryOf_abandoned {x : Session} (h : x.cls = .demand) : entryOf x .abandoned = rejoined x true x.retries := by
  rw [rejoined, ← h]; rfl

theorem entryOf_failed {x : Session} (h : x.cls = .demand) : entryOf x .failed = rejoined x false (x.retries + 1) := by
  rw [rejoined, ← h]; rfl

/-- The reports a line that is OFF_HOOK, RINGING or UNKNOWN offers as it becomes FREE (R41). -/
theorem freedReports_busy {len : Nat} (h : (lineOf s len).hook ∈ [Hook.offHook, .ringing, .unknown]) :
    freedReports s len true = testBlockCell (own s) len false ::
      (if (lineOf s len).hook = .offHook then [synthReportCell (own s) len .offHook] else []) := by
  simp only [List.mem_cons, List.not_mem_nil, or_false] at h
  rcases h with h | h | h <;> simp [freedReports, synthesisedReport, h]

theorem freedReports_idle {len : Nat} (h : (lineOf s len).hook = .idle) (hl : (lineOf s len).lastForwarded = .idle) :
    freedReports s len true = [testBlockCell (own s) len false] := by
  simp [freedReports, synthesisedReport, h, hl]

/-- Settles O56: an order that leaves the wait list by its kind and hook test, one that runs out by its owner. -/
theorem ordersSentAndExpired : Obligations.OrdersSentAndExpired := by
  unfold Obligations.OrdersSentAndExpired
  intro s o rest before after e n b r ha hn sent room returned returning unblocked
  refine ⟨?_, ?_, ?_, ?_, ?_⟩
  · rintro hw rfl ⟨orders, backlog, south⟩ code carried kind
    have plain : o.kind ∈ [OrderKind.riserOperate, .accessRelease, .riserRelease] := by
      simp only [List.mem_cons, List.not_mem_nil, or_false, Prod.mk.injEq] at kind ⊢
      exact kind.imp And.left (Or.imp And.left And.left)
    have taken := takeWaiting_places hw orders (fun h => by rw [h] at plain; exact absurd plain (by decide))
    rw [placeOrder_plain (s := unwaited s rest) o orders south backlog plain,
      orderPlaced_eq (relayOrderCell_plain kind)] at taken
    exact ⟨_, _, exec_orderWaitListEntry ha taken rfl, rfl, rfl⟩
  · rintro id x hw rfl hx rfl ⟨orders, backlog, south⟩
    have taken := takeWaiting_tries hw orders rfl rfl
    have session : sessionAt (unwaited s rest) id = some x := hx
    refine ⟨fun idle => ?_, fun busy ret hb none own => ?_⟩
    · obtain ⟨l, m, e', run, lines, marks, sessions⟩ :=
        tryAccess_joins session (decide_eq_true idle) orders south backlog
      rw [orderPlaced_eq (relayOrderCell_access rfl _)] at run
      exact ⟨_, _, exec_orderWaitListEntry ha (taken.trans run) rfl, (sessions id).trans (if_pos rfl),
        fun k hk => (sessions k).trans (if_neg hk), (lines x.line).trans (if_pos rfl), (marks x.line).trans (if_pos rfl),
        fun k hk => ⟨(marks k).trans (if_neg hk), (lines k).trans (if_neg hk)⟩, rfl, rfl⟩
    · subst none
      obtain ⟨quiet, service, demand, outcome, marked, urgent, urgentBacklog⟩ := ret
      have can : CanReturn (unwaited s []) id x := ⟨hx, demand, outcome, marked, quiet, urgent, urgentBacklog⟩
      have abandoned := can.cleanedUp hb true .abandoned own rfl orders south backlog
      have fails : hookTest (unwaited s []) x = false := by
        refine decide_eq_false fun h => ?_
        have hook : (lineOf s x.line).hook = .idle ∨ (lineOf s x.line).hook = .parked := h.imp_right And.left
        rcases hook with h | h <;> rw [h] at busy <;> exact absurd busy (by decide)
      have run : takeWaiting s = dropReserved (unwaited s []) id true .abandoned := by
        rw [taken, tryAccess]
        simp only [session, fails, Bool.false_eq_true, if_false]
      rw [freedReports_busy (s := unwaited s []) busy, entryOf_abandoned demand] at abandoned
      generalize dropReserved (unwaited s []) id true .abandoned = t at abandoned run
      obtain ⟨gone, sessions, mark, line, others, bus, buses, hands, frame⟩ := abandoned
      have step := live_of_hands (f := takeWaiting) ha run hands (by omega) (.inr (by rw [frame]; exact service))
      generalize t.tracker.lines = l, t.arbiter.marks = m, t.engine.buses = y, t.engine.sessions = e, t.agenda = a at frame
      subst frame
      exact ⟨_, _, step, ⟨gone, sessions, mark, line, others, rfl, rfl⟩, bus, buses, rfl, rfl⟩
  · intro h
    exact exec_orderWaitListEntry ha (takeWaiting_idle h) rfl
  · intro horders other timer tag gone
    have h : Runs s before after e := ⟨ha, horders, other, timer, tag⟩
    refine ⟨fun ow => h.exec_freshRelease ow, fun ow hr => h.exec_retry ow hr, ?_⟩
    intro hq hnn shelf tk found opened seen counted stuck
    refine ⟨fun ow => ?_, fun id x ow hx hb hl => ?_⟩
    · obtain ⟨t, step, bus, buses, riser, risers, -, frame⟩ := h.exec_cleanUp hq hnn shelf found opened ow
      generalize t.engine.buses = y, t.engine.risers = z, t.agenda = a at frame
      subst frame
      exact ⟨_, step, ⟨bus, buses, riser, risers⟩, rfl⟩
    have runs : SessionRuns s before after e id x b n := ⟨h, ow, shelf, hx, hb, hl⟩
    refine ⟨?_, ?_, ?_⟩
    · rintro ⟨-, service, demand, outcome, marked, urgent, urgentBacklog⟩ idle forwarded
      have can : CanReturn (withOrders s (before ++ after)) id x :=
        ⟨hx, demand, outcome, marked, hq, urgent, urgentBacklog⟩
      have reports : freedReports (withOrders s (before ++ after)) x.line true = [unblocked x] :=
        freedReports_idle (s := withOrders s (before ++ after)) idle forwarded
      refine ⟨?_, ?_⟩
      · rintro kind retries ⟨orders, backlog, south⟩ waiting own otag
        obtain ⟨t, step, ended⟩ :=
          runs.exec_riserOperate can service kind retries orders south backlog waiting own
        rw [reports, entryOf_failed demand] at ended
        obtain ⟨gone, sessions, mark, line, others, bus, buses, -, frame⟩ := ended
        generalize t.tracker.lines = l, t.arbiter.marks = m, t.engine.buses = y, t.engine.sessions = e', t.agenda = a
          at frame
        subst frame hl
        exact ⟨_, step, ⟨gone, sessions, mark, line, others, rfl, rfl⟩, bus, buses, rfl⟩
      · intro kind bus
        obtain ⟨v, t, step, ended, sticks⟩ := runs.exec_riserRelease can service hnn found opened kind bus
        rw [reports, entryOf_failed demand] at ended
        obtain ⟨gone, sessions, mark, line, others, -, frame⟩ := ended
        generalize v.tracker.lines = l, v.arbiter.marks = m, v.engine.sessions = e', v.agenda = a at frame
        subst frame
        obtain ⟨bus, buses, riser, risers, -, frame⟩ := sticks
        generalize t.engine.buses = y, t.engine.risers = z, t.agenda = a' at frame
        subst frame
        exact ⟨_, step, ⟨gone, sessions, mark, line, others, rfl, rfl⟩, ⟨bus, buses, riser, risers⟩, rfl⟩
    · rintro kind ⟨orders, backlog, south⟩ waiting otag
      obtain ⟨e', step, sessions⟩ := runs.exec_accessOperate found opened kind orders south backlog waiting
      subst hl
      exact ⟨_, step, (sessions id).trans (if_pos rfl), fun k hk => (sessions k).trans (if_neg hk), rfl⟩
    · intro slot kind demand outcome verdict notRun hslot asked marked urgent urgentBacklog
      obtain ⟨v, t, q, step, ended, sticks, record⟩ := runs.exec_accessRelease hq hnn found opened kind demand outcome verdict
        notRun hslot asked marked urgent urgentBacklog
      obtain ⟨out, len, ses, failed⟩ := record
      obtain ⟨gone, sessions, mark, line, others, slot, slots, -, frame⟩ := ended
      generalize v.tracker.lines = l, v.arbiter.marks = m, v.engine.sessions = e', v.interp.slots = sl, v.agenda = a
        at frame
      subst frame
      obtain ⟨bus, buses, riser, risers, -, frame⟩ := sticks
      generalize t.engine.buses = y, t.engine.risers = z, t.agenda = a' at frame
      subst frame
      exact ⟨_, q, step, gone, sessions, mark, line, others, ⟨bus, buses, riser, risers⟩, slot, out, len, ses, failed,
        slots, rfl⟩
  · intro hr timer riser waiting ⟨orders, backlog, south⟩
    let v := modBus s b (fun x => { x with retry := some { r with timer := none, resends := r.resends + 1 } })
    have run : retryExpired s b r = orderPlaced v (riserReleaseOrder n b (.retry b)) := by
      have order : retryOrder b r.order = riserReleaseOrder n b (.retry b) := by rw [riser]; rfl
      rw [retryExpired, order]
      exact requestOrder_joins (s := v) (o := riserReleaseOrder n b (.retry b)) (by simp [riserReleaseOrder])
        orders waiting south backlog
    rw [orderPlaced_eq (relayOrderCell_riserRelease rfl _ _)] at run
    exact ⟨_, _, exec_releaseRetryTimerExpiry ha hr timer run rfl, rfl, rfl⟩

end Sys2Proof.Machine
end

section
/-! PROOFS. Samples counted lost, and the HEAD_DEGRADED ticket. -/

namespace Sys2Proof.Machine
open Sys2Proof

variable {s t u : State} {i : Instr}

/-! ### A ticket of no cable group changes alone (R152, R155, R158, R167) -/

/-- The change of a ticket that names no cable group is told to nobody, and tests no group. -/
theorem handChange_groupless {tk : Ticket} (quiet : NoNotices s) (h : wetGroup s tk = none) (st : NoticeState)
    (d : Membership) (base : TicketBase) : handChange s tk st d base = s := by
  have noticed : changeNoticed s tk st d = s := by
    simp only [changeNoticed, h]
    exact ticketNotice_none quiet tk st
  have tested : entryTested base s tk = s := by
    simp only [entryTested, entryAfter, h]
  simp only [handChange, noticed, tested, ite_self]

/-- The lowest slot of a range that no ticket holds. -/
theorem lowestFree_at {lo n k : Nat} (hl : lo ≤ k) (hk : k < lo + n) (free : ∀ u ∈ s.tickets.tickets, u.id ≠ k)
    (used : ∀ j, lo ≤ j → j < k → ∃ u ∈ s.tickets.tickets, u.id = j) : lowestFree s lo n none = some k := by
  have vacant : slotUsed s k = false := by simpa [slotUsed] using free
  have shut (j : Nat) (hj : lo ≤ j) (hjk : j < k) : slotUsed s j = true := by
    obtain ⟨u, hu, id⟩ := used j hj hjk
    exact List.any_eq_true.2 ⟨u, hu, decide_eq_true id⟩
  have found : (List.range n).find? ((fun k => decide (slotUsed s k = false ∧ (none : Option Nat) ≠ some k)) ∘ (· + lo)) =
      some (k - lo) := by
    refine List.find?_range_eq_some.2 ⟨?_, List.mem_range.2 (by omega), fun j hj => ?_⟩
    · simp [Nat.sub_add_cancel hl, vacant]
    · simp [shut (j + lo) (by omega) (by omega)]
  rw [lowestFree, List.find?_map, found, Option.map_some, Nat.sub_add_cancel hl]

section
variable {u : Subject} {c : FaultClass} (groupless : ∀ (s : State) (tk : Ticket), tk.subject = u → wetGroup s tk = none)
  (equipment : isLineSubject u = false) (quiet : NoNotices s) (v : Option Int)
include groupless equipment quiet

/-- An equipment failure without a ticket, the first sixteen slots beyond the general ones having room (R152, R158). -/
theorem equipmentFail_new {k : Nat} (none : findTicket s u c = none) (hl : 240 ≤ k) (hk : k < 256)
    (free : ∀ u ∈ s.tickets.tickets, u.id ≠ k)
    (used : ∀ j, 240 ≤ j → j < k → ∃ u ∈ s.tickets.tickets, u.id = j) :
    equipmentFail s u c v = addTicket s (newTicket s k u c .equipment v) := by
  have want : failureWant u c .equipment = .equipment := by
    simp only [failureWant, equipment, Bool.false_eq_true, if_false]
  have lowest : lowestFree s Config.generalSlots (Config.ticketSlots - Config.generalSlots) .none = some k :=
    lowestFree_at hl hk free used
  have slot : slotFor s .equipment .none .none .none = some (k, .none) := by
    unfold slotFor
    dsimp only
    rw [lowest]
    rfl
  simp only [equipmentFail, failTicket, none, createTicket, want, slot]
  exact handChange_groupless (s := addTicket s (newTicket s k u c .equipment v)) quiet (groupless _ _ rfl) _ _ _

omit equipment in
/-- An equipment failure with a ticket that is not SUSPECT: seen again, a CLEARED one being reopened (R155). -/
theorem equipmentFail_again {tk : Ticket} (found : findTicket s u c = some tk) (hs : tk.state ≠ .suspect) :
    equipmentFail s u c v = modTicket s tk.id (fun _ => if tk.state = .cleared then
      { updateTicket s v tk with state := .opened, recurrences := count16 tk.recurrences } else updateTicket s v tk) := by
  have subject : (updateTicket s v tk).subject = u := (findTicket_spec found).2.1
  simp only [equipmentFail, failTicket, found]
  cases st : tk.state with
  | suspect => exact absurd st hs
  | opened => rfl
  | dispatched => rfl
  | cleared =>
    let new : Ticket := { updateTicket s v tk with state := .opened, recurrences := count16 tk.recurrences }
    rw [if_pos rfl]
    exact handChange_groupless (s := modTicket s tk.id (fun _ => new)) (tk := new) quiet (groupless _ _ subject)
      .opened .joins none

end

/-! ### Samples counted lost by a head (R139) -/

/-- The head's running count once `lost` samples more are counted. -/
def runningWith (s : State) (h lost : Nat) : Nat := min ((checkerAt s h).running + lost) 4294967295

/-- The checker of head `h` with `lost` samples more counted, and with DEGRADED as given. -/
def checkedLost (s : State) (h lost : Nat) (degraded : Bool) : State :=
  putChecker s h { checkerAt s h with
    running := runningWith s h lost
    exceeded := (checkerAt s h).exceeded ||
      decide (float8 (headAt s h).target < runningWith s h lost ∧ (headAt s h).mode = .hourly)
    degraded := degraded }

/-- The first count above the target, of those the losses run through. -/
def comparedCount (s : State) (h : Nat) : Int :=
  if (checkerAt s h).running ≤ float8 (headAt s h).target then float8 (headAt s h).target + 1
  else min ((checkerAt s h).running + 1) 4294967295

theorem countLost_zero (h : Nat) : countLost s h 0 = s := rfl

/-- A head's ticket is of no cable group. -/
theorem wetGroup_head (h : Nat) (s : State) (tk : Ticket) (hs : tk.subject = .head h) : wetGroup s tk = none := by
  simp only [wetGroup, hs]

/-- Losses within the target, or of a DEGRADED head, are counted alone. -/
theorem countLost_counts {h lost : Nat} (hl : 0 < lost)
    (hc : runningWith s h lost ≤ float8 (headAt s h).target ∨ (checkerAt s h).degraded = true) :
    countLost s h lost = checkedLost s h lost (checkerAt s h).degraded := by
  have run : min ((checkerAt s h).running + lost) Config.maxCount32 = runningWith s h lost := rfl
  simp only [countLost, run, if_neg (Nat.pos_iff_ne_zero.1 hl)]
  by_cases within : runningWith s h lost ≤ float8 (headAt s h).target
  · simp only [checkedLost, if_pos within, Nat.not_lt.2 within, false_and, decide_false, Bool.or_false]
  · have degraded := hc.resolve_left within
    simp only [checkedLost, if_neg within, degraded, if_true, Nat.lt_of_not_le within, true_and]

/-- A target first exceeded is a failure with the count compared. -/
theorem countLost_fails {h lost : Nat} (hl : 0 < lost) (above : float8 (headAt s h).target < runningWith s h lost)
    (hd : (checkerAt s h).degraded = false) : countLost s h lost =
      equipmentFail (checkedLost s h lost true) (.head h) .headDegraded (some (comparedCount s h)) := by
  have run : min ((checkerAt s h).running + lost) Config.maxCount32 = runningWith s h lost := rfl
  have compared : min (max ((checkerAt s h).running + 1 : Int) (float8 (headAt s h).target + 1))
      (Config.maxCount32 : Nat) = comparedCount s h := by
    have bound : float8 (headAt s h).target < 4294967295 := Nat.lt_of_lt_of_le above (Nat.min_le_right ..)
    simp only [comparedCount, Config.maxCount32]
    split <;> omega
  simp only [countLost, run, if_neg (Nat.pos_iff_ne_zero.1 hl), if_neg (Nat.not_le.2 above), hd, Bool.false_eq_true,
    if_false, checkedLost, above, true_and]
  exact congrArg (fun v => equipmentFail _ (.head h) .headDegraded (some v)) compared

/-- Its head without a ticket: one is made in the lowest free equipment slot (R158). -/
theorem countLost_makes {h lost k : Nat} (quiet : NoNotices s) (hl : 0 < lost)
    (above : float8 (headAt s h).target < runningWith s h lost) (hd : (checkerAt s h).degraded = false)
    (none : findTicket s (.head h) .headDegraded = none) (lo : 240 ≤ k) (hi : k < 256)
    (free : ∀ u ∈ s.tickets.tickets, u.id ≠ k) (used : ∀ j, 240 ≤ j → j < k → ∃ u ∈ s.tickets.tickets, u.id = j) :
    countLost s h lost = { checkedLost s h lost true with tickets := { s.tickets with tickets := s.tickets.tickets ++ [{
      id := k, subject := .head h, cls := .headDegraded, state := .opened, origin := .equipment
      opened := stampNow s, lastSeen := stampNow s, occurrences := 1, recurrences := 0, value := some (comparedCount s h)
      dispatch := .none, attached := .none, acknowledged := false }] } } :=
  (countLost_fails hl above hd).trans (equipmentFail_new (s := checkedLost s h lost true) (wetGroup_head h) rfl quiet
    (some (comparedCount s h)) none lo hi free used)

/-- Its head with a ticket that is not SUSPECT: it is seen again, a CLEARED one being reopened (R155). -/
theorem countLost_sees {h lost : Nat} {tk : Ticket} (quiet : NoNotices s) (hl : 0 < lost)
    (above : float8 (headAt s h).target < runningWith s h lost) (hd : (checkerAt s h).degraded = false)
    (found : findTicket s (.head h) .headDegraded = some tk) (hs : tk.state ≠ .suspect) :
    let seen : Ticket := { tk with
      lastSeen := stampNow s, occurrences := min (tk.occurrences + 1) 65535, value := some (comparedCount s h) }
    countLost s h lost = { checkedLost s h lost true with tickets := { s.tickets with
      tickets := s.tickets.tickets.map (fun u => if u.id = tk.id then (if tk.state = .cleared then
        { seen with state := .opened, recurrences := min (tk.recurrences + 1) 65535 } else seen) else u) } } := by
  intro seen
  have updated : updateTicket (checkedLost s h lost true) (some (comparedCount s h)) tk = seen := by
    obtain ⟨-, -, cls⟩ := findTicket_spec found
    have measured : isMeasured tk.cls = true := by rw [cls]; rfl
    simp only [updateTicket, measured, if_true]
    rfl
  rw [countLost_fails hl above hd, equipmentFail_again (s := checkedLost s h lost true) (wetGroup_head h) quiet _ found hs,
    updated]
  rfl

end Sys2Proof.Machine
end

section
/-! PROOFS. A sample taken into its window. -/

namespace Sys2Proof.Machine
open Sys2Proof

variable {s t u : State} {i : Instr}

/-! ### A sample's gap (R122) -/

theorem gapLoss_repeat {l : Nat} : gapLoss (some l) l = none := by
  have gap : (l + 65536 - l) % 65536 = 0 := by omega
  simp only [gapLoss, gap, if_true]

theorem gapLoss_next {l : Nat} (hl : l < 65536) : gapLoss (some l) ((l + 1) % 65536) = some 0 := by
  have gap : ((l + 1) % 65536 + 65536 - l) % 65536 = 1 := by omega
  simp only [gapLoss, gap]
  rfl

theorem gapLoss_gap {l seq : Nat} (h : 2 ≤ (seq + 65536 - l) % 65536) : gapLoss (some l) seq =
    some (if (seq + 65536 - l) % 65536 ≤ 1024 then (seq + 65536 - l) % 65536 - 1 else 1) := by
  simp only [gapLoss]
  rw [if_neg (by omega)]
  split <;> rfl

/-! ### Accumulation (R123, R124) -/

/-- The window `w` with a sample accumulated and `lost` more counted lost. -/
def sampled (s : State) (w : Window) (seq lost : Nat) (v i : Int) (flag : Bool) : Window :=
  { w with
    taken := w.taken + 1, sumV := w.sumV + v, sumVV := w.sumVV + v * v, sumI := w.sumI + i, lastSeq := some seq
    tail := (if w.tail.length < 8 then w.tail else w.tail.drop 1) ++ [(v, i)], lost := w.lost + lost
    hazardRun := if w.kind ∈ [WindowKind.settling, .fv] then
      (if s.tables.danger ≤ v.natAbs then w.hazardRun + 1 else 0) else w.hazardRun
    belowClear := w.belowClear && decide (w.kind = .settling → v.natAbs < s.tables.clear)
    atMost := w.atMost || flag
    silence := some ((8 * w.interval + 5000 + 999) / 1000) }

theorem accumulate_eq (h : t.tables = s.tables) (w : Window) (seq lost : Nat) (v i : Int) (flag : Bool) :
    accumulate t { w with lastSeq := some seq, lost := w.lost + lost } v i flag = sampled s w seq lost v i flag := by
  cases kind : w.kind <;> simp [accumulate, sampled, kind, h, silenceLimit]

/-- The fourth dangerous sample in a row. -/
theorem sampled_hazard {w : Window} {v : Int} (hw : w.hazardRun = 3) (hv : s.tables.danger ≤ v.natAbs)
    (hk : w.kind ∈ [WindowKind.settling, .fv]) (seq lost : Nat) (i : Int) (flag : Bool) :
    4 ≤ (sampled s w seq lost v i flag).hazardRun := by
  simp only [sampled, hk, hv, hw, if_true]
  omega

/-- A CAP window's result reads the tables alone. -/
theorem capResult_congr (h : t.tables = s.tables) : capResult t = capResult s := by
  funext w
  simp only [capResult, capPerKm, directoryAt, profileAt, h]

/-! ### A SAMPLE cell taken or dropped (R121, R122) -/

theorem headOf_none {a : Octet} (h : ∀ b : Nat, b ≤ 3 → a ≠ BitVec.ofNat 8 (0x30 + b)) : headOf a = none := by
  refine if_neg fun ⟨lo, hi⟩ => h (a.toNat - 0x30) (by omega) ?_
  rw [Nat.add_sub_cancel' lo]
  rw [BitVec.ofNat_toNat, BitVec.setWidth_eq]

/-- The part as a SAMPLE cell has left its slot. -/
def sampleSlot (s : State) : State := giveSlot (runCleared s .south) .north

theorem exec_sample {c : Cell} {k : Nat} (h : OwnArrives s .south c) (hk : c.kind = 0x32#8)
    (run : sampleDelivered (runCleared s .south) c = t) (hands : Hands k s t) (hle : k ≤ 16)
    (hq : t.arbiter.queue = [] ∨ t.arbiter.service ≠ .inService) : exec (.sample c) s = .next { t with agenda := s.agenda } :=
  exec_of_examined rfl h.1 ((deliverCell_own h (by rw [hk]; decide)).trans (by rw [hk]; exact run)) hands hle hq

/-- A SAMPLE cell whose effect hands nothing on. -/
theorem exec_sample_quiet {c : Cell} (h : OwnArrives s .south c) (hk : c.kind = 0x32#8)
    (run : sampleDelivered (runCleared s .south) c = t) (agenda : t.agenda = s.agenda) :
    exec (.sample c) s = .next t :=
  exec_of_delivered rfl h.1 ((deliverCell_own h (by rw [hk]; decide)).trans (by rw [hk]; exact run))
    (agenda.trans h.1.2)

theorem sampleDelivered_ignored {c : Cell} (h : takeSample (sampleSlot s) c = (sampleSlot s, none)) :
    sampleDelivered (runCleared s .south) c = sampleSlot s := by
  have slot : leaveSlot (runCleared s .south) .south = sampleSlot s := rfl
  simp only [sampleDelivered, slot, h]

section
variable {c : Cell} {b : Nat} {w : Window}

theorem takeSample_stranger (h : headOf c.src = none) : takeSample s c = (s, none) := by
  simp only [takeSample, h]

theorem takeSample_windowless (hc : headOf c.src = some b) (hw : windowAt s b = none) : takeSample s c = (s, none) := by
  simp only [takeSample, hc, hw]

theorem takeSample_unread (hc : headOf c.src = some b) (hw : windowAt s b = some w)
    (h : ¬ ((payloadAt c 2).toNat = w.tag ∧ (field3 c 3).toInt ≠ -8388608 ∧ (field3 c 6).toInt ≠ -8388608)) :
    takeSample s c = (s, none) := by
  simp only [takeSample, hc, hw, if_neg h]

theorem takeSample_read (hc : headOf c.src = some b) (hw : windowAt s b = some w)
    (ht : (payloadAt c 2).toNat = w.tag) (hv : (field3 c 3).toInt ≠ -8388608) (hi : (field3 c 6).toInt ≠ -8388608)
    {v : State} {e : Option WindowEnd} (h : sampleInWindow s b w (field2 c 0).toNat (field3 c 3).toInt
      (field3 c 6).toInt ((payloadAt c 9).getLsbD 0) = (v, e)) :
    takeSample s c = (v, e.map (fun e => (b, e))) := by
  simp only [takeSample, hc, hw, if_pos (And.intro ht (And.intro hv hi)), h]

theorem sampleInWindow_repeat (h : gapLoss w.lastSeq seq = none) (v i : Int) (flag : Bool) :
    sampleInWindow s b w seq v i flag = (s, none) := by
  simp only [sampleInWindow, h]

/-- A sample that is no repeat ends its window or leaves it open. -/
theorem sampleInWindow_eq {seq lost : Nat} (hg : gapLoss w.lastSeq seq = some lost) (hc : countLost s b lost = t)
    (ht : t.tables = s.tables) (v i : Int) (flag : Bool) : sampleInWindow s b w seq v i flag =
      if 4 ≤ (sampled s w seq lost v i flag).hazardRun then (putWindow t b none, some .hazard)
      else if w.sized ≤ (sampled s w seq lost v i flag).taken + (sampled s w seq lost v i flag).lost then
        (putWindow t b none, some (windowReport t (sampled s w seq lost v i flag)))
      else (putWindow t b (some (sampled s w seq lost v i flag)), none) := by
  simp only [sampleInWindow, hg, hc, accumulate_eq ht]
  rfl

end

/-- A SAMPLE cell of head `b` that is accumulated: the window `w` is open on the bus, with the cell's tag, and the `lost`
samples of its gap, counted, bring the part to `base`. -/
structure SampleTaken (s : State) (c : Cell) (b : Nat) (w : Window) (lost : Nat) (base : State) : Prop where
  head : headOf c.src = some b
  window : windowAt s b = some w
  tag : (payloadAt c 2).toNat = w.tag
  voltage : (field3 c 3).toInt ≠ -8388608
  current : (field3 c 6).toInt ≠ -8388608
  gap : gapLoss w.lastSeq (field2 c 0).toNat = some lost
  counted : countLost (sampleSlot s) b lost = base
  tables : base.tables = s.tables

/-- The window of a SAMPLE cell, its sample accumulated. -/
def takenWindow (s : State) (c : Cell) (w : Window) (lost : Nat) : Window :=
  sampled s w (field2 c 0).toNat lost (field3 c 3).toInt (field3 c 6).toInt ((payloadAt c 9).getLsbD 0)

section
variable {c : Cell} {b lost : Nat} {w : Window} {base : State} (h : SampleTaken s c b w lost base)
include h

theorem SampleTaken.delivered {v : State} {e : Option WindowEnd}
    (run : sampleInWindow (sampleSlot s) b w (field2 c 0).toNat (field3 c 3).toInt (field3 c 6).toInt
      ((payloadAt c 9).getLsbD 0) = (v, e)) : sampleDelivered (runCleared s .south) c =
      match e with
      | some e => windowEnded v b e
      | none => v := by
  have slot : leaveSlot (runCleared s .south) .south = sampleSlot s := rfl
  simp only [sampleDelivered, slot, takeSample_read (s := sampleSlot s) h.head h.window h.tag h.voltage h.current run]
  cases e <;> rfl

theorem SampleTaken.sampleInWindow_eq : sampleInWindow (sampleSlot s) b w (field2 c 0).toNat (field3 c 3).toInt
    (field3 c 6).toInt ((payloadAt c 9).getLsbD 0) =
      if 4 ≤ (takenWindow s c w lost).hazardRun then (putWindow base b none, some .hazard)
      else if w.sized ≤ (takenWindow s c w lost).taken + (takenWindow s c w lost).lost then
        (putWindow base b none, some (windowReport base (takenWindow s c w lost)))
      else (putWindow base b (some (takenWindow s c w lost)), none) :=
  Machine.sampleInWindow_eq (s := sampleSlot s) h.gap h.counted h.tables _ _ _

/-- The window stays open. -/
theorem SampleTaken.goesOn (calm : (takenWindow s c w lost).hazardRun < 4)
    (more : (takenWindow s c w lost).taken + (takenWindow s c w lost).lost < w.sized) :
    sampleDelivered (runCleared s .south) c = putWindow base b (some (takenWindow s c w lost)) := by
  have run := h.sampleInWindow_eq
  rw [if_neg (Nat.not_le.2 calm), if_neg (Nat.not_le.2 more)] at run
  exact h.delivered run

/-- The fourth dangerous sample in a row ends the window (R124). -/
theorem SampleTaken.hazard (danger : 4 ≤ (takenWindow s c w lost).hazardRun) :
    sampleDelivered (runCleared s .south) c = windowEnded (putWindow base b none) b .hazard := by
  have run := h.sampleInWindow_eq
  rw [if_pos danger] at run
  exact h.delivered run

/-- The window has accounted for its samples (R125). -/
theorem SampleTaken.ends (calm : (takenWindow s c w lost).hazardRun < 4)
    (full : w.sized ≤ (takenWindow s c w lost).taken + (takenWindow s c w lost).lost) :
    sampleDelivered (runCleared s .south) c =
      windowEnded (putWindow base b none) b (windowReport base (takenWindow s c w lost)) := by
  have run := h.sampleInWindow_eq
  rw [if_neg (Nat.not_le.2 calm), if_pos full] at run
  exact h.delivered run

end

end Sys2Proof.Machine
end

section
/-! PROOFS. What a session does as its window ends: a window run, a step recorded, the release begun. -/

namespace Sys2Proof.Machine
open Sys2Proof

variable {s t u : State} {id b : Nat} {x y : Session}

/-! ### A session changed -/

/-- `t` comes of `s` by session `id` becoming `y`. -/
def Became (s t : State) (id : Nat) (y : Session) : Prop :=
  ∃ e, t = { s with engine := { s.engine with sessions := e } } ∧
    ∀ k, tabGet none e k = if k = id then some y else sessionAt s k

theorem became_refl (h : sessionAt s id = some x) : Became s s id x := by
  refine ⟨s.engine.sessions, rfl, fun k => ?_⟩
  by_cases hk : k = id
  · rw [if_pos hk, hk]; exact h
  · rw [if_neg hk]; rfl

theorem Became.session (h : Became s t id y) : sessionAt t id = some y := by
  obtain ⟨e, rfl, sessions⟩ := h
  exact (sessions id).trans (if_pos rfl)

theorem Became.modSession (h : Became s t id y) (f : Session → Session) : Became s (modSession t id f) id (f y) := by
  obtain ⟨e', moved, sessions'⟩ := modSession_frame f h.session
  obtain ⟨e, rfl, sessions⟩ := h
  refine ⟨e', moved, fun k => (sessions' k).trans ?_⟩
  by_cases hk : k = id
  · rw [if_pos hk, if_pos hk]
  · rw [if_neg hk, if_neg hk]
    exact (sessions k).trans (if_neg hk)

/-! ### A window run (R119, R126) -/

/-- The window a program step opens: its kind, leg, stimulus and sample count. -/
def windowOf : ProgramStep → Option (WindowKind × Leg × Int × Nat)
  | .fv leg n => some (.fv, leg, 0, n)
  | .res leg v n => some (.res, leg, v, n)
  | .cap leg v n => some (.cap, leg, v, n)
  | .dial _ => none

/-- The window as it is opened on bus `b`, its HEAD START joined. -/
def openedWindow (s : State) (b line : Nat) (p : WindowKind × Leg × Int × Nat) : Window :=
  { newWindow s (busAt s b).nextTag p.1 p.2.1 line p.2.2.2 (headAt s b).interval with
    silence := some (silenceLimit (headAt s b).interval) }

/-- The window's HEAD START. -/
def openingCell (s : State) (b line : Nat) (p : WindowKind × Leg × Int × Nat) : Cell :=
  headStartCell (own s) b (busAt s b).nextTag p.2.1 p.2.2.1 (openedWindow s b line p).sized (headAt s b).interval

/-- The South queue has room for a HEAD START, its step tag an octet. -/
structure StartRoom (s : State) (b : Nat) : Prop where
  bus : b ≤ 3
  tag : (busAt s b).nextTag < 256
  south : s.ports.southQueue.length < 32
  backlog : s.ports.southBacklog = []

/-- `t` comes of `s` by session `id` becoming `y` and its window `p` being run on bus `b`. -/
structure Opened (s t : State) (id b : Nat) (y : Session) (p : WindowKind × Leg × Int × Nat) : Prop where
  session : sessionAt t id = some y
  sessions : ∀ k, k ≠ id → sessionAt t k = sessionAt s k
  window : windowAt t b = some (openedWindow s b y.line p)
  windows : ∀ k, k ≠ b → windowAt t k = windowAt s k
  bus : busAt t b = { busAt s b with nextTag := ((busAt s b).nextTag + 1) % 256 }
  buses : ∀ k, k ≠ b → busAt t k = busAt s k
  frame : t = { s with
    ports := { s.ports with southQueue := s.ports.southQueue ++ [openingCell s b y.line p] }
    engine := { s.engine with buses := t.engine.buses, sessions := t.engine.sessions }
    meas := { s.meas with windows := t.meas.windows } }

theorem Became.runWindow (h : Became s t id y) (room : StartRoom s b) (p : WindowKind × Leg × Int × Nat) :
    Opened s (runWindow t y b p.1 p.2.1 p.2.2.1 p.2.2.2) id b y p := by
  obtain ⟨e, rfl, sessions⟩ := h
  let u : State := { s with engine := { s.engine with sessions := e } }
  let w := newWindow s (busAt s b).nextTag p.1 p.2.1 y.line p.2.2.2 (headAt s b).interval
  obtain ⟨bs, bussed, buses⟩ := modBus_frame u b (fun y => { y with nextTag := ((busAt s b).nextTag + 1) % 256 })
  let v : State := { u with engine := { u.engine with buses := bs } }
  have opened (k : Nat) := windowAt_putWindow (s := v) b k (some w)
  have start := joinSouth_headStart (s := putWindow v b (some w)) (w := w) (own s) p.2.1 p.2.2.1 w.sized
    (headAt s b).interval room.bus ((opened b).trans (if_pos rfl)) rfl room.tag
  have run : Machine.runWindow u y b p.1 p.2.1 p.2.2.1 p.2.2.2 = putWindow { putWindow v b (some w) with
      ports := { s.ports with southQueue := s.ports.southQueue ++ [openingCell s b y.line p] } } b
      (some (openedWindow s b y.line p)) := by
    have offered : Machine.runWindow u y b p.1 p.2.1 p.2.2.1 p.2.2.2 = offerSouth
        (putWindow (modBus u b (fun y => { y with nextTag := ((busAt s b).nextTag + 1) % 256 })) b (some w))
        (openingCell s b y.line p) := rfl
    rw [offered, bussed]
    exact (offerSouth_joins (s := putWindow v b (some w)) _ room.south room.backlog).trans start
  rw [run]
  have again (k : Nat) := windowAt_putWindow (s := { putWindow v b (some w) with
      ports := { s.ports with southQueue := s.ports.southQueue ++ [openingCell s b y.line p] } }) b k
      (some (openedWindow s b y.line p))
  exact {
    session := (sessions id).trans (if_pos rfl)
    sessions := fun k hk => (sessions k).trans (if_neg hk)
    window := (again b).trans (if_pos rfl)
    windows := fun k hk => (again k).trans ((if_neg hk).trans ((opened k).trans (if_neg hk)))
    bus := (buses b).trans (if_pos rfl)
    buses := fun k hk => (buses k).trans (if_neg hk)
    frame := rfl }

/-- The program step the session is at is run (R96). -/
theorem Became.runStep (h : Became s t id y) (room : StartRoom s b) (hb : y.bus = some b) {st : ProgramStep}
    {p : WindowKind × Leg × Int × Nat} (hst : (programAt s y.program).steps[y.step]? = some st)
    (hp : windowOf st = some p) : Opened s (runStep t id) id b y p := by
  have step : presentStep t y = some st := by
    obtain ⟨e, rfl, -⟩ := h
    exact hst
  have run : Machine.runStep t id = Machine.runWindow t y b p.1 p.2.1 p.2.2.1 p.2.2.2 := by
    simp only [Machine.runStep, h.session, hb, step]
    cases st <;> cases hp <;> rfl
  rw [run]
  exact h.runWindow room p

/-- The settling window of the session's present leg is run (R95). -/
theorem Became.runSettling (h : Became s t id y) (room : StartRoom s b) (hb : y.bus = some b) :
    Opened s (runSettling t id) id b y (.settling, if y.ringGround then .ringGround else .tipGround, 0, 16) := by
  have run : Machine.runSettling t id =
      Machine.runWindow t y b .settling (if y.ringGround then .ringGround else .tipGround) 0 16 := by
    simp only [Machine.runSettling, h.session, hb]
  rw [run]
  exact h.runWindow room (.settling, if y.ringGround then .ringGround else .tipGround, 0, 16)

/-! ### The release begun (R97, R98, R99) -/

/-- The order table and the South queue have room for a HEAD STOP and an ACCESS RELEASE. -/
structure ReleaseRoom (s : State) : Prop where
  orders : s.engine.orders.length < 16
  waiting : s.engine.waiting = []
  south : s.ports.southQueue.length ≤ 30
  backlog : s.ports.southBacklog = []

/-- The ACCESS RELEASE of a line, as it is sent next. -/
def releaseCell (s : State) (line : Nat) : Cell :=
  makeCell 0x21#8 (own s) (BitVec.ofNat 8 (0x10 + line / 256)) ([BitVec.ofNat 8 (nextOrderTag s), 3#8, 0#8] ++ octets2 line)

/-- `t` comes of `s` by session `id`, which was `y`, being RELEASING, `stop` and its ACCESS RELEASE sent. -/
structure Released (s t : State) (id b : Nat) (y : Session) (stop : List Cell) : Prop where
  session : sessionAt t id = some (releasing y)
  sessions : ∀ k, k ≠ id → sessionAt t k = sessionAt s k
  window : windowAt t b = none
  windows : ∀ k, k ≠ b → windowAt t k = windowAt s k
  frame : t = { s with
    ports := { s.ports with southQueue := s.ports.southQueue ++ stop ++ [releaseCell s y.line] }
    engine := { s.engine with
      sessions := t.engine.sessions, candidate := (nextOrderTag s + 1) % 256
      orders := s.engine.orders ++ [{
        tag := nextOrderTag s
        order := { kind := .accessRelease, shelf := y.line / 256, bus := 0, line := y.line, owner := .session id }
        timer := some 40 }] }
    meas := { s.meas with windows := t.meas.windows } }

theorem Became.requestRelease (h : Became s t id y) (room : ReleaseRoom s) (hl : x.line = y.line)
    (hw : windowAt s b = none) : Released s (requestRelease t id x) id b y [] := by
  have session := h.session
  obtain ⟨e, rfl, sessions⟩ := h
  obtain ⟨e', run, sessions'⟩ := requestRelease_joins (x := x) session room.orders room.waiting
    (Nat.lt_of_le_of_lt room.south (by omega)) room.backlog
  rw [run]
  have tag : nextOrderTag { s with engine := { s.engine with sessions := e } } = nextOrderTag s :=
    nextOrderTag_congr rfl rfl fun _ => rfl
  exact {
    session := (sessions' id).trans (if_pos rfl)
    sessions := fun k hk => (sessions' k).trans ((if_neg hk).trans ((sessions k).trans (if_neg hk)))
    window := hw
    windows := fun _ _ => rfl
    frame := by
      rw [tag, hl, List.append_nil]
      rfl }

/-- COMPLETE: the steps are done (R97). -/
theorem Became.completeSession (h : Became s t id y) (room : ReleaseRoom s) (hw : windowAt s b = none) :
    Released s (completeSession t id) id b { y with outcome := some .complete } [] := by
  have run : Machine.completeSession t id =
      Machine.requestRelease (Machine.modSession t id (fun x => { x with outcome := some .complete })) id y := by
    simp only [Machine.completeSession, h.session]
  rw [run]
  exact (h.modSession (fun x => { x with outcome := some .complete })).requestRelease room rfl hw

/-- The HEAD STOP of a bus whose window has ended. -/
def lastStop (s : State) (b : Nat) : Cell := headStopCell (own s) b (((busAt s b).nextTag + 255) % 256)

/-- An ending cause in SETTLING or MEASURING, the window having ended (R99, R127). -/
theorem Became.endSession (h : Became s t id y) (room : ReleaseRoom s) (hw : windowAt s b = none) (hb : y.bus = some b)
    (out : y.outcome = none) (hst : y.state ∈ [SessionState.settling, .measuring]) (o : EndOutcome) :
    Released s (endSession t id o) id b { y with outcome := some o } [lastStop s b] := by
  rw [endSession_stops o h.session out hst]
  have named := h.modSession (fun x => { x with outcome := some o })
  generalize Machine.modSession t id (fun x => { x with outcome := some o }) = v at named
  have session := named.session
  obtain ⟨e, rfl, sessions⟩ := named
  let v : State := { s with engine := { s.engine with sessions := e } }
  have stop : stopTag v b = ((busAt s b).nextTag + 255) % 256 := by
    have none : windowAt v b = none := hw
    simp only [stopTag, none]
    rfl
  have tag : nextOrderTag (stopping v id b) = nextOrderTag s := nextOrderTag_congr rfl rfl fun _ => rfl
  have cell : relayOrderCell (own (stopping v id b)) (nextOrderTag (stopping v id b))
      (accessReleaseOrder y.line (.session id)) = releaseCell s y.line := by
    rw [tag]
    exact relayOrderCell_accessRelease rfl _
  have run : stopped v id y.line b = _ := orderPlaced_eq cell
  rw [stopAndRelease_eq (s := v) hb room.orders room.waiting room.south room.backlog, run, tag]
  have moved (k : Nat) := sessionAt_modSession (s := v) id k releasing
  have closed (k : Nat) := windowAt_putWindow (s := v) b k none
  exact {
    session := (moved id).trans ((if_pos rfl).trans (by rw [session]; rfl))
    sessions := fun k hk => (moved k).trans ((if_neg hk).trans ((sessions k).trans (if_neg hk)))
    window := (closed b).trans (if_pos rfl)
    windows := fun k hk => (closed k).trans (if_neg hk)
    frame := by
      simp only [stopping, stop]
      rfl }

/-! ### A step recorded (R97) -/

/-- The session with a result recorded at its present step, and counted. -/
def recorded (y : Session) (r : StepResult) : Session :=
  { y with
    results := y.results.set y.step { r with retried := y.repeated }
    noData := if r.status = .noData then y.noData + 1 else 0 }

theorem Became.recordStep (h : Became s t id y) (r : StepResult) : Became s (recordStep t id r) id (recorded y r) :=
  (h.modSession (fun x => { x with results := x.results.set x.step { r with retried := x.repeated } })).modSession
    (fun x => { x with noData := if r.status = .noData then x.noData + 1 else 0 })

/-- After a recorded result that is not the second NO_DATA in a row: the next step is run. -/
theorem Became.afterStep_next (h : Became s t id y) (room : StartRoom s b) (hb : y.bus = some b) (hn : y.noData < 2)
    {st : ProgramStep} {p : WindowKind × Leg × Int × Nat}
    (hst : (programAt s y.program).steps[y.step + 1]? = some st) (hp : windowOf st = some p) :
    Opened s (afterStep t id) id b { y with step := y.step + 1, repeated := false } p := by
  have more : y.step + 1 < (programAt t y.program).steps.length := by
    obtain ⟨e, rfl, -⟩ := h
    exact (List.getElem?_eq_some_iff.1 hst).1
  have run : Machine.afterStep t id =
      Machine.runStep (Machine.modSession t id (fun x => { x with step := x.step + 1, repeated := false })) id := by
    simp only [Machine.afterStep, h.session, if_neg (Nat.not_le.2 hn), if_pos more]
  rw [run]
  exact (h.modSession (fun x => { x with step := x.step + 1, repeated := false })).runStep room hb hst hp

/-- After the last one: COMPLETE. -/
theorem Became.afterStep_last (h : Became s t id y) (room : ReleaseRoom s) (hw : windowAt s b = none) (hn : y.noData < 2)
    (hl : (programAt s y.program).steps.length ≤ y.step + 1) :
    Released s (afterStep t id) id b { y with outcome := some .complete } [] := by
  have last : ¬ y.step + 1 < (programAt t y.program).steps.length := by
    obtain ⟨e, rfl, -⟩ := h
    exact Nat.not_lt.2 hl
  have run : Machine.afterStep t id = Machine.completeSession t id := by
    simp only [Machine.afterStep, h.session, if_neg (Nat.not_le.2 hn), if_neg last]
  rw [run]
  exact h.completeSession room hw

/-- After the second NO_DATA in a row: HEAD_SILENT. -/
theorem Became.afterStep_silent (h : Became s t id y) (room : ReleaseRoom s) (hw : windowAt s b = none)
    (hb : y.bus = some b) (out : y.outcome = none) (hst : y.state = .measuring) (hn : 2 ≤ y.noData) :
    Released s (afterStep t id) id b { y with outcome := some .headSilent } [lastStop s b] := by
  have run : Machine.afterStep t id = Machine.endSession t id .headSilent := by
    simp only [Machine.afterStep, h.session, if_pos hn]
  rw [run]
  exact h.endSession room hw hb out (by rw [hst]; decide) .headSilent

/-! ### A hazard (R105, R124) -/

/-- The session of a hazard is released with the verdict and outcome HAZARD, its bus in QUARANTINE. -/
theorem Became.hazardRelease (h : Became s t id y) (room : ReleaseRoom s) (hw : windowAt s b = none)
    (hb : y.bus = some b) (out : y.outcome = none) (hst : y.state ∈ [SessionState.settling, .measuring])
    (quiet : NoNotices s) (none : NoRequests s) : ∃ v,
      Released s v id b { y with verdict := .hazard, outcome := some .hazard } [lastStop s b] ∧
      Rebussed 1 v (hazardRelease t id b) b { busAt s b with state := .quarantine, quarantine := some 2000 } := by
  have ended := (h.modSession (fun x => { x with verdict := .hazard })).endSession room hw hb out hst .hazard
  have run : Machine.hazardRelease t id b = setBusState (modBus
      (Machine.endSession (Machine.modSession t id (fun x => { x with verdict := .hazard })) id .hazard) b
      (fun y => { y with quarantine := some 2000 })) b .quarantine := rfl
  generalize Machine.endSession (Machine.modSession t id (fun x => { x with verdict := .hazard })) id .hazard = v
    at ended run
  have frame := ended.frame
  have bus : busAt v b = busAt s b := by rw [frame]; rfl
  have timed := rebussed_modBus v b (fun y => { y with quarantine := some 2000 })
  have quarantined := timed.trans (rebussed_setBusState (timed.frame.units.trans (by rw [frame]; exact quiet))
    (unreserved_of_noRequests (timed.frame.requests.trans (by rw [frame]; exact none))) b .quarantine)
  rw [timed.bus, bus, ← run] at quarantined
  exact ⟨v, ended, quarantined⟩

end Sys2Proof.Machine
end

section
/-! PROOFS. A sample accumulated, lost or ending its window: O57. -/

namespace Sys2Proof.Machine
open Sys2Proof

variable {s t u : State} {id b : Nat} {x y : Session} {c : Cell} {lost : Nat} {w : Window} {base : State}

/-! ### The report of an ended window (R125) -/

theorem windowReport_repeated (h : w.sized / 8 < w.lost) : windowReport s w = .repeated := if_pos h

theorem windowReport_settled (h : w.lost ≤ w.sized / 8) (hk : w.kind = .settling) :
    windowReport s w = .settled w.belowClear := by
  rw [windowReport, if_neg (Nat.not_lt.2 h), hk]

theorem resResult_hasData (w : Window) : (resResult w).status ≠ .noData := by
  unfold resResult
  dsimp only
  split
  · nofun
  · split
    · nofun
    · split <;> nofun

theorem capResult_hasData (s : State) (w : Window) : (capResult s w).status ≠ .noData := by
  unfold capResult
  dsimp only
  split <;> nofun

/-- A step window that completes is reported with its result, which is no NO_DATA (R128 to R132). -/
theorem windowReport_done {r : StepResult} (h : w.lost ≤ w.sized / 8)
    (hr : (w.kind, r) ∈ [(WindowKind.fv, fvResult w), (.res, resResult w), (.cap, capResult s w)]) :
    windowReport s w = .done r ∧ r.status ≠ .noData := by
  simp only [List.mem_cons, List.not_mem_nil, or_false, Prod.mk.injEq] at hr
  have whole : windowReport s w = match w.kind with
      | .settling => .settled w.belowClear
      | .fv => .done (fvResult w)
      | .res => .done (resResult w)
      | .cap => .done (capResult s w) := if_neg (Nat.not_lt.2 h)
  rcases hr with ⟨hk, rfl⟩ | ⟨hk, rfl⟩ | ⟨hk, rfl⟩
  · exact ⟨by rw [whole, hk], nofun⟩
  · exact ⟨by rw [whole, hk], resResult_hasData w⟩
  · exact ⟨by rw [whole, hk], capResult_hasData s w⟩

section
variable (hh : (busAt s b).holder = .session id) (hx : sessionAt s id = some x) (e : WindowEnd)
include hh hx

theorem windowEnded_settling (hst : x.state = .settling) : windowEnded s b e = settlingReport s id b x e := by
  simp only [windowEnded, hh, hx, hst]

theorem windowEnded_measuring (hst : x.state = .measuring) : windowEnded s b e = stepReport s id b x e := by
  simp only [windowEnded, hh, hx, hst]

end

/-- The HEAD STOP with the last step tag, as an octet (section 11.5). -/
theorem lastStop_eq (s : State) (b : Nat) : lastStop s b = makeCell 0x31#8 (own s) (BitVec.ofNat 8 (0x30 + b))
    [2#8, BitVec.ofNat 8 ((busAt s b).nextTag + 255)] := by
  have tag : BitVec.ofNat 8 (((busAt s b).nextTag + 255) % 256) = BitVec.ofNat 8 ((busAt s b).nextTag + 255) :=
    BitVec.eq_of_toNat_eq (by simp)
  exact congrArg (fun t => makeCell kindHeadOrder (own s) (headAddress b) [2#8, t]) tag

theorem noDataResult_step {st : ProgramStep} {p : WindowKind × Leg × Int × Nat}
    (hst : (programAt s x.program).steps[x.step]? = some st) (hp : windowOf st = some p) :
    noDataResult s x = blankResult .noData (stepShape st).1 (some p.2.1) x.repeated := by
  have step : presentStep s x = some st := hst
  simp only [noDataResult, step]
  cases st <;> cases hp <;> rfl

/-! ### A settling window's report (R95) -/

section
variable (hx : sessionAt s id = some x) (hb : x.bus = some b)
include hx hb

theorem settlingReport_otherLeg (start : StartRoom s b) (leg : x.ringGround = false) (below : Bool) :
    Opened s (settlingReport s id b x (.settled below)) id b
      { x with ringGround := true, belowSoFar := below, repeated := false } (.settling, .ringGround, 0, 16) := by
  have run : settlingReport s id b x (.settled below) = runSettling (modSession s id (fun x =>
      { x with ringGround := true, belowSoFar := below, repeated := false })) id := if_neg (by rw [leg]; nofun)
  rw [run]
  exact ((became_refl hx).modSession _).runSettling start hb

theorem settlingReport_settled (start : StartRoom s b) (leg : x.ringGround = true) (below : Bool) {st : ProgramStep}
    {p : WindowKind × Leg × Int × Nat} (hst : (programAt s x.program).steps[0]? = some st) (hp : windowOf st = some p) :
    Opened s (settlingReport s id b x (.settled below)) id b { x with
      state := .measuring, repeated := false, step := 0
      verdict := if x.belowSoFar = true ∧ below = true then .clear else .unqualified } p := by
  have run : settlingReport s id b x (.settled below) = runStep (modSession s id (fun x => { x with
      state := .measuring, repeated := false, step := 0
      verdict := if x.belowSoFar && below then .clear else .unqualified })) id := if_pos leg
  have measures := ((became_refl hx).modSession (fun x => { x with
    state := .measuring, repeated := false, step := 0
    verdict := if x.belowSoFar && below then .clear else .unqualified })).runStep start hb hst hp
  rw [← run] at measures
  simp only [Bool.and_eq_true] at measures
  exact measures

theorem settlingReport_again (start : StartRoom s b) (first : x.repeated = false) :
    Opened s (settlingReport s id b x .repeated) id b { x with repeated := true }
      (.settling, if x.ringGround then .ringGround else .tipGround, 0, 16) := by
  have run : settlingReport s id b x .repeated = runSettling (modSession s id (fun x => { x with repeated := true })) id :=
    if_neg (by rw [first]; nofun)
  rw [run]
  exact ((became_refl hx).modSession (fun x => { x with repeated := true })).runSettling start hb

theorem settlingReport_silent (room : ReleaseRoom s) (hw : windowAt s b = none) (again : x.repeated = true)
    (out : x.outcome = none) (hst : x.state = .settling) : Released s (settlingReport s id b x .repeated) id b
      { x with outcome := some .headSilent } [lastStop s b] := by
  have run : settlingReport s id b x .repeated = endSession s id .headSilent := if_pos again
  rw [run]
  exact (became_refl hx).endSession room hw hb out (by rw [hst]; decide) .headSilent

/-- A step window with too many samples lost is run again (R97). -/
theorem stepReport_again (start : StartRoom s b) (first : x.repeated = false) {st : ProgramStep}
    {p : WindowKind × Leg × Int × Nat} (hst : (programAt s x.program).steps[x.step]? = some st)
    (hp : windowOf st = some p) : Opened s (stepReport s id b x .repeated) id b { x with repeated := true } p := by
  have run : stepReport s id b x .repeated = runStep (modSession s id (fun x => { x with repeated := true })) id :=
    if_neg (by rw [first]; nofun)
  rw [run]
  exact ((became_refl hx).modSession (fun x => { x with repeated := true })).runStep start hb hst hp

end

/-- The second time it is recorded NO_DATA (R97). -/
theorem stepReport_noData (again : x.repeated = true) {st : ProgramStep} {p : WindowKind × Leg × Int × Nat}
    (hst : (programAt s x.program).steps[x.step]? = some st) (hp : windowOf st = some p) :
    stepReport s id b x .repeated =
      afterStep (recordStep s id (blankResult .noData (stepShape st).1 (some p.2.1) true)) id := by
  simp only [stepReport, again, if_true, noDataResult_step hst hp]

theorem recorded_hasData {r : StepResult} (h : r.status ≠ .noData) : recorded x r =
    { x with noData := 0, results := x.results.set x.step { r with retried := x.repeated } } := by
  simp only [recorded, if_neg h]

theorem recorded_noData (again : x.repeated = true) (k : StepKind) (l : Option Leg) :
    recorded x (blankResult .noData k l true) =
      { x with noData := x.noData + 1, results := x.results.set x.step (blankResult .noData k l true) } := by
  have retried : { blankResult .noData k l true with retried := x.repeated } = blankResult .noData k l true := by
    rw [again]; rfl
  rw [recorded, retried]
  rfl

/-! ### The sample's loss counted (R122, R139) -/

/-- The part with the losses of a sample counted: the checkers and the ticket table alone are new. -/
def counting (s : State) (checkers : Tab Checker) (tickets : TicketManager) : State :=
  { sampleSlot s with meas := { s.meas with checkers := checkers }, tickets := tickets }

/-- The part with the window on bus `b` ended. -/
def closing (s : State) (checkers : Tab Checker) (tickets : TicketManager) (b : Nat) : State :=
  putWindow (counting s checkers tickets) b none

theorem closing_window (checkers : Tab Checker) (tickets : TicketManager) :
    windowAt (closing s checkers tickets b) b = none :=
  (windowAt_putWindow (s := counting s checkers tickets) b b none).trans (if_pos rfl)

theorem closing_windows (checkers : Tab Checker) (tickets : TicketManager) {k : Nat} (hk : k ≠ b) :
    windowAt (closing s checkers tickets b) k = windowAt s k :=
  (windowAt_putWindow (s := counting s checkers tickets) b k none).trans (if_neg hk)

/-- Settles O57: the drops, then the gap and its losses, then what becomes of the window and its session. -/
theorem sampleAccumulated : Obligations.SampleAccumulated := by
  unfold Obligations.SampleAccumulated
  intro s c h hk dropped
  refine ⟨fun stranger => ?_, ?_⟩
  · exact exec_sample_quiet h hk (sampleDelivered_ignored (takeSample_stranger (headOf_none stranger))) rfl
  intro b seq w v i hb hsrc hseq hv hi
  subst hseq hv hi
  have head : headOf c.src = some b := hsrc ▸ headOf_headAddress hb
  refine ⟨fun none => ?_, fun hw unread => ?_, ?_⟩
  · exact exec_sample_quiet h hk (sampleDelivered_ignored (takeSample_windowless (s := sampleSlot s) head none)) rfl
  · refine exec_sample_quiet h hk (sampleDelivered_ignored ?_) rfl
    by_cases read : (payloadAt c 2).toNat = w.tag ∧ (field3 c 3).toInt ≠ -8388608 ∧ (field3 c 6).toInt ≠ -8388608
    · have again : w.lastSeq = some (field2 c 0).toNat := by tauto
      exact takeSample_read (s := sampleSlot s) head hw read.1 read.2.1 read.2.2
        (sampleInWindow_repeat (by rw [again]; exact gapLoss_repeat) ..)
    · exact takeSample_unread (s := sampleSlot s) head hw read
  intro misses hd target counts lost base hw ht hv hi hm hc took
  have gap : gapLoss w.lastSeq (field2 c 0).toNat = some lost := by
    rcases hm with ⟨rfl, last | ⟨l, hl, last, next⟩⟩ | ⟨l, hl, last, two, rfl⟩
    · rw [last]; rfl
    · rw [last, next]; exact gapLoss_next hl
    · rw [last]; exact gapLoss_gap two
  obtain ⟨counted, checkers, tickets, rfl⟩ : countLost (sampleSlot s) b lost = base ∧
      ∃ checkers tickets, base = counting s checkers tickets := by
    rcases hc with ⟨rfl, rfl⟩ | ⟨pos, calm, rfl⟩ | ⟨pos, above, ok, quiet, tk⟩
    · exact ⟨rfl, s.meas.checkers, s.tickets, rfl⟩
    · exact ⟨countLost_counts (s := sampleSlot s) pos calm, _, _, rfl⟩
    · rcases tk with ⟨k, none, lo, hi, free, used, rfl⟩ | ⟨tk, found, live, rfl⟩
      · exact ⟨countLost_makes (s := sampleSlot s) quiet pos above ok none lo hi free used, _, _, rfl⟩
      · exact ⟨countLost_sees (s := sampleSlot s) quiet pos above ok found live, _, _, rfl⟩
  have taken : SampleTaken s c b w lost (counting s checkers tickets) := ⟨head, hw, ht, hv, hi, gap, counted, rfl⟩
  refine ⟨fun calm more => exec_sample_quiet h hk (taken.goesOn calm more) rfl, ?_, ?_⟩
  · intro id x run3 danger holder hx hxb out none quiet orders waiting backlog south otag n ends hn
    have room : ReleaseRoom (closing s checkers tickets b) := ⟨orders, waiting, south, backlog⟩
    have ends_of (y : Session) (v : State) (kind : w.kind ∈ [WindowKind.settling, .fv])
        (became : Became (closing s checkers tickets b) v id y)
        (report : windowEnded (closing s checkers tickets b) b .hazard = hazardRelease v id b)
        (bus : y.bus = some b) (outcome : y.outcome = .none) (state : y.state ∈ [SessionState.settling, .measuring])
        (line : y.line = x.line) : ends y := by
      obtain ⟨u, released, quarantined⟩ :=
        became.hazardRelease room (closing_window ..) bus outcome state quiet none
      have run := (taken.hazard (sampled_hazard run3 danger kind ..)).trans report
      generalize hazardRelease v id b = t at quarantined run
      obtain ⟨session, sessions, window, windows, frame⟩ := released
      rw [lastStop_eq, List.append_assoc] at frame
      generalize u.engine.sessions = e, u.meas.windows = ws at frame
      subst frame
      obtain ⟨bs, j, hj, rfl⟩ := quarantined.shape
      have step := exec_sample h hk run ⟨j, hj, rfl⟩ (by omega) (.inl none)
      refine ⟨_, step, session, sessions, window, fun k hk => (windows k hk).trans (closing_windows _ _ hk),
        quarantined.bus, quarantined.buses, ?_⟩
      rw [line]
      rfl
    refine ⟨fun state kind => ?_, fun count state kind step => ?_⟩
    · exact ends_of x _ (by rw [kind]; decide) (became_refl hx)
        ((windowEnded_settling (s := closing s checkers tickets b) holder hx .hazard state).trans rfl) hxb out
        (by rw [state]; decide) rfl
    · have recorded := (became_refl (s := closing s checkers tickets b) hx).modSession
        (fun y => { y with results := y.results.set y.step { noDataResult (closing s checkers tickets b) x with
          retried := y.repeated } })
      have result : noDataResult (closing s checkers tickets b) x = blankResult .noData .fv (some w.leg) x.repeated :=
        noDataResult_step (s := closing s checkers tickets b) (p := (.fv, w.leg, 0, count)) step rfl
      rw [result] at recorded
      refine ends_of _ _ (by rw [kind]; decide) recorded
        ((windowEnded_measuring (s := closing s checkers tickets b) holder hx .hazard state).trans ?_) hxb out
        (by rw [state]; decide) rfl
      rw [stepReport, recordResult, result]
  · intro id x calm full holder hx hxb out tag orders waiting backlog south otag n step interval ringing shape ended opens
      releases silent steps goesOn
    have shaped : shape = windowOf := by
      funext st
      cases st <;> rfl
    have room : ReleaseRoom (closing s checkers tickets b) := ⟨orders, waiting, south, backlog⟩
    have start : StartRoom (closing s checkers tickets b) b := ⟨hb, tag, Nat.lt_of_le_of_lt south (by omega), backlog⟩
    have hx : sessionAt (closing s checkers tickets b) id = some x := hx
    have delivered := taken.ends calm full
    have opens_of {y p t} (run : windowEnded (closing s checkers tickets b) b
          (windowReport (counting s checkers tickets) (takenWindow s c w lost)) = t)
        (o : Opened (closing s checkers tickets b) t id b y p) (line : y.line = x.line) : opens y p := by
      obtain ⟨session, sessions, window, windows, bus, buses, frame⟩ := o
      rw [line] at window frame
      exact ⟨t, ⟨exec_sample_quiet h hk (delivered.trans run) (by rw [frame]; rfl), session, sessions,
        fun k hk => (windows k hk).trans (closing_windows _ _ hk)⟩, window, bus, buses, frame⟩
    have releases_of {y stop t} (run : windowEnded (closing s checkers tickets b) b
          (windowReport (counting s checkers tickets) (takenWindow s c w lost)) = t)
        (r : Released (closing s checkers tickets b) t id b y stop) (line : y.line = x.line) : releases y stop := by
      obtain ⟨session, sessions, window, windows, frame⟩ := r
      rw [line] at frame
      exact ⟨t, ⟨exec_sample_quiet h hk (delivered.trans run) (by rw [frame]; rfl), session, sessions,
        fun k hk => (windows k hk).trans (closing_windows _ _ hk)⟩, window, frame⟩
    have silent_of {y t} (run : windowEnded (closing s checkers tickets b) b
          (windowReport (counting s checkers tickets) (takenWindow s c w lost)) = t)
        (r : Released (closing s checkers tickets b) t id b { y with outcome := some .headSilent }
          [lastStop (closing s checkers tickets b) b]) (line : y.line = x.line) : silent y := by
      rw [lastStop_eq] at r
      exact releases_of run r line
    have goesOn_of {y v} (became : Became (closing s checkers tickets b) v id y)
        (run : windowEnded (closing s checkers tickets b) b
          (windowReport (counting s checkers tickets) (takenWindow s c w lost)) = afterStep v id)
        (bus : y.bus = some b) (program : y.program = x.program) (step : y.step = x.step) (few : y.noData < 2)
        (line : y.line = x.line) : goesOn y := by
      refine ⟨fun st p hst hp => ?_, fun last => ?_⟩
      · rw [shaped] at hp
        rw [← step]
        exact opens_of run (became.afterStep_next start bus few (by rw [program, step]; exact hst) hp) line
      · exact releases_of run (became.afterStep_last room (closing_window ..) few (by rw [program, step]; exact last)) line
    refine ⟨fun state kind => ?_, fun state kind => ⟨fun whole r hr => ?_, fun st p hst hp less => ?_⟩⟩
    · have report {e : WindowEnd}
          (he : windowReport (counting s checkers tickets) (takenWindow s c w lost) = e) := (congrArg _ he).trans
        (windowEnded_settling (s := closing s checkers tickets b) holder hx e state)
      refine ⟨fun whole leg => ?_, fun whole leg st p hst hp => ?_, fun less first => ?_, fun less again => ?_⟩
      · exact opens_of (report (windowReport_settled whole kind)) (settlingReport_otherLeg hx hxb start leg _) rfl
      · rw [shaped] at hp
        exact opens_of (report (windowReport_settled whole kind)) (settlingReport_settled hx hxb start leg _ hst hp) rfl
      · exact opens_of (report (windowReport_repeated less)) (settlingReport_again hx hxb start first) rfl
      · exact silent_of (report (windowReport_repeated less))
          (settlingReport_silent hx hxb room (closing_window ..) again out state) rfl
    all_goals
      have report {e : WindowEnd}
          (he : windowReport (counting s checkers tickets) (takenWindow s c w lost) = e) := (congrArg _ he).trans
        (windowEnded_measuring (s := closing s checkers tickets b) holder hx e state)
    · obtain ⟨done, data⟩ := windowReport_done (s := counting s checkers tickets) (w := takenWindow s c w lost) whole
        (by rw [capResult_congr (t := counting s checkers tickets) (s := s) rfl]; exact hr)
      have became := (became_refl hx).recordStep r
      rw [recorded_hasData data] at became
      exact goesOn_of became (report done) hxb rfl rfl Nat.zero_lt_two rfl
    · rw [shaped] at hp
      have noData (again : x.repeated = true) := (report (windowReport_repeated less)).trans
        (stepReport_noData (s := closing s checkers tickets b) again hst hp)
      have became := (became_refl hx).recordStep (blankResult .noData (stepShape st).1 (some p.2.1) true)
      refine ⟨fun first => ?_, fun again zero => ?_, fun again one => ?_⟩
      · exact opens_of (report (windowReport_repeated less)) (stepReport_again hx hxb start first hst hp) rfl
      · rw [recorded_noData again] at became
        exact goesOn_of became (noData again) hxb rfl rfl (show x.noData + 1 < 2 by omega) rfl
      · rw [recorded_noData again] at became
        exact silent_of (noData again)
          (became.afterStep_silent room (closing_window ..) hxb out state (Nat.succ_le_succ one)) rfl

end Sys2Proof.Machine
end

section
/-! PROOFS. The float8 targets of the sample-loss checker, and O59. -/

namespace Sys2Proof.Machine
open Sys2Proof

variable {s : State}

/-- The high and the low four bits of an octet. -/
theorem octet_halves (t : Octet) : (t >>> 4).toNat = t.toNat / 16 ∧ (t &&& 0x0F#8).toNat = t.toNat % 16 :=
  ⟨by rw [BitVec.toNat_ushiftRight, Nat.shiftRight_eq_div_pow], Nat.and_two_pow_sub_one_eq_mod t.toNat 4⟩

/-- The value by its mantissa and exponent: the floor divides by 16 only where the exponent is 0 (R138). -/
theorem float8_eq (t : Octet) : float8 t =
    if t.toNat % 16 = 0 then t.toNat / 16 / 16 else t.toNat / 16 * 16 ^ (t.toNat % 16 - 1) := by
  unfold float8
  cases t.toNat % 16 with
  | zero => simp
  | succ e => rw [Nat.pow_succ, ← Nat.mul_assoc, Nat.mul_div_cancel _ (by decide), if_neg (by simp), Nat.add_sub_cancel]

/-- A mantissa is below 16, so that its sixteenth is 0. -/
theorem mantissa_div (t : Octet) : t.toNat / 16 / 16 = 0 := by omega

/-- A target above every count is not exceeded: its head's losses are counted alone (R138). -/
theorem countLost_unreached {h lost : Nat} (above : 4294967295 < float8 (headAt s h).target) (hl : 0 < lost) :
    countLost s h lost = putChecker s h { checkerAt s h with
      running := min ((checkerAt s h).running + lost) 4294967295 } := by
  have within : runningWith s h lost ≤ float8 (headAt s h).target := (Nat.min_le_right ..).trans above.le
  rw [countLost_counts hl (.inl within), checkedLost]
  simp only [Nat.not_lt.2 within, false_and, decide_false, Bool.or_false]
  rfl

/-- Settles O59: the value by its mantissa and exponent, and the losses counted against one never reached. -/
theorem targetValue : Obligations.TargetValue := by
  unfold Obligations.TargetValue
  refine ⟨fun t => ?_, rfl, rfl, rfl, rfl, rfl, fun s h lost => countLost_unreached⟩
  obtain ⟨high, low⟩ := octet_halves t
  simp only [high, low, float8_eq]
  refine ⟨trivial, fun e => ?_, fun e => ?_, fun m => ?_⟩
  · rw [if_pos e, mantissa_div]
  · simp [e]
  · simp [m]

end Sys2Proof.Machine
end

section
/-! PROOFS. The queries of single fields, and O38. -/

namespace Sys2Proof.Machine
open Sys2Proof

variable {s : State} {i : Instr}

/-- An accepted command that only reads: its answer joins the NORMAL queue, and nothing else changes (R198). -/
theorem exec_reads {src : Octet} {tag : Half} {c : Command} {g : CommandGroup} {a : Answer}
    (hi : rowCommand i = some (src, tag, c)) (h : Accepts s src (answerPlaces (commandCode c)) g)
    (group : groupOfCode (commandCode c) = some g) (notRestart : c ≠ .restart)
    (run : ∀ k, carryOut (reservePlaces s k) src c = (reservePlaces s k, a)) :
    exec i s = .next (joinNormal s (answerCells (own s) src tag (commandCode c) a)) := by
  obtain ⟨⟨awake, idle⟩, room, held⟩ := h
  have taken := takeCommand_accepted (tag := tag) room notRestart
    (permitted_of_group (s := reservePlaces s (answerPlaces (commandCode c))) group held)
  simp only [run, releasePlaces_reservePlaces] at taken
  rw [exec_of_rowCommand s hi]
  exact live_of_effect awake taken idle

/-- Fewer answer places need less room. -/
theorem accepts_fewer {src : Octet} {k n : Nat} {g : CommandGroup} (h : Accepts s src n g) (hk : k ≤ n) :
    Accepts s src k g := ⟨h.1, hk.trans h.2.1, h.2.2⟩

theorem readLine_outside {len : Half} (h : 4095 < len.toNat) : readLine s len = plainAnswer .range := if_pos h

/-- The REPLY of a head, its count by its mode (R142). -/
theorem headReply_eq (s : State) (h : Nat) : headReply s h =
    [Config.timebaseModeCode (headAt s h).mode, (headAt s h).target, boolOctet (checkerAt s h).degraded] ++
      octets4 (if (headAt s h).mode = .hourly then (checkerAt s h).latched else (checkerAt s h).running) := by
  unfold headReply
  cases (headAt s h).mode <;> rfl

theorem markCode_mem (m : Mark) : (Config.markCode m).toNat ∈ [1, 2, 3, 4] := by
  obtain ⟨low, high⟩ := Config.markCode_range m
  simp only [List.mem_cons, List.not_mem_nil, or_false]
  omega

/-- Of two names, each is coded 1 or 2 (R211). -/
theorem namedCode_pair {α : Type} [BEq α] [LawfulBEq α] {x y z : α} (order : Nat) (hz : z ∈ [x, y]) :
    (BitVec.ofNat 8 (Config.namedCode [x, y] order z)).toNat ∈ [1, 2] := by
  have low := Config.namedCode_pos [x, y] order z
  have high := Config.namedCode_le order hz
  rw [Config.namedCode_field 8 order hz (show 2 < 2 ^ 8 by decide)]
  simp only [List.length_cons, List.length_nil] at high
  simp only [List.mem_cons, List.not_mem_nil, or_false]
  omega

theorem calendarStateCode_mem (running : Bool) : (Config.calendarStateCode running).toNat ∈ [1, 2] :=
  namedCode_pair _ (by cases running <;> decide)

theorem timebaseModeCode_mem (m : TimebaseMode) : (Config.timebaseModeCode m).toNat ∈ [1, 2] :=
  namedCode_pair _ (by cases m <;> decide)

/-- Settles O38: each query joins its answer's cells, and the codes are those of their names' places. -/
theorem readsOfFields : Obligations.ReadsOfFields := by
  unfold Obligations.ReadsOfFields
  intro s src tag len h response reply l c
  have two := accepts_fewer h (k := 2) (by decide)
  have line := exec_reads (i := .readLine src tag len) (c := .readLine len) (a := readLine s len) rfl two rfl nofun
    fun _ => rfl
  have time := exec_reads (i := .readTime src tag) (c := .readTime) (a := readTime s) rfl two rfl nofun fun _ => rfl
  have heads := exec_reads (i := .readHeadCounts src tag) (c := .readHeadCounts) (a := readHeadCounts s) rfl h rfl nofun
    fun _ => rfl
  refine ⟨fun outside => ?_, fun inside => ?_, fun set => ?_, fun running => ?_, ?_,
    fun m k => ⟨markCode_mem m, Config.markCode_inj⟩, fun m k => ⟨calendarStateCode_mem m, Config.calendarStateCode_inj⟩,
    fun m k => ⟨timebaseModeCode_mem m, Config.timebaseModeCode_inj⟩, Config.unknownHookCode_range⟩
  · rw [line, readLine_outside outside]
    simp only [answerCells, responseCell_plain]
    rfl
  · rw [line, readLine, if_neg (Nat.not_lt.2 inside)]
    rfl
  · rw [time, readTime, set]
    rfl
  · rw [time, readTime, running]
    rfl
  · rw [heads]
    rw [readHeadCounts, funext (headReply_eq s)]
    rfl

end Sys2Proof.Machine
end

section
/-! PROOFS. The values of the windows that complete (R128 to R132). -/

namespace Sys2Proof.Machine
open Sys2Proof

/-! ### The integer square root -/

/-- `r` is the root of `n` as far as the bits tried tell, those from `2 ^ k` up. -/
def RootWithin (n k r : Nat) : Prop := r * r ≤ n ∧ n < (r + 2 ^ k) * (r + 2 ^ k)

/-- Trying the next bit halves what is left open. -/
theorem RootWithin.step {n k r : Nat} (h : RootWithin n (k + 1) r) :
    RootWithin n k (if (r + 2 ^ k) * (r + 2 ^ k) ≤ n then r + 2 ^ k else r) := by
  obtain ⟨low, high⟩ := h
  split
  · next fits => exact ⟨fits, by rwa [Nat.add_assoc, ← Nat.two_mul, ← Nat.pow_succ']⟩
  · next above => exact ⟨low, Nat.lt_of_not_le above⟩

/-- The bits tried from the top one down. -/
theorem rootWithin_foldl {n j : Nat} (hn : n < 2 ^ 64) (hj : j ≤ 32) : RootWithin n (32 - j)
    ((List.range j).foldl (fun r i =>
      if (r + 2 ^ (31 - i)) * (r + 2 ^ (31 - i)) ≤ n then r + 2 ^ (31 - i) else r) 0) := by
  induction j with
  | zero => exact ⟨Nat.zero_le _, hn.trans_eq (by simp)⟩
  | succ j ih =>
    rw [List.range_succ, List.foldl_append]
    have before := ih (by omega)
    rw [show 32 - j = 31 - j + 1 by omega] at before
    rw [show 32 - (j + 1) = 31 - j by omega]
    exact before.step

theorem integerRoot_spec {n : Nat} (hn : n < 2 ^ 64) :
    integerRoot n * integerRoot n ≤ n ∧ n < (integerRoot n + 1) * (integerRoot n + 1) :=
  rootWithin_foldl hn le_rfl

/-! ### FV and RES (R128, R129) -/

/-- What every result of a window's samples carries (R120). -/
def Carries (w : Window) (x : StepResult) (k : StepKind) : Prop :=
  x.kind = k ∧ x.leg = some w.leg ∧ x.sized = w.sized ∧ x.taken = w.taken ∧ x.lost = w.lost ∧ x.atMost = w.atMost ∧
    (x.noisy = true ↔ 8 ≤ w.ringingMax) ∧ x.digits = []

theorem measuredResult_carries (w : Window) (st : StepStatus) (k : StepKind) : Carries w (measuredResult w st k) k :=
  ⟨rfl, rfl, rfl, rfl, rfl, rfl, decide_eq_true_iff, rfl⟩

/-- The AC of an FV result is the root of the floored variance (R128). -/
theorem fvResult_ac {w : Window} {spread : Int} (hs : spread = w.taken * w.sumVV - w.sumV * w.sumV) (pos : 0 ≤ spread)
    (hn : spread.toNat / (w.taken * w.taken) < 2 ^ 64) :
    (fvResult w).ac * (fvResult w).ac ≤ spread.toNat / (w.taken * w.taken) ∧
      spread.toNat / (w.taken * w.taken) < ((fvResult w).ac + 1) * ((fvResult w).ac + 1) := by
  have floored : (spread / (w.taken * w.taken : Nat)).toNat = spread.toNat / (w.taken * w.taken) := by
    lift spread to Nat using pos
    rfl
  have root : (fvResult w).ac = integerRoot (spread.toNat / (w.taken * w.taken)) := by rw [← floored, hs]; rfl
  rw [root]
  exact integerRoot_spec hn

/-- Two values of one sign, and two of opposite signs. -/
theorem sign_eq_of_along {a b : Int} (h : (0 < a ∧ 0 < b) ∨ (a < 0 ∧ b < 0)) : a.sign = b.sign := by
  rcases h with ⟨ha, hb⟩ | ⟨ha, hb⟩
  · rw [Int.sign_eq_one_of_pos ha, Int.sign_eq_one_of_pos hb]
  · rw [Int.sign_eq_neg_one_of_neg ha, Int.sign_eq_neg_one_of_neg hb]

theorem sign_ne_of_against {a b : Int} (h : (0 < a ∧ b < 0) ∨ (a < 0 ∧ 0 < b)) : a.sign ≠ b.sign := by
  rcases h with ⟨ha, hb⟩ | ⟨ha, hb⟩
  · rw [Int.sign_eq_one_of_pos ha, Int.sign_eq_neg_one_of_neg hb]; decide
  · rw [Int.sign_eq_neg_one_of_neg ha, Int.sign_eq_one_of_pos hb]; decide

section
variable {w : Window}

/-- Too little voltage for a resistance (R129). -/
theorem resResult_invalid (low : w.sumV.natAbs < w.taken * 1000) : resResult w = measuredResult w .invalid .res :=
  if_pos low

/-- No current, or one against the voltage (R129). -/
theorem resResult_foreign (enough : w.taken * 1000 ≤ w.sumV.natAbs)
    (h : w.sumI = 0 ∨ (0 < w.sumI ∧ w.sumV < 0) ∨ (w.sumI < 0 ∧ 0 < w.sumV)) :
    resResult w = measuredResult w .foreign .res := by
  rw [resResult, if_neg (Nat.not_lt.2 enough),
    if_pos (h.imp Int.natAbs_eq_zero.2 fun against => (sign_ne_of_against against).symm)]

section
variable (enough : w.taken * 1000 ≤ w.sumV.natAbs)
  (along : (0 < w.sumI ∧ 0 < w.sumV) ∨ (w.sumI < 0 ∧ w.sumV < 0))
include enough along

/-- A current with the voltage gives a value, at the limit where it is too small or the value too great (R129). -/
theorem resResult_value :
    let r := roundHalfUp (w.sumV.natAbs * 1000000) w.sumI.natAbs
    resResult w = if w.sumI.natAbs < w.taken ∨ 100000000 < r then
        { measuredResult w .value .res with resistance := 100000000, openLimit := true }
      else { measuredResult w .value .res with resistance := r } := by
  have flows : w.sumI.natAbs ≠ 0 := by omega
  have same := sign_eq_of_along along
  rw [resResult, if_neg (Nat.not_lt.2 enough), if_neg (not_or.2 ⟨flows, not_not.2 same.symm⟩)]

theorem resResult_status : (resResult w).status = .value := by
  rw [resResult_value enough along]
  split <;> rfl

theorem resResult_limit
    (h : w.sumI.natAbs < w.taken ∨ 100000000 < roundHalfUp (w.sumV.natAbs * 1000000) w.sumI.natAbs) :
    resResult w = { measuredResult w .value .res with resistance := 100000000, openLimit := true } :=
  (resResult_value enough along).trans (if_pos h)

theorem resResult_resistance (flows : w.taken ≤ w.sumI.natAbs)
    (within : roundHalfUp (w.sumV.natAbs * 1000000) w.sumI.natAbs ≤ 100000000) : resResult w =
      { measuredResult w .value .res with resistance := roundHalfUp (w.sumV.natAbs * 1000000) w.sumI.natAbs } :=
  (resResult_value enough along).trans (if_neg (not_or.2 ⟨Nat.not_lt.2 flows, Nat.not_lt.2 within⟩))

end

theorem resResult_carries (w : Window) : Carries w (resResult w) .res := by
  unfold resResult
  dsimp only
  split
  · exact measuredResult_carries w _ _
  · split
    · exact measuredResult_carries w _ _
    · split <;> exact measuredResult_carries w .value .res

theorem resResult_le (w : Window) : (resResult w).resistance ≤ 100000000 := by
  unfold resResult
  dsimp only
  split
  · exact Nat.zero_le _
  · split
    · exact Nat.zero_le _
    · split
      · exact le_rfl
      · next h => exact Nat.le_of_not_lt fun above => h (.inr above)

/-! ### CAP (R131, R132) -/

/-- The settled voltage, from the latest eight samples. -/
def settledVoltage (w : Window) : Int := roundHalfAway ((w.tail.map (·.1)).sum) 8

/-- The charge above the leakage of the latest eight samples. -/
def chargeAbove (w : Window) : Int :=
  let tail := (w.tail.map (·.2)).sum
  (w.sumI - tail - ((w.taken : Int) - 8) * roundHalfAway tail 8) * w.interval

theorem capResult_invalid (s : State) (low : (settledVoltage w).natAbs < 1000) :
    capResult s w = measuredResult w .invalid .cap := if_pos low

/-- A CAP result with a settled voltage, `c` before it is clamped. -/
def capValue (w : Window) (c perKm : Nat) (negative : Bool) : StepResult :=
  { measuredResult w .value .cap with
    capacitance := min c 10000000, negative := negative, clamped := decide (10000000 < c)
    length := min (min c 10000000 * 1000 / perKm) 99999 }

section
variable (s : State) (full : 8 ≤ w.taken) (enough : 1000 ≤ (settledVoltage w).natAbs)
include full enough

theorem capResult_value : capResult s w = capValue w
    (if (chargeAbove w).sign = (settledVoltage w).sign then
      roundHalfUp (chargeAbove w).natAbs (settledVoltage w).natAbs else 0)
    (capPerKm s w.line w.leg) (decide (chargeAbove w ≠ 0 ∧ (chargeAbove w).sign ≠ (settledVoltage w).sign)) := by
  have charge : (w.sumI - (w.tail.map (·.2)).sum - (w.taken - 8 : Nat) * roundHalfAway ((w.tail.map (·.2)).sum) 8) *
      w.interval = chargeAbove w := by rw [Nat.cast_sub full]; rfl
  rw [capResult, charge]
  exact if_neg (Nat.not_lt.2 enough)

theorem capResult_noCharge (none : chargeAbove w = 0) :
    capResult s w = capValue w 0 (capPerKm s w.line w.leg) false := by
  have apart : (chargeAbove w).sign ≠ (settledVoltage w).sign := fun same => by
    rw [none, Int.sign_zero, eq_comm, Int.sign_eq_zero_iff_zero] at same
    rw [same] at enough
    exact absurd enough (by decide)
  rw [capResult_value s full enough, if_neg apart]
  simp [none]

theorem capResult_against
    (against : (0 < chargeAbove w ∧ settledVoltage w < 0) ∨ (chargeAbove w < 0 ∧ 0 < settledVoltage w)) :
    capResult s w = capValue w 0 (capPerKm s w.line w.leg) true := by
  have apart := sign_ne_of_against against
  have some : chargeAbove w ≠ 0 := by omega
  rw [capResult_value s full enough, if_neg apart, decide_eq_true ⟨some, apart⟩]

theorem capResult_along
    (along : (0 < chargeAbove w ∧ 0 < settledVoltage w) ∨ (chargeAbove w < 0 ∧ settledVoltage w < 0)) :
    capResult s w = capValue w (roundHalfUp (chargeAbove w).natAbs (settledVoltage w).natAbs)
      (capPerKm s w.line w.leg) false := by
  have same := sign_eq_of_along along
  rw [capResult_value s full enough, if_pos same, decide_eq_false fun h => h.2 same]

end

theorem capResult_carries (s : State) (w : Window) : Carries w (capResult s w) .cap := by
  unfold capResult
  dsimp only
  split
  · exact measuredResult_carries w _ _
  · exact measuredResult_carries w .value .cap

/-- The capacitance per km of a provisioned line (R49). -/
theorem capPerKm_provisioned {s : State} {line : Nat} {d : DirectoryEntry} (hd : directoryAt s line = some d) (l : Leg) :
    capPerKm s line l =
      if l = .tipRing then (profileAt s d.profile).capTipRing else (profileAt s d.profile).capLegGround := by
  rw [capPerKm, hd]

end

end Sys2Proof.Machine
end

section
/-! PROOFS. The verdicts on a record (R144 to R149). -/

namespace Sys2Proof.Machine
open Sys2Proof

/-! ### A class failed by its least value (R145, R147) -/

/-- The least value, where it is below the limit, is the failure's. -/
theorem judgeLow_fail {values : List Nat} {limit v : Nat} (hv : v ∈ values) (below : v < limit)
    (least : ∀ u ∈ values, v ≤ u) : judgeLow values limit = .fail (some v) := by
  have found : (values.filter (· < limit)).min? = some v :=
    List.min?_eq_some_iff.2 ⟨List.mem_filter.2 ⟨hv, decide_eq_true below⟩, fun u hu => least u (List.mem_filter.1 hu).1⟩
  rw [judgeLow, found]

theorem judgeLow_pass {values : List Nat} {limit : Nat} (some : values ≠ []) (h : ∀ v ∈ values, limit ≤ v) :
    judgeLow values limit = .pass := by
  have none : values.filter (· < limit) = [] :=
    List.filter_eq_nil_iff.2 fun v hv below => Nat.not_lt.2 (h v hv) (of_decide_eq_true below)
  rw [judgeLow, none]
  exact if_neg some

/-- The values are those of the results that judge a class, none of them left out. -/
def JudgedBy {α : Type} (values : List α) (judges : StepResult → Prop) (value : StepResult → α) : Prop :=
  ∀ v, v ∈ values ↔ ∃ r, judges r ∧ value r = v

section
variable {α : Type} {values : List α} {judges : StepResult → Prop} {value : StepResult → α}

theorem JudgedBy.empty (h : JudgedBy values judges value) (none : ∀ r, ¬ judges r) : values = [] :=
  List.eq_nil_iff_forall_not_mem.2 fun v hv =>
    let ⟨r, hr, _⟩ := (h v).1 hv
    none r hr

/-- Of values that judge, those that a further test keeps. -/
theorem JudgedBy.filter (h : JudgedBy values judges value) (p : α → Prop) [DecidablePred p] :
    JudgedBy (values.filter p) (fun r => judges r ∧ p (value r)) value := by
  intro v
  rw [List.mem_filter, h v, decide_eq_true_iff]
  exact ⟨fun ⟨⟨r, hj, e⟩, hp⟩ => ⟨r, ⟨hj, e ▸ hp⟩, e⟩, fun ⟨r, ⟨hj, hp⟩, e⟩ => ⟨⟨r, hj, e⟩, e ▸ hp⟩⟩

/-- The values of the results that a test picks out. -/
theorem judgedBy_filter {rs : List StepResult} {p : StepResult → Bool} (h : ∀ r ∈ rs, p r = true ↔ judges r)
    (mem : ∀ r, judges r → r ∈ rs) (value : StepResult → α) : JudgedBy ((rs.filter p).map value) judges value := by
  intro v
  simp only [List.mem_map, List.mem_filter]
  exact exists_congr fun r => and_congr_left' ⟨fun ⟨hr, hp⟩ => (h r hr).1 hp, fun hj => ⟨mem r hj, (h r (mem r hj)).2 hj⟩⟩

end

/-- The three verdicts on a class that fails by its least value (R145, R147). -/
theorem JudgedBy.verdict {values : List Nat} {judges : StepResult → Prop} {value : StepResult → Nat}
    (h : JudgedBy values judges value) (limit : Nat) :
    (∀ r, judges r → value r < limit → (∀ q, judges q → value r ≤ value q) →
      judgeLow values limit = .fail (some (value r))) ∧
    ((∃ r, judges r) → (∀ r, judges r → limit ≤ value r) → judgeLow values limit = .pass) ∧
    ((∀ r, ¬ judges r) → judgeLow values limit = .notJudged) := by
  refine ⟨fun r hr below least => ?_, fun ⟨r, hr⟩ above => ?_, fun none => ?_⟩
  · refine judgeLow_fail ((h _).2 ⟨r, hr, rfl⟩) below fun u hu => ?_
    obtain ⟨q, hq, rfl⟩ := (h u).1 hu
    exact least q hq
  · refine judgeLow_pass (List.ne_nil_of_mem ((h _).2 ⟨r, hr, rfl⟩)) fun u hu => ?_
    obtain ⟨q, hq, rfl⟩ := (h u).1 hu
    exact above q hq
  · rw [h.empty none]
    rfl

section
variable {p : Profile} {rs : List StepResult}

/-- The resistances of a leg (R145). -/
theorem resistances_judgedBy (l : Leg) : JudgedBy (resistances rs l)
    (fun r => (r ∈ rs ∧ r.kind = .res ∧ r.status = .value) ∧ r.leg = some l) (·.resistance) :=
  judgedBy_filter (fun r hr => by simp [hr, and_assoc]) (fun r h => h.1.1) _

/-- The lengths of the CAP results without NEGATIVE on tip to ring (R147). -/
theorem lengths_judgedBy : JudgedBy
    ((rs.filter (fun r => r.kind = .cap ∧ r.status = .value ∧ r.leg = some .tipRing ∧ r.negative = false)).map (·.length))
    (fun r => ((r ∈ rs ∧ r.kind = .cap ∧ r.status = .value) ∧ r.leg = some .tipRing) ∧ r.negative = false) (·.length) :=
  judgedBy_filter (fun r hr => by simp [hr, and_assoc]) (fun r h => h.1.1.1) _

/-! ### FOREIGN_DC and FOREIGN_AC (R146) -/

theorem allFvValued_iff :
    allFvValued rs = true ↔ (∃ r ∈ rs, r.kind = .fv) ∧ ∀ r ∈ rs, r.kind = .fv → r.status = .value := by
  rw [allFvValued, decide_eq_true_iff]
  simp [List.filter_eq_nil_iff, imp_iff_not_or]

/-- One of some DC values, of a magnitude that none exceeds; none of no values. -/
def GreatestOf (ds : List Int) : Option Int → Prop
  | none => ds = []
  | some m => m ∈ ds ∧ ∀ d ∈ ds, d.natAbs ≤ m.natAbs

theorem greatestOf_greatestDc (ds : List Int) : GreatestOf ds (greatestDc ds) := by
  unfold greatestDc
  induction ds using List.reverseRecOn with
  | nil => rfl
  | append_singleton ds d ih =>
    rw [List.foldl_append]
    generalize ds.foldl _ none = best at ih ⊢
    cases best with
    | none =>
      obtain rfl : ds = [] := ih
      exact ⟨List.mem_singleton_self d, fun x hx => List.mem_singleton.1 hx ▸ le_rfl⟩
    | some b =>
      obtain ⟨mem, most⟩ := ih
      rw [List.foldl_cons, List.foldl_nil]
      dsimp only
      split
      · next greater =>
        have least : b.natAbs ≤ d.natAbs := greater.elim le_of_lt fun tie => tie.1.le
        refine ⟨List.mem_append_right _ (List.mem_singleton_self d), fun x hx => ?_⟩
        rcases List.mem_append.1 hx with hx | hx
        · exact (most x hx).trans least
        · exact List.mem_singleton.1 hx ▸ le_rfl
      · next kept =>
        refine ⟨List.mem_append_left _ mem, fun x hx => ?_⟩
        rcases List.mem_append.1 hx with hx | hx
        · exact most x hx
        · exact List.mem_singleton.1 hx ▸ Nat.le_of_not_lt fun less => kept (.inl less)

/-- The FV results with a value (R128). -/
def ValuedFv (rs : List StepResult) (r : StepResult) : Prop := r ∈ rs ∧ r.kind = .fv ∧ r.status = .value

/-- The FV values of one sort above a limit. -/
theorem valuedFv_judgedBy {α : Type} (value : StepResult → α) (above : α → Prop) [DecidablePred above] :
    JudgedBy (((rs.filter (fun r => r.kind = .fv ∧ r.status = .value)).map value).filter above)
      (fun r => ValuedFv rs r ∧ above (value r)) value :=
  (judgedBy_filter (fun r hr => by simp [ValuedFv, hr]) (fun r h => h.1) value).filter above

/-- A DC above the limit fails the class with the greatest of them. -/
theorem judgeForeignDc_above (h : ∃ r, ValuedFv rs r ∧ p.foreignDc < r.dc.natAbs) :
    ∃ r, (ValuedFv rs r ∧ p.foreignDc < r.dc.natAbs) ∧
      (∀ q, ValuedFv rs q ∧ p.foreignDc < q.dc.natAbs → q.dc.natAbs ≤ r.dc.natAbs) ∧
      judgeForeignDc p rs = .fail (some r.dc) := by
  have judged := valuedFv_judgedBy (rs := rs) (·.dc) (fun d => p.foreignDc < d.natAbs)
  unfold judgeForeignDc
  dsimp only
  generalize List.filter _ _ = above at judged
  obtain ⟨r, hr⟩ := h
  have some : above ≠ [] := List.ne_nil_of_mem ((judged _).2 ⟨r, hr, rfl⟩)
  have greatest := greatestOf_greatestDc above
  rw [if_pos (.inl some)]
  cases chosen : greatestDc above with rw [chosen] at greatest
  | none => exact absurd greatest some
  | some m =>
    obtain ⟨mem, most⟩ := greatest
    obtain ⟨r, hr, rfl⟩ := (judged m).1 mem
    exact ⟨r, hr, fun q hq => most _ ((judged _).2 ⟨q, hq, rfl⟩), rfl⟩

/-- With none above the limit, a FOREIGN result fails the class without a value, and else it is judged by the FV
steps. -/
theorem judgeForeignDc_within (within : ∀ r, ¬ (ValuedFv rs r ∧ p.foreignDc < r.dc.natAbs)) : judgeForeignDc p rs =
    if ∃ r ∈ rs, r.kind = .res ∧ r.status = .foreign then .fail none
    else if allFvValued rs then .pass else .notJudged := by
  have empty := (valuedFv_judgedBy (·.dc) (fun d => p.foreignDc < d.natAbs)).empty within
  simp only [judgeForeignDc, empty, ne_eq, not_true_eq_false, false_or, List.any_eq_true, decide_eq_true_eq]
  rfl

theorem judgeForeignAc_above {r : StepResult} (hr : ValuedFv rs r ∧ p.foreignAc < r.ac)
    (most : ∀ q, ValuedFv rs q ∧ p.foreignAc < q.ac → q.ac ≤ r.ac) : judgeForeignAc p rs = .fail (some r.ac) := by
  have judged := valuedFv_judgedBy (rs := rs) (·.ac) (p.foreignAc < ·)
  have greatest : List.max? _ = some r.ac := List.max?_eq_some_iff.2 ⟨(judged _).2 ⟨r, hr, rfl⟩, fun u hu =>
    let ⟨q, hq, e⟩ := (judged u).1 hu
    e ▸ most q hq⟩
  rw [judgeForeignAc, greatest]

theorem judgeForeignAc_within (within : ∀ r, ¬ (ValuedFv rs r ∧ p.foreignAc < r.ac)) :
    judgeForeignAc p rs = if allFvValued rs then .pass else .notJudged := by
  rw [judgeForeignAc, (valuedFv_judgedBy (·.ac) (p.foreignAc < ·)).empty within]
  rfl

/-! ### DIAL_FAULT (R148) -/

/-- A digit of the record carries this speed and break ratio. -/
def Timed (rs : List StepResult) (speed ratio : Nat) : Prop :=
  ∃ r ∈ rs, ∃ d ∈ r.digits, d.timing = some (speed, ratio)

/-- Both are within the profile's ranges. -/
abbrev Within (p : Profile) (speed ratio : Nat) : Prop :=
  p.speedMin ≤ speed ∧ speed ≤ p.speedMax ∧ p.ratioMin ≤ ratio ∧ ratio ≤ p.ratioMax

theorem mem_timings {speed ratio : Nat} :
    (speed, ratio) ∈ (rs.flatMap (·.digits)).filterMap (·.timing) ↔ Timed rs speed ratio := by
  simp only [List.mem_filterMap, List.mem_flatMap, Timed]
  exact ⟨fun ⟨d, ⟨r, hr, hd⟩, e⟩ => ⟨r, hr, d, hd, e⟩, fun ⟨r, hr, d, hd, e⟩ => ⟨d, ⟨r, hr, hd⟩, e⟩⟩

theorem judgeDial_fail {speed ratio : Nat} (timed : Timed rs speed ratio) (out : ¬ Within p speed ratio) :
    judgeDial p rs = .fail none := by
  have mem := mem_timings.2 timed
  rw [judgeDial, if_neg (List.ne_nil_of_mem mem), if_neg]
  exact fun all => out (of_decide_eq_true (List.all_eq_true.1 all _ mem))

theorem judgeDial_pass (some : ∃ speed ratio, Timed rs speed ratio)
    (within : ∀ speed ratio, Timed rs speed ratio → Within p speed ratio) : judgeDial p rs = .pass := by
  obtain ⟨speed, ratio, timed⟩ := some
  rw [judgeDial, if_neg (List.ne_nil_of_mem (mem_timings.2 timed)), if_pos]
  exact List.all_eq_true.2 fun t ht => decide_eq_true (within t.1 t.2 (mem_timings.1 ht))

theorem judgeDial_notJudged (none : ∀ speed ratio, ¬ Timed rs speed ratio) : judgeDial p rs = .notJudged :=
  if_pos (List.eq_nil_iff_forall_not_mem.2 fun t ht => none t.1 t.2 (mem_timings.1 ht))

end
end Sys2Proof.Machine
end

section
/-! PROOFS. What the application of a record's verdicts leaves: the arbiter but for the HAZARD_HOLD, and the failed
classes (R150, R156). -/

namespace Sys2Proof.Machine
open Sys2Proof

variable {s : State}

/-! ### The ticket manager leaves the arbiter alone -/

@[simp] theorem notify_arbiter (n : Notice) : (notify s n).arbiter = s.arbiter := by
  unfold notify
  refine List.foldlRecOn _ _ (motive := fun t : State => t.arbiter = s.arbiter) rfl fun t ht u _ => ?_
  unfold offerToUnit
  dsimp only
  repeat' split
  all_goals exact ht

@[simp] theorem cableNotice_arbiter (g : Nat) (noSlot : Bool) : (cableNotice s g noSlot).arbiter = s.arbiter :=
  notify_arbiter _

@[simp] theorem ticketNotice_arbiter (t : Ticket) (st : NoticeState) : (ticketNotice s t st).arbiter = s.arbiter :=
  notify_arbiter _

@[simp] theorem modTicket_arbiter (id : Nat) (f : Ticket → Ticket) : (modTicket s id f).arbiter = s.arbiter := rfl
@[simp] theorem freeTicket_arbiter (id : Nat) : (freeTicket s id).arbiter = s.arbiter := rfl
@[simp] theorem addTicket_arbiter (t : Ticket) : (addTicket s t).arbiter = s.arbiter := rfl
@[simp] theorem detachMembers_arbiter (g : Nat) : (detachMembers s g).arbiter = s.arbiter := rfl
@[simp] theorem beginStorm_arbiter (g id : Nat) : (beginStorm s g id).arbiter = s.arbiter := rfl
@[simp] theorem evictTicket_arbiter (ev : Option Ticket) : (evictTicket s ev).arbiter = s.arbiter := by
  cases ev <;> rfl

@[simp] theorem exitStorm_arbiter (g : Nat) : (exitStorm s g).arbiter = s.arbiter := by
  unfold exitStorm
  dsimp only
  split <;> split <;> simp

@[simp] theorem changeNoticed_arbiter (t : Ticket) (st : NoticeState) (d : Membership) :
    (changeNoticed s t st d).arbiter = s.arbiter := by
  unfold changeNoticed
  dsimp only
  split
  · simp
  · split
    · repeat' split
      all_goals simp
    · simp

@[simp] theorem evictedNoticed_arbiter (before : State) (ev : Option Ticket) :
    (evictedNoticed before s ev).arbiter = s.arbiter := by
  unfold evictedNoticed
  repeat' split
  all_goals simp

theorem evictedTested_arbiter {test : State → Ticket → State} (h : ∀ s t, (test s t).arbiter = s.arbiter)
    (ev : Option Ticket) : (evictedTested test s ev).arbiter = s.arbiter := by
  unfold evictedTested
  repeat' split
  all_goals simp [h]

theorem enterStorm_arbiter {test : State → Ticket → State} (h : ∀ s t, (test s t).arbiter = s.arbiter) (g : Nat)
    (base : TicketBase) : (enterStorm test s g base).arbiter = s.arbiter := by
  unfold enterStorm raiseCableTicket
  dsimp only
  split
  · simp
  · split <;> simp [evictedTested_arbiter h]

@[simp] theorem entryTested_arbiter (base : TicketBase) (s : State) (t : Ticket) :
    (entryTested base s t).arbiter = s.arbiter := by
  unfold entryTested
  generalize s.tickets.tickets.length + 1 = fuel
  induction fuel generalizing s t with
  | zero => rfl
  | succ fuel ih =>
    unfold entryAfter
    repeat' split
    · rfl
    · exact enterStorm_arbiter ih _ _
    · rfl

@[simp] theorem handChange_arbiter (t : Ticket) (st : NoticeState) (d : Membership) (base : TicketBase) :
    (handChange s t st d base).arbiter = s.arbiter := by
  unfold handChange
  dsimp only
  split <;> simp

@[simp] theorem failTicket_arbiter (u : Subject) (c : FaultClass) (o : Origin) (value : Option Int) (base : TicketBase) :
    (failTicket s u c o value base).1.arbiter = s.arbiter := by
  unfold failTicket
  split
  · unfold createTicket
    split
    · rfl
    · simp [evictedTested_arbiter (entryTested_arbiter _)]
  · dsimp only
    split <;> simp

@[simp] theorem passTicket_arbiter (u : Subject) (c : FaultClass) (base : TicketBase) :
    (passTicket s u c base).1.arbiter = s.arbiter := by
  unfold passTicket
  repeat' split
  all_goals simp

/-! ### The verdicts applied in class order (R150) -/

/-- A class is judged FAIL. -/
def isFail : Verdict → Bool
  | .fail _ => true
  | _ => false

theorem isFail_iff (v : Verdict) : isFail v = true ↔ v ≠ .pass ∧ v ≠ .notJudged := by
  cases v <;> simp [isFail]

section
variable (found : List Ticket) (len : Nat) (o : Origin) (a : Applied)

theorem applyVerdict_arbiter (c : FaultClass) (v : Verdict) :
    (applyVerdict found len o a c v).state.arbiter = a.state.arbiter := by
  unfold applyVerdict
  split
  · rfl
  · next value =>
    have kept := failTicket_arbiter (s := a.state) (.line len) c o value (some found)
    split <;> next e => rw [e] at kept; exact kept
  · have kept := passTicket_arbiter (s := a.state) (.line len) c (some found)
    split <;> next e => rw [e] at kept; exact kept

/-- A class is listed failed exactly where it is judged so. -/
theorem applyVerdict_failed (c : FaultClass) (v : Verdict) : (applyVerdict found len o a c v).failed.map (·.1) =
    a.failed.map (·.1) ++ if isFail v then [c] else [] := by
  unfold applyVerdict
  split
  · simp [isFail]
  · split <;> simp [isFail]
  · split <;> simp [isFail]

theorem applyVerdicts_arbiter (cs : List FaultClass) (verdict : FaultClass → Verdict) :
    (cs.foldl (fun a c => applyVerdict found len o a c (verdict c)) a).state.arbiter = a.state.arbiter := by
  induction cs generalizing a with
  | nil => rfl
  | cons c cs ih => exact (ih _).trans (applyVerdict_arbiter found len o a c _)

theorem applyVerdicts_failed (cs : List FaultClass) (verdict : FaultClass → Verdict) :
    (cs.foldl (fun a c => applyVerdict found len o a c (verdict c)) a).failed.map (·.1) =
      a.failed.map (·.1) ++ cs.filter (fun c => isFail (verdict c)) := by
  induction cs generalizing a with
  | nil => simp
  | cons c cs ih =>
    rw [List.foldl_cons, ih, applyVerdict_failed, List.filter_cons]
    split <;> simp

end

/-! ### The HAZARD_HOLD (R149, R156) -/

/-- A line's HAZARD_HOLD alone follows its settling verdict. -/
theorem holdOf_applyHold (len : Nat) (v : SettlingVerdict) (k : Nat) : holdOf (applyHold s len (judgeHazard v)) k =
    if k = len then (if v = .hazard then true else if v = .clear then false else holdOf s len) else holdOf s k := by
  have keeps : holdOf s k = if k = len then holdOf s len else holdOf s k := by
    split
    · next same => rw [same]
    · rfl
  cases v with
  | hazard => exact tabGet_tabPut false s.arbiter.holds len k true
  | clear => exact tabGet_tabPut false s.arbiter.holds len k false
  | unqualified => exact keeps
  | notJudged => exact keeps

/-- A record without a step that was run brings no settling verdict (R165). -/
theorem recordVerdict_eq (r : ResultRecord) (settling : SettlingVerdict) : recordVerdict r settling =
    if r.outcome = .restarted ∧ ∀ x ∈ r.results, x.status = .notRun then .notJudged else settling := by
  simp only [recordVerdict, List.all_eq_true, decide_eq_true_eq]

section
variable {d : DirectoryEntry} {r : ResultRecord} (settling : SettlingVerdict)

/-- The profile of the line's entry judges, and the failed classes are listed in class order (R150). -/
theorem classify_failed (hd : directoryAt s r.line = some d) : (classify s r settling).2.failed.map (·.1) =
    lineClasses.filter (fun c =>
      isFail (judge (profileAt s d.profile) r.results (recordVerdict r settling) c)) := by
  simp only [classify, hd]
  exact applyVerdicts_failed ..

theorem holdOf_classify (k : Nat) :
    let v := recordVerdict r settling
    holdOf (classify s r settling).1 k =
      if k = r.line then (if v = .hazard then true else if v = .clear then false else holdOf s r.line)
      else holdOf s k := by
  obtain ⟨t, kept, held⟩ : ∃ t : State, t.arbiter = s.arbiter ∧
      (classify s r settling).1 = applyHold t r.line (judgeHazard (recordVerdict r settling)) :=
    ⟨_, applyVerdicts_arbiter .., rfl⟩
  have same (n : Nat) : holdOf t n = holdOf s n := by rw [holdOf, kept]; rfl
  simp only [held, holdOf_applyHold, same]

end
end Sys2Proof.Machine
end

section
/-! PROOFS. The windows' values, the verdicts on a record and what its classification leaves: O60. -/

namespace Sys2Proof.Machine
open Sys2Proof

/-- Settles O60: the windows by the branches of their computations, the verdicts class by class, and the record. -/
theorem resistanceTests : Obligations.ResistanceTests := by
  unfold Obligations.ResistanceTests
  refine ⟨fun s w => ?_, fun p rs v => ?_, fun s r d settling hd => ?_⟩
  · refine ⟨fun _ pos bound => ⟨measuredResult_carries w .value .fv, rfl, rfl, fvResult_ac rfl pos bound⟩,
      ⟨resResult_carries w, fun low => ?_, fun enough against => ?_, fun enough along => ?_, resResult_le w⟩,
      fun d hd full => ⟨capResult_carries s w, fun low => ?_, fun enough _ => ?_⟩⟩
    · rw [resResult_invalid low]
      exact ⟨rfl, rfl, rfl⟩
    · rw [resResult_foreign enough against]
      exact ⟨rfl, rfl, rfl⟩
    · refine ⟨resResult_status enough along, fun less => ?_, fun flows within => ?_, fun _ above => ?_⟩
      · rw [resResult_limit enough along (.inl less)]
        exact ⟨rfl, rfl⟩
      · rw [resResult_resistance enough along flows within]
        exact ⟨rfl, rfl⟩
      · rw [resResult_limit enough along (.inr above)]
        exact ⟨rfl, rfl⟩
    · rw [capResult_invalid s low]
      exact ⟨rfl, rfl, rfl, rfl, rfl⟩
    · rw [← capPerKm_provisioned hd w.leg]
      refine ⟨?_, ?_, fun none => ?_, fun against => ?_, fun along => ?_⟩
      · rw [capResult_value s full enough]
        rfl
      · rw [capResult_value s full enough]
        rfl
      · rw [capResult_noCharge s full enough none]
        exact ⟨rfl, rfl, rfl⟩
      · rw [capResult_against s full enough against]
        exact ⟨rfl, rfl, rfl⟩
      · rw [capResult_along s full enough along]
        exact ⟨rfl, fun within => ⟨Nat.min_eq_left within, decide_eq_false (Nat.not_lt.2 within)⟩,
          fun above => ⟨Nat.min_eq_right above.le, decide_eq_true above⟩⟩
  · refine ⟨(resistances_judgedBy .tipGround).verdict _, (resistances_judgedBy .ringGround).verdict _,
      (resistances_judgedBy .tipRing).verdict _, ((resistances_judgedBy .tipRing).filter (p.short ≤ ·)).verdict _,
      lengths_judgedBy.verdict _, judgeForeignDc_above, fun calm foreign => ?_, fun calm clean measured => ?_,
      fun calm clean lacking => ?_, fun r => judgeForeignAc_above, fun calm measured => ?_, fun calm lacking => ?_,
      fun _ _ => judgeDial_fail, judgeDial_pass, judgeDial_notJudged, ?_, ?_, ?_⟩
    · exact (judgeForeignDc_within calm).trans (if_pos foreign)
    · exact (judgeForeignDc_within calm).trans ((if_neg clean).trans (if_pos (allFvValued_iff.2 measured)))
    · exact (judgeForeignDc_within calm).trans ((if_neg clean).trans (if_neg (allFvValued_iff.not.2 lacking)))
    · exact (judgeForeignAc_within calm).trans (if_pos (allFvValued_iff.2 measured))
    · exact (judgeForeignAc_within calm).trans (if_neg (allFvValued_iff.not.2 lacking))
    · rintro rfl
      rfl
    · rintro rfl
      rfl
    · intro unjudged
      rcases List.mem_pair.1 unjudged with rfl | rfl <;> rfl
  · intro v verdict t done
    have judged : recordVerdict r settling = v := recordVerdict_eq r settling
    refine ⟨?_, List.length_take_le .., rfl, ?_, fun k other => ?_⟩
    · rw [classify_failed settling hd, judged]
      exact List.filter_congr fun c _ => Bool.eq_iff_iff.2 ((isFail_iff _).trans decide_eq_true_iff.symm)
    · rw [holdOf_classify, judged, if_pos rfl]
    · rw [holdOf_classify, if_neg other]

end Sys2Proof.Machine
end

section
/-! PROOFS. The commands on tickets and cable groups, the verdicts applied to a line's tickets, and O50. -/

namespace Sys2Proof.Machine
open Sys2Proof

variable {s : State} {i : Instr} {src : Octet} {tag : Half} {c : Command} {r : ResponseCode}

/-! ### A command that changes the tickets alone (R196 to R198) -/

/-- The part with another list of tickets. -/
def withTickets (s : State) (ts : List Ticket) : State := { s with tickets := { s.tickets with tickets := ts } }

theorem withTickets_self {ts : List Ticket} (h : s.tickets.tickets = ts) : withTickets s ts = s := by
  subst h
  rfl

/-- An accepted command whose effect lies in the list of tickets. -/
theorem exec_ticketsChanged {ts : List Ticket} (hi : rowCommand i = some (src, tag, c)) (h : Accepts s src 1 .ticket)
    (hc : IsPlainCommand c .ticket)
    (run : carryOut (reservePlaces s 1) src c = (withTickets (reservePlaces s 1) ts, plainAnswer r)) :
    exec i s = .next (answered (withTickets s ts) src tag (commandCode c) r) := by
  obtain ⟨awake, room, held⟩ := h
  obtain ⟨group, places, notRestart⟩ := hc
  rw [exec_carriedOut (d := withTickets s ts) hi awake room places notRestart (permitted_of_group group held) run rfl,
    settle_nil (s := answered (withTickets s ts) src tag (commandCode c) r) _ awake.2]

/-! ### One ticket of the table -/

theorem find?_of_first {α : Type} {p : α → Bool} {before after : List α} {a : α} (ha : p a = true)
    (first : ∀ y ∈ before, p y = false) : (before ++ a :: after).find? p = some a := by
  rw [List.find?_append, List.find?_eq_none.2 fun y hy => Bool.eq_false_iff.1 (first y hy), Option.none_or,
    List.find?_cons_of_pos ha]

theorem ticketAt_none {id : Nat} (empty : ∀ u ∈ s.tickets.tickets, u.id ≠ id) : ticketAt s id = none :=
  List.find?_eq_none.2 fun u hu => by simpa using empty u hu

section
variable {before after : List Ticket} {t : Ticket} (table : s.tickets.tickets = before ++ t :: after)
include table

theorem ticketAt_first (first : ∀ u ∈ before, u.id ≠ t.id) : ticketAt s t.id = some t := by
  rw [ticketAt, table]
  exact find?_of_first (decide_eq_true rfl) fun u hu => decide_eq_false (first u hu)

theorem findTicket_first {u : Subject} {c : FaultClass} (hu : t.subject = u) (hc : t.cls = c)
    (first : ∀ y ∈ before, y.subject ≠ u ∨ y.cls ≠ c) : findTicket s u c = some t := by
  rw [findTicket, table]
  exact find?_of_first (decide_eq_true ⟨hu, hc⟩) fun y hy => decide_eq_false (not_and_or.2 (first y hy))

variable (unique : ∀ u ∈ before ++ after, u.id ≠ t.id)
include unique

/-- The change of one ticket leaves the others, and the order, as they are. -/
theorem modTicket_eq (f : Ticket → Ticket) : modTicket s t.id f = withTickets s (before ++ f t :: after) := by
  have same (l : List Ticket) (hl : ∀ u ∈ l, u.id ≠ t.id) : l.map (fun u => if u.id = t.id then f u else u) = l :=
    (List.map_congr_left fun u hu => if_neg (hl u hu)).trans (List.map_id l)
  rw [modTicket, onTickets, table, List.map_append, List.map_cons, if_pos rfl,
    same before fun u hu => unique u (List.mem_append_left _ hu),
    same after fun u hu => unique u (List.mem_append_right _ hu)]
  rfl

theorem freeTicket_eq : freeTicket s t.id = withTickets s (before ++ after) := by
  rw [freeTicket, onTickets, table, List.filter_append, List.filter_cons_of_neg (by simp), ← List.filter_append,
    List.filter_eq_self.2 fun u hu => decide_eq_true (unique u hu)]
  rfl

/-! ### TICKET_DISPATCH and TICKET_CLOSE (R162, R163) -/

section
variable (quiet : NoNotices s) (groupless : wetGroup s t = none) {x : Octet} (hx : t.id = x.toNat)
include quiet groupless hx

/-- A standing ticket past SUSPECT is dispatched, in its place. -/
theorem ticketDispatch_standing (h : t.state ∈ [.opened, .dispatched]) (dtag : Half) :
    ticketDispatch s x dtag =
      (withTickets s (before ++ { t with state := .dispatched, dispatch := some dtag } :: after), .done) := by
  have held := ticketAt_first table fun u hu => unique u (List.mem_append_left _ hu)
  let new : Ticket := { t with state := .dispatched, dispatch := some dtag }
  have changed : modTicket s t.id (fun _ => new) = withTickets s (before ++ new :: after) :=
    modTicket_eq table unique _
  simp only [ticketDispatch, ← hx, held]
  rcases List.mem_pair.1 h with st | st <;> simp only [st]
  · rw [handChange_groupless (s := modTicket s t.id fun _ => new) (tk := new) quiet groupless, changed]
  · rw [changed]

/-- A CLEARED ticket leaves the table. -/
theorem ticketClose_cleared (h : t.state = .cleared) :
    ticketClose s src x false = (withTickets s (before ++ after), .done) := by
  have held := ticketAt_first table fun u hu => unique u (List.mem_append_left _ hu)
  simp only [ticketClose, ← hx, held, h, closeTicket, Bool.false_eq_true, if_false, if_true]
  rw [handChange_groupless (s := freeTicket s t.id) quiet groupless, freeTicket_eq table unique]

end

end

section
variable {t : Ticket} {x : Octet} (held : ticketAt s x.toNat = some t)
include held

theorem ticketDispatch_refused (h : t.state ∈ [.suspect, .cleared]) (dtag : Half) :
    ticketDispatch s x dtag = (s, .state) := by
  rcases List.mem_pair.1 h with st | st <;> simp only [ticketDispatch, held, st]

theorem ticketClose_refused (h : t.state ≠ .cleared) : ticketClose s src x false = (s, .state) := by
  simp only [ticketClose, held, h, Bool.false_eq_true, if_false]

theorem ticketClose_unprivileged (h : src ≠ maintenance) : ticketClose s src x true = (s, .refusedPrivilege) := by
  simp only [ticketClose, held, h, ne_eq, not_false_eq_true, if_true]

end

theorem ticketDispatch_empty {x : Octet} (h : ticketAt s x.toNat = none) (dtag : Half) :
    ticketDispatch s x dtag = (s, .notFound) := by
  simp only [ticketDispatch, h]

theorem ticketClose_empty {x : Octet} (h : ticketAt s x.toNat = none) (force : Bool) :
    ticketClose s src x force = (s, .notFound) := by
  simp only [ticketClose, h]

/-! ### CABLE_ACK (R175) -/

theorem cableAck_outside {g : Octet} (h : 63 < g.toNat) : cableAck s g = (s, .range) := if_pos h

theorem cableAck_calm {g : Octet} (hg : g.toNat ≤ 63) (calm : (groupAt s g.toNat).storm = false) :
    cableAck s g = (s, .state) := by
  simp only [cableAck, Nat.not_lt.2 hg, calm, if_false, if_true]

theorem cableAck_storm {g : Octet} {id : Nat} (hg : g.toNat ≤ 63) (storm : (groupAt s g.toNat).storm = true)
    (cable : (groupAt s g.toNat).ticket = some id) :
    cableAck s g = (modTicket s id (fun t => { t with acknowledged := true }), .done) := by
  simp only [cableAck, Nat.not_lt.2 hg, storm, cable, Bool.true_eq_false, if_false]

/-! ### A verdict on a line class (R152, R153, R155) -/

/-- The ticket as a failure leaves it (R152, R155). -/
def failedAgain (s : State) (v : Option Int) (t : Ticket) : Ticket :=
  match t.state with
  | .suspect => { updateTicket s v t with state := .opened }
  | .cleared => { updateTicket s v t with state := .opened, recurrences := count16 t.recurrences }
  | _ => updateTicket s v t

/-- What a failure does to a ticket in a state, but for seeing it again (R150). -/
def failureAction : TicketState → Option TicketAction
  | .suspect => some .opened
  | .cleared => some .reopened
  | _ => none

theorem wetGroup_line {len : Nat} (h : (directoryAt s len).bind (·.group) = none) {t : Ticket}
    (ht : t.subject = .line len) : wetGroup s t = none := by
  simp only [wetGroup, ht, h, ite_self]

section
variable {u : Subject} {cls : FaultClass} {o : Origin} {v : Option Int} {base : TicketBase} {t : Ticket}

/-- A failure of a ticket's subject and class (R152, R155). -/
theorem failTicket_found (quiet : NoNotices s) (groupless : wetGroup s t = none)
    (found : findTicket s u cls = some t) : failTicket s u cls o v base =
      (modTicket s t.id (fun _ => failedAgain s v t), some (t.id, failureAction t.state)) := by
  have silent (new : Ticket) (same : wetGroup s new = none) (st : NoticeState) (d : Membership) :
      handChange (modTicket s t.id fun _ => new) new st d base = modTicket s t.id fun _ => new :=
    handChange_groupless (s := modTicket s t.id fun _ => new) quiet same st d base
  simp only [failTicket, found, failedAgain]
  cases t.state
  case suspect => exact congrArg (·, _) (silent { updateTicket s v t with state := .opened } groupless _ _)
  case opened => rfl
  case dispatched => rfl
  case cleared =>
    exact congrArg (·, _) (silent
      { updateTicket s v t with state := .opened, recurrences := count16 t.recurrences } groupless _ _)

/-- A pass of a SUSPECT ticket's subject and class frees its slot (R153). -/
theorem passTicket_suspect (quiet : NoNotices s) (groupless : wetGroup s t = none)
    (found : findTicket s u cls = some t) (h : t.state = .suspect) :
    passTicket s u cls base = (freeTicket s t.id, some (t.id, .removed)) := by
  simp only [passTicket, found, h]
  rw [handChange_groupless (s := freeTicket s t.id) quiet groupless]

/-- A pass of an OPEN or DISPATCHED ticket's subject and class clears it (R153). -/
theorem passTicket_standing (quiet : NoNotices s) (groupless : wetGroup s t = none)
    (found : findTicket s u cls = some t) (h : t.state ∈ [.opened, .dispatched]) :
    passTicket s u cls base = (modTicket s t.id (fun _ => { t with state := .cleared }), some (t.id, .cleared)) := by
  have silent := handChange_groupless (s := modTicket s t.id fun _ => { t with state := .cleared })
    (tk := { t with state := .cleared }) quiet groupless .cleared .leaves base
  rcases List.mem_pair.1 h with st | st <;> simp only [passTicket, found, st, silent]

theorem passTicket_cleared (found : findTicket s u cls = some t) (h : t.state = .cleared) :
    passTicket s u cls base = (s, none) := by
  simp only [passTicket, found, h]

theorem passTicket_none (none : findTicket s u cls = none) : passTicket s u cls base = (s, .none) := by
  simp only [passTicket, none]

end

/-- A line failure without a ticket takes the lowest free general slot (R152, R157). -/
theorem failTicket_lowest {len k : Nat} {cls : FaultClass} {o : Origin} {v : Option Int} {base : TicketBase}
    (quiet : NoNotices s) (groupless : (directoryAt s len).bind (·.group) = none)
    (none : findTicket s (.line len) cls = none) (hk : k < 240) (free : ∀ u ∈ s.tickets.tickets, u.id ≠ k)
    (used : ∀ j, j < k → ∃ u ∈ s.tickets.tickets, u.id = j) :
    failTicket s (.line len) cls o v base =
      (addTicket s (newTicket s k (.line len) cls o v), some (k, some .created)) := by
  have lowest : lowestFree s 0 Config.generalSlots .none = some k :=
    lowestFree_at (Nat.zero_le k) (by rwa [Nat.zero_add]) free fun j _ hj => used j hj
  have slot : slotFor s (failureWant (.line len) cls o) base .none .none = some (k, .none) := by
    have want : failureWant (.line len) cls o ≠ .equipment := by
      simp only [failureWant, isLineSubject, if_true]
      split <;> nofun
    unfold slotFor
    dsimp only
    cases w : failureWant (.line len) cls o with
    | equipment => exact absurd w want
    | suspectLine => simp only [lowest]
    | openLine => simp only [lowest]
  simp only [failTicket, none, createTicket, slot, evictTicket, evictedNoticed, evictedTested]
  rw [handChange_groupless (s := addTicket s (newTicket s k (.line len) cls o v)) quiet (wetGroup_line groupless rfl)]

/-- The measured line classes are all but DIAL_FAULT and CROSS_HAZARD (section 7.2). -/
theorem isMeasured_line : ∀ c ∈ lineClasses, isMeasured c = true ↔ ¬ (c = .dialFault ∨ c = .crossHazard) := by decide

/-- A value written anew for a measured line class alone (R155). -/
theorem measuredValue_line {c : FaultClass} (hc : c ∈ lineClasses) (old new : Option Int) :
    (if isMeasured c = true then new else old) = if c = .dialFault ∨ c = .crossHazard then old else new := by
  simp only [isMeasured_line c hc, ite_not]

/-- A line failure's new ticket is SUSPECT from a routine record but for CROSS_HAZARD (R152). -/
theorem newTicket_line {len : Nat} {c : FaultClass} (hc : c ∈ lineClasses) (k : Nat) (o : Origin) (v : Option Int) :
    newTicket s k (.line len) c o v = {
      id := k, subject := .line len, cls := c
      state := if o = .routine ∧ c ≠ .crossHazard then .suspect else .opened
      origin := o, opened := stampNow s, lastSeen := stampNow s, occurrences := 1, recurrences := 0
      value := if c = .dialFault ∨ c = .crossHazard then none else v
      dispatch := none, attached := none, acknowledged := false } := by
  have suspect : failureWant (.line len) c o = .suspectLine ↔ o = .routine ∧ c ≠ .crossHazard := by
    simp only [failureWant, isLineSubject, if_true]
    split
    · next both => exact iff_of_true rfl both
    · next either => exact iff_of_false nofun either
  simp only [newTicket, suspect, measuredValue_line hc]

section
variable {found : List Ticket} {len : Nat} {o : Origin} {a : Applied} {cls : FaultClass} {t : State} {id : Nat}

/-- What a failure comes to in the record (R150). -/
theorem applyVerdict_fail {v : Option Int} {act : Option TicketAction}
    (h : failTicket a.state (.line len) cls o v (some found) = (t, some (id, act))) :
    applyVerdict found len o a cls (.fail v) =
      { state := t, failed := a.failed ++ [(cls, false)], actions := a.actions ++ (act.map (id, ·)).toList } := by
  simp only [applyVerdict, h]
  cases act with
  | none => exact congrArg (Applied.mk _ _) (List.append_nil _).symm
  | some x => rfl

/-- What a pass comes to in the record (R150). -/
theorem applyVerdict_pass {act : Option (Nat × TicketAction)}
    (h : passTicket a.state (.line len) cls (some found) = (t, act)) :
    applyVerdict found len o a cls .pass =
      { state := t, failed := a.failed ++ [], actions := a.actions ++ act.toList } := by
  simp only [applyVerdict, h, List.append_nil]
  cases act with
  | none => exact congrArg (Applied.mk _ _) (List.append_nil _).symm
  | some x => rfl

end

/-- Settles O50: each command by the ticket or group it names, each verdict by the state of the ticket it finds. -/
theorem ticketCommands : Obligations.TicketCommands := by
  unfold Obligations.TicketCommands
  intro s src x tag dtag before after t h quiet table hx unique tickets
  let place := reservePlaces s 1
  have unique' : ∀ u ∈ before ++ after, u.id ≠ t.id := hx ▸ unique
  have first : ∀ u ∈ before, u.id ≠ t.id := fun u hu => unique' u (List.mem_append_left _ hu)
  have held : ticketAt place x.toNat = some t := hx ▸ ticketAt_first (s := place) table first
  have dispatches {y : Octet} {ts : List Ticket} {r : ResponseCode}
      (run : ticketDispatch place y dtag = (withTickets place ts, r)) :
      exec (.ticketDispatch src tag y dtag) s = .next (answered (tickets ts) src tag 24#8 r) :=
    exec_ticketsChanged (c := .ticketDispatch y dtag) rfl h ⟨rfl, rfl, nofun⟩ (congrArg answering run)
  have closes {y : Octet} {force : Bool} {ts : List Ticket} {r : ResponseCode}
      (run : ticketClose place src y force = (withTickets place ts, r)) :
      exec (.ticketClose src tag y force) s = .next (answered (tickets ts) src tag 25#8 r) :=
    exec_ticketsChanged (c := .ticketClose y force) rfl h ⟨rfl, rfl, nofun⟩ (congrArg answering run)
  have acks {g : Octet} {ts : List Ticket} {r : ResponseCode} (run : cableAck place g = (withTickets place ts, r)) :
      exec (.cableAck src tag g) s = .next (answered (tickets ts) src tag 26#8 r) :=
    exec_ticketsChanged (c := .cableAck g) rfl h ⟨rfl, rfl, nofun⟩ (congrArg answering run)
  refine ⟨fun st groupless => ?_, fun st => ?_, fun st groupless => ?_, fun st => ?_, fun unprivileged => ?_,
    fun y empty force => ⟨?_, ?_⟩, fun g => ⟨fun outside => ?_, fun hg calm => ?_, fun hg storm cable => ?_⟩, ?_⟩
  · exact dispatches (ticketDispatch_standing (s := place) table unique' quiet groupless hx st dtag)
  · exact dispatches (ts := s.tickets.tickets) (ticketDispatch_refused held st dtag)
  · exact closes (ticketClose_cleared (s := place) table unique' quiet groupless hx st)
  · exact closes (ts := s.tickets.tickets) (ticketClose_refused held st)
  · exact closes (ts := s.tickets.tickets) (ticketClose_unprivileged held unprivileged)
  · exact closes (ts := s.tickets.tickets) (ticketClose_empty (ticketAt_none (s := place) empty) force)
  · exact dispatches (ts := s.tickets.tickets) (ticketDispatch_empty (ticketAt_none (s := place) empty) dtag)
  · exact acks (ts := s.tickets.tickets) (cableAck_outside outside)
  · exact acks (ts := s.tickets.tickets) (cableAck_calm (s := place) hg calm)
  · exact acks ((cableAck_storm (s := place) hg storm cable).trans
      (congrArg (·, _) (modTicket_eq (s := place) table unique' _)))
  · intro found len k o c v failed actions groupless hc value verdict gives seen
    have fails {u : State} {id : Nat} {act : Option TicketAction}
        (run : failTicket s (.line len) c o v (some found) = (u, some (id, act))) :
        verdict (.fail v) = { state := u, failed := failed ++ [(c, false)]
                              actions := actions ++ (act.map (id, ·)).toList } :=
      applyVerdict_fail (a := { state := s, failed := failed, actions := actions }) run
    have passes {u : State} {act : Option (Nat × TicketAction)}
        (run : passTicket s (.line len) c (some found) = (u, act)) :
        verdict .pass = { state := u, failed := failed ++ [], actions := actions ++ act.toList } :=
      applyVerdict_pass (a := { state := s, failed := failed, actions := actions }) run
    refine ⟨fun subject cls other => ?_, fun none => ⟨fun hk free used => ?_, ?_⟩, ?_⟩
    · have own := wetGroup_line groupless subject
      have finds := findTicket_first table subject cls other
      have seenEq : updateTicket s v t = seen := by
        have val : (if isMeasured t.cls = true then v else t.value) = value t.value := by
          rw [cls]
          exact measuredValue_line hc _ _
        exact congrArg (fun y => ({ t with lastSeen := _, occurrences := _, value := y } : Ticket)) val
      have failing := failTicket_found (o := o) (v := v) (base := some found) quiet own finds
      rw [modTicket_eq table unique', failedAgain, seenEq] at failing
      refine ⟨fun st => ⟨?_, ?_⟩, fun st => ⟨?_, ?_⟩, fun st => ⟨?_, ?_⟩⟩
      · rw [st] at failing
        exact fails failing
      · have passing := passTicket_suspect (base := some found) quiet own finds st
        rw [freeTicket_eq table unique'] at passing
        exact passes passing
      · rcases List.mem_pair.1 st with st | st <;> rw [st] at failing <;> exact fails failing
      · have passing := passTicket_standing (base := some found) quiet own finds st
        rw [modTicket_eq table unique'] at passing
        exact passes passing
      · rw [st] at failing
        exact fails failing
      · exact passes ((passTicket_cleared finds st).trans (congrArg (·, _) (withTickets_self table).symm))
    · have failing := failTicket_lowest (o := o) (v := v) (base := some found) quiet groupless none hk free used
      rw [newTicket_line hc] at failing
      exact fails failing
    · exact passes (passTicket_none none)
    · show Applied.mk s failed actions = gives s.tickets.tickets [] []
      simp only [gives, tickets, List.append_nil]

end Sys2Proof.Machine
end

section
/-! PROOFS. The queries of the buses, the queue, the schedules and the tickets, octet by octet, and O39. -/

namespace Sys2Proof.Machine
open Sys2Proof

variable {s : State}

/-! ### Octets of flags and halves (section 11.6, R214) -/

/-- A set of flags, from bit `k`, is the sum of its bits. -/
theorem flags_sum (flags : List Bool) (k : Nat) : 2 ^ k * flags.foldr (fun b n => 2 * n + b.toNat) 0 =
    ((flags.zipIdx k).map (fun y => if y.1 then 2 ^ y.2 else 0)).sum := by
  induction flags generalizing k with
  | nil => rfl
  | cons b rest ih =>
    have bit : 2 ^ k * b.toNat = if b then 2 ^ k else 0 := by cases b <;> simp
    rw [List.zipIdx_cons, List.map_cons, List.sum_cons, ← ih (k + 1), List.foldr_cons, Nat.mul_add, bit, pow_succ,
      Nat.mul_assoc, Nat.add_comm]

theorem flagOctet_eq (flags : List Bool) :
    flagOctet flags = octet (flags.zipIdx.map (fun y => if y.1 then 2 ^ y.2 else 0)).sum := by
  rw [flagOctet, ← flags_sum flags 0, pow_zero, Nat.one_mul]

/-- Five flags, bit by bit. -/
theorem flagOctet_five (a b c d e : Bool) : flagOctet [a, b, c, d, e] =
    octet ((if a then 2 ^ 0 else 0) + (if b then 2 ^ 1 else 0) + (if c then 2 ^ 2 else 0) + (if d then 2 ^ 3 else 0) +
      (if e then 2 ^ 4 else 0)) := by
  rw [flagOctet_eq]
  simp only [List.zipIdx_cons, List.zipIdx_nil, List.map_cons, List.map_nil, List.sum_cons, List.sum_nil, Nat.add_assoc,
    Nat.add_zero, Nat.zero_add, Nat.reduceAdd]

theorem flagOctet_four (a b c d : Bool) : flagOctet [a, b, c, d] =
    octet ((if a then 2 ^ 0 else 0) + (if b then 2 ^ 1 else 0) + (if c then 2 ^ 2 else 0) + (if d then 2 ^ 3 else 0)) :=
  flagOctet_five a b c d false

theorem halves_eq {low : Nat} (high : Nat) (h : low < 16) : halves high low = octet (high % 16 * 16 + low) := by
  rw [halves, Nat.mod_eq_of_lt h]

/-! ### READ_BUS (R201) -/

/-- A shelf is a half-octet, and 15 stands for none. -/
theorem riserToward_half (s : State) (b : Nat) : (riserToward s b).getD 15 < 16 := by
  cases h : riserToward s b with
  | none => decide
  | some n => exact List.mem_range.1 (List.mem_of_find?_eq_some h)

/-- The holder of a bus as a half-octet (R214). -/
def holderHalf : Holder → Nat
  | .session id => id % 16
  | .cleanUp => 8
  | .none => 15

theorem holderNibble_half (h : Holder) : holderNibble h % 16 = holderHalf h := by cases h <;> rfl

/-- The state of the riser toward a bus as a half-octet, 0 for none (R214). -/
def riserHalf (s : State) (b : Nat) : Nat :=
  match (riserToward s b).map (riserAt s) with
  | some (.operated _) => (Config.riserStateCode false).toNat
  | some (.unknown _) => (Config.riserStateCode true).toNat
  | _ => 0

theorem riserHalf_lt (s : State) (b : Nat) : riserHalf s b < 16 := by
  unfold riserHalf
  split
  · exact (Config.riserStateCode false).isLt
  · exact (Config.riserStateCode true).isLt
  · decide

/-- The order of a pending release and its LEN, as a REPLY of READ_BUS has them (R214). -/
def pendingFields : Option PendingRelease → Nat × Nat
  | some (.access len) => (3, len)
  | some (.riser _) => (4, 0xFFFF)
  | none => (0, 0xFFFF)

theorem pendingFields_half (p : Option PendingRelease) : (pendingFields p).1 < 16 := by
  rcases p with _ | _ | _ <;> simp [pendingFields]

/-- The REPLY of a bus, octet by octet (R201). -/
theorem busReply_eq (s : State) (b : Nat) : busReply s b =
    [busStateCode (busAt s b).state,
      octet ((if (busAt s b).removePending then 2 ^ 0 else 0) + (if (checkerAt s b).degraded then 2 ^ 1 else 0)),
      octet (holderHalf (busAt s b).holder * 16 + (riserToward s b).getD 15),
      octet (riserHalf s b * 16 + (pendingFields ((busAt s b).retry.map (·.order))).1)] ++
      octets2 (pendingFields ((busAt s b).retry.map (·.order))).2 ++
      [octet (((busAt s b).retry.map (·.resends)).getD 0)] ++ octets2 ((busAt s b).quarantine.getD 0) := by
  have flags : flagOctet [(busAt s b).removePending, (checkerAt s b).degraded] =
      octet ((if (busAt s b).removePending then 2 ^ 0 else 0) + (if (checkerAt s b).degraded then 2 ^ 1 else 0)) :=
    flagOctet_eq _
  have state (low : Nat) (h : low < 16) : halves (riserHalf s b) low = octet (riserHalf s b * 16 + low) := by
    rw [halves_eq _ h, Nat.mod_eq_of_lt (riserHalf_lt s b)]
  rw [← holderNibble_half, ← halves_eq _ (riserToward_half s b), ← flags,
    ← state _ (pendingFields_half _)]
  dsimp only [busReply]
  generalize (busAt s b).retry.map (·.order) = pending
  rcases pending with _ | _ | _ <;> rfl

/-! ### READ_QUEUE (R202) -/

theorem readQueue_within {x : Octet} (h : x.toNat ≤ 63) : readQueue s x = {
    code := .done
    data := [octet s.arbiter.queue.length, octet (s.arbiter.queue.countP (fun y => y.cls ≠ .demand))]
    replies := ((s.arbiter.queue.drop x.toNat).take 4).flatMap entryReplies } := by
  rw [readQueue, if_neg (Nat.not_lt.2 h), routineCount_eq]

theorem readQueue_outside {x : Octet} (h : 63 < x.toNat) : readQueue s x = plainAnswer .range := if_pos h

/-! ### READ_SWEEP (R203) -/

theorem readSweep_outside {n : Nat} (h : 7 < n) : readSweep s n = plainAnswer .range := if_pos h

theorem readSweep_unwritten {n : Nat} (h : n ≤ 7) (none : (scheduleAt s n).config = none) :
    readSweep s n = plainAnswer .notFound := by
  simp only [readSweep, Nat.not_lt.2 h, none, if_false]

theorem readSweep_written {n : Nat} {c : ScheduleConfig} (h : n ≤ 7) (written : (scheduleAt s n).config = some c) :
    readSweep s n =
      let r := (scheduleAt s n).run
      { code := .done, data := [octet (runStateCode r.state)] ++ octets2 (r.cursor.getD 0xFFFF)
        replies := [(configOctets c).take 9, (configOctets c).drop 9,
          pack13 [r.tested, r.failed, r.skipped, r.stormSkipped, r.deferred] 9,
          fourLens (r.outstanding.map (·.1)) ++ [flagOctet (r.outstanding.map (·.2))]] ++
            byFours r.deferredLines } := by
  simp only [readSweep, Nat.not_lt.2 h, written, if_false]

/-- Numbers of 13 bits are packed as they are. -/
theorem pack13_eq {ns : List Nat} (h : ∀ k ∈ ns, k < 8192) (n : Nat) : pack13 ns n = (List.range n).map (fun i =>
    octet (ns.foldl (fun a k => a * 8192 + k) 0 * 2 ^ (8 * n - 13 * ns.length) / 256 ^ (n - 1 - i))) := by
  have same : ns.foldl (fun a k => a * 8192 + k % 8192) 0 = ns.foldl (fun a k => a * 8192 + k) 0 :=
    List.foldl_ext _ _ _ fun a k hk => by rw [Nat.mod_eq_of_lt (h k hk)]
  rw [pack13, same]

/-! ### TICKET_READ and TICKET_LIST (R160, R161) -/

theorem ticketRead_held {x : Octet} {t : Ticket} (h : ticketAt s x.toNat = some t) :
    ticketRead s x = ticketReadAnswer s t := by
  simp only [ticketRead, h]

theorem ticketRead_empty {x : Octet} (h : ticketAt s x.toNat = none) : ticketRead s x = plainAnswer .notFound := by
  simp only [ticketRead, h]

theorem ticketList_empty {x : Octet} (h : ticketAt s x.toNat = none) :
    ticketList s (.after x) = plainAnswer .notFound := by
  simp only [ticketList, h, Option.isNone_none, if_true]

/-- The list goes on after the ticket named (R161). -/
theorem ticketList_after {x : Octet} {before after : List Ticket} {t : Ticket}
    (table : s.tickets.tickets = before ++ t :: after) (hx : t.id = x.toNat) (first : ∀ u ∈ before, u.id ≠ x.toNat) :
    ticketList s (.after x) = ticketPage after := by
  have held : ticketAt s x.toNat = some t := hx ▸ ticketAt_first table (hx ▸ first)
  have passed : (before ++ t :: after).dropWhile (fun u => u.id ≠ x.toNat) = t :: after := by
    rw [List.dropWhile_append_of_pos fun u hu => decide_eq_true (first u hu), List.dropWhile_cons_of_neg (by simp [hx])]
  simp only [ticketList, held, Option.isNone_some, Bool.false_eq_true, if_false, table, passed]
  rfl

theorem ticketPage_eq (ts : List Ticket) : ticketPage ts = {
    code := .done, data := [octet (min 10 ts.length), boolOctet (10 < ts.length)]
    replies := (ts.take 10).map ticketItem } := by
  rw [ticketPage, List.length_take]

/-- The line type and the group of a line, as its ticket reads them (R160). -/
theorem directoryData_typeGroup (d : Option DirectoryEntry) :
    (directoryData d).take 1 ++ ((directoryData d).drop 2).take 1 =
      [octet (lineTypeCode (d.map (·.lineType))), octet ((d.bind (·.group)).getD 0xFF)] := by
  cases d <;> rfl

/-! ### Codes (R211) -/

theorem riserStateCode_mem (u : Bool) : (Config.riserStateCode u).toNat ∈ [1, 2, 3] := by
  obtain ⟨low, high⟩ := Config.riserStateCode_range u
  simp only [List.mem_cons, List.not_mem_nil, or_false]
  omega

theorem classCode_mem (u : Bool) : (Config.classCode u).toNat ∈ [1, 2] :=
  namedCode_pair _ (by cases u <;> decide)

theorem originCode_mem (o : Origin) : (Config.originCode o).toNat ∈ [1, 2, 3] := by
  have ho : o ∈ [Origin.demand, .routine, .equipment] := by cases o <;> decide
  have low := Config.namedCode_pos [Origin.demand, .routine, .equipment] Config.originOrder o
  have high := Config.namedCode_le Config.originOrder ho
  rw [Config.originCode, Config.namedCode_field 8 Config.originOrder ho (by decide)]
  simp only [List.length_cons, List.length_nil] at high
  simp only [List.mem_cons, List.not_mem_nil, or_false]
  omega

/-- Settles O39: each query joins its answer's cells, whose octets are those of the tables it reads. -/
theorem readsOfTables : Obligations.ReadsOfTables := by
  unfold Obligations.ReadsOfTables
  intro s src x tag awake room query ticket read none bit bus entry lens absent item page
  have queries {k : Nat} (hk : k ≤ 13) : Accepts s src k .query := ⟨awake, hk.trans room, query⟩
  have ofTickets {k : Nat} (hk : k ≤ 13) : Accepts s src k .ticket := ⟨awake, hk.trans room, ticket⟩
  have answers {i : Instr} {code : Octet} {a : Answer} {data : List Octet} {replies : List (List Octet)}
      (h : exec i s = .next (joinNormal s (answerCells (own s) src tag code a)))
      (ha : a = { code := .done, data := data, replies := replies }) : read i code data replies := by
    subst ha
    exact h
  have refused {i : Instr} {code : Octet} {a : Answer} {r : ResponseCode}
      (h : exec i s = .next (joinNormal s (answerCells (own s) src tag code a))) (ha : a = plainAnswer r) :
      none i code r := by
    rw [ha, answerCells, responseCell_plain] at h
    exact h
  have buses := exec_reads (i := .readBus src tag) (c := .readBus) (a := readBus s) rfl
    (queries (Nat.le_of_ble_eq_true rfl)) rfl nofun fun _ => rfl
  have queue := exec_reads (i := .readQueue src tag x) (c := .readQueue x) (a := readQueue s x) rfl
    (queries (Nat.le_of_ble_eq_true rfl)) rfl nofun fun _ => rfl
  have sweep := exec_reads (i := .readSweep src tag x) (c := .readSweep x) (a := readSweep s x.toNat) rfl
    (queries (Nat.le_of_ble_eq_true rfl)) rfl nofun fun _ => rfl
  have one := exec_reads (i := .ticketRead src tag x) (c := .ticketRead x) (a := ticketRead s x) rfl
    (ofTickets (Nat.le_of_ble_eq_true rfl)) rfl nofun fun _ => rfl
  have list (place : ListFrom) := exec_reads (i := .ticketList src tag place) (c := .ticketList place)
    (a := ticketList s place) rfl (ofTickets (Nat.le_of_ble_eq_true rfl)) rfl nofun fun _ => rfl
  have pages {place : ListFrom} {ts : List Ticket} (h : ticketList s place = ticketPage ts) : page place ts :=
    answers (list place) (h.trans (ticketPage_eq ts))
  refine ⟨answers buses ?_, fun within => answers queue ?_,
    fun outside => refused queue (readQueue_outside outside), ?_,
    fun within unwritten => refused sweep (readSweep_unwritten within unwritten),
    fun outside => refused sweep (readSweep_outside outside),
    fun empty => ⟨refused one (ticketRead_empty (ticketAt_none empty)),
      refused (list _) (ticketList_empty (ticketAt_none empty))⟩,
    pages rfl, refused (list _) rfl, ?_,
    fun u v => ⟨riserStateCode_mem u, Config.riserStateCode_inj⟩,
    fun u v => ⟨classCode_mem u, Config.classCode_inj⟩, fun u v => ⟨originCode_mem u, Config.originCode_inj⟩⟩
  · have replies : busReply s = bus := funext (busReply_eq s)
    rw [readBus, replies]
    rfl
  · have entries (y : Entry) : entryReplies y = entry y := by
      have cls : isRoutine y = decide (y.cls ≠ .demand) := by simp [isRoutine, isDemand]
      rw [entryReplies, cls]
      rcases y with ⟨_, _, _ | _, _ | _⟩ <;> rfl
    rw [readQueue_within within, funext entries]
  · intro c within written r counts _ _ small packed
    have pack : pack13 counts 9 = (List.range 9).map (fun i => octet (packed / 256 ^ (8 - i))) := pack13_eq small 9
    have enables : flagOctet [c.onMinute, c.onHour, c.onWeekday, c.onDay, c.onMonth] = octet (bit 0 c.onMinute +
        bit 1 c.onHour + bit 2 c.onWeekday + bit 3 c.onDay + bit 4 c.onMonth) := flagOctet_five ..
    have marks : flagOctet (r.outstanding.map (·.2)) =
        octet (r.outstanding.zipIdx.map (fun y => bit y.2 y.1.2)).sum := by
      rw [flagOctet_eq, List.zipIdx_map, List.map_map]
      rfl
    refine answers sweep ((readSweep_written within written).trans ?_)
    rw [← marks, ← pack, ← enables]
    rfl
  · intro before t after table hx first
    have held : ticketAt s x.toNat = some t := hx ▸ ticketAt_first table (hx ▸ first)
    refine ⟨pages (ticketList_after table hx first), answers one ((ticketRead_held held).trans ?_)⟩
    have marks : flagOctet [t.value.isSome, t.dispatch.isSome, t.attached.isSome, t.acknowledged] = octet (bit 0
        t.value.isSome + bit 1 t.dispatch.isSome + bit 2 t.attached.isSome + bit 3 t.acknowledged) := flagOctet_four ..
    simp only [ticketReadAnswer, directoryData_typeGroup, marks]
    rfl

end Sys2Proof.Machine
end

section
/-! PROOFS. The date and time as a law of a step, and O4. -/

namespace Sys2Proof.Machine
open Sys2Proof

/-- A millisecond moves the calendar's prescaler alone (R178). -/
theorem calendar_tick (s : State) : ∃ k, (tick s).calendar = { s.calendar with prescaler := k } := by
  cases running : s.calendar.running with
  | true => exact ⟨s.calendar.prescaler + 1, if_pos running⟩
  | false => exact ⟨s.calendar.prescaler, if_neg (by rw [running]; nofun)⟩

/-- Every operation inside a step keeps the date and time valid (`Follows`), the carries of a calendar second and an
accepted SET_TIME among them (R178 to R181); the release of RESET leaves those of the state after reset. -/
theorem stepLaw_calendar : StepLaw fun s => CalendarValid s.calendar where
  follows f := f.calendar
  pending _ _ := id
  ports _ _ := id
  released x s t h := by
    obtain rfl := Host.Outcome.next.inj h
    obtain ⟨calendar, -⟩ := resetMeetsLaws
    exact calendar
  tick s h := by
    obtain ⟨k, moved⟩ := calendar_tick s
    rw [moved]
    exact h

/-- Settles O4: a valid date and time is a law that a step keeps. -/
theorem stepKeepsCalendarValid : Obligations.StepKeepsCalendarValid :=
  fun _ _ valid h => stepLaw_calendar.step h valid

end Sys2Proof.Machine
end

section
/-! PROOFS. One schedule's run changed, the filling of a window whose range is one unprovisioned line, the schedule
commands and the duration timer, and O45. -/

namespace Sys2Proof.Machine
open Sys2Proof

variable {s t : State} {n : Nat} {cfg : ScheduleConfig} {r x : SweepRun}

/-! ### One run changed -/

/-- A run changed twice is changed once. -/
theorem modRun_modRun (s : State) (n : Nat) (f g : SweepRun → SweepRun) :
    modRun (modRun s n f) n g = modRun s n (fun r => g (f r)) :=
  congrArg (fun schedules => { s with schedules := schedules }) (tabMod_tabPut scheduleZero s.schedules n _ _)

theorem modRun_onPorts (s : State) (n : Nat) (f : SweepRun → SweepRun) (p : Ports → Ports) :
    modRun (onPorts s p) n f = onPorts (modRun s n f) p := rfl

theorem runAt_modRun_same (s : State) (n : Nat) (f : SweepRun → SweepRun) :
    (scheduleAt (modRun s n f) n).run = f (scheduleAt s n).run :=
  (runAt_modRun ..).trans (if_pos rfl)

/-- Only what becomes of the run as it is matters to a change of it. -/
theorem modRun_eq (f : SweepRun → SweepRun) (h : f (scheduleAt s n).run = x) :
    modRun s n f = modRun s n (fun _ => x) := by
  subst h
  rfl

/-- A run replaced: its schedule keeps its configuration, and no other schedule changes. -/
theorem modRun_becomes (written : (scheduleAt s n).config = some cfg) (x : SweepRun) :
    let t := modRun s n (fun _ => x)
    scheduleAt t n = { config := some cfg, run := x } ∧ (∀ j, j ≠ n → scheduleAt t j = scheduleAt s j) ∧
      t = { s with schedules := t.schedules } := by
  refine ⟨?_, fun j hj => tabGet_tabPut_other _ _ _ hj, rfl⟩
  rw [← written]
  exact tabGet_tabMod_same scheduleZero s.schedules n (fun y => { y with run := x })

theorem sweepNotice_none (quiet : NoNotices s) (n : Nat) (unfit : Bool) : sweepNotice s n unfit = s :=
  notify_none _ quiet

theorem sweepNotice_modRun (quiet : NoNotices s) (n : Nat) (f : SweepRun → SweepRun) (unfit : Bool) :
    sweepNotice (modRun s n f) n unfit = modRun s n f :=
  notify_none _ quiet

/-! ### The filling of a window (R186, R191) -/

/-- There is room in the window of an ACTIVE run. -/
def HasRoom (cfg : ScheduleConfig) (r : SweepRun) : Prop := r.state = .active ∧ r.outstanding.length < cfg.window

/-- A window without room is left as it is. -/
theorem fillWindow_full (fuel : Nat) (written : (scheduleAt s n).config = some cfg)
    (full : ¬ HasRoom cfg (scheduleAt s n).run) : fillWindow (fuel + 1) s n = s := by
  rw [fillWindow, written]
  exact if_neg full

/-- With no line left the completion test is made. -/
theorem fillWindow_ends (fuel : Nat) (written : (scheduleAt s n).config = some cfg)
    (room : HasRoom cfg (scheduleAt s n).run) (last : nextLine cfg (scheduleAt s n).run = none) :
    fillWindow (fuel + 1) s n = completeIfDone s n := by
  rw [fillWindow, written]
  refine (if_pos room).trans ?_
  rw [last]

/-- A line that is not submitted leaves its place to the next. -/
theorem fillWindow_passes (fuel : Nat) {line : Nat} {fromList : Bool} (written : (scheduleAt s n).config = some cfg)
    (room : HasRoom cfg (scheduleAt s n).run) (next : nextLine cfg (scheduleAt s n).run = some (line, fromList, x))
    (reached : reachLine (modRun s n (fun _ => x)) n line fromList cfg.program = (t, false)) :
    fillWindow (fuel + 1) s n = fillWindow fuel t n := by
  rw [fillWindow, written]
  refine (if_pos room).trans ?_
  simp only [next, reached]

theorem reachLine_unprovisioned {line : Nat} (none : directoryAt s line = none) (fromList : Bool) (program : Nat) :
    reachLine s n line fromList program = (countSkipped s n, false) := by
  simp only [reachLine, testReached, none]

/-- A run with nothing left to reach, to retry or to wait for. -/
def doneRun (x : SweepRun) : SweepRun := { x with cursor := none, outstanding := [], deferredLines := [] }

/-- Such a run, ACTIVE, completes at its first LEN, its timer stopped (R191). -/
def completeRun (cfg : ScheduleConfig) (x : SweepRun) : SweepRun :=
  { doneRun x with state := .complete, cursor := some cfg.first, timer := none }

theorem completeIfDone_completes (quiet : NoNotices s) (written : (scheduleAt s n).config = some cfg)
    (run : (scheduleAt s n).run = doneRun x) (active : x.state = .active) :
    completeIfDone s n = modRun s n (fun _ => completeRun cfg x) := by
  have nothingLeft : (scheduleAt s n).run.state = .active ∧ (scheduleAt s n).run.cursor = none ∧
      (scheduleAt s n).run.deferredLines = [] ∧ (scheduleAt s n).run.outstanding = [] := by
    rw [run]
    exact ⟨active, rfl, rfl, rfl⟩
  rw [completeIfDone, written]
  refine (if_pos nothingLeft).trans ?_
  rw [sweepNotice_modRun quiet]
  exact modRun_eq _ (by rw [run]; rfl)

/-- A range of one line that is not provisioned is counted skipped, and the schedule completes (R186, R191). -/
theorem fillWindow_skips (fuel : Nat) (quiet : NoNotices s) (written : (scheduleAt s n).config = some cfg)
    (run : (scheduleAt s n).run = { x with cursor := some cfg.first, outstanding := [], deferredLines := [] })
    (active : x.state = .active) (alone : cfg.first = cfg.last) (none : directoryAt s cfg.first = none)
    (window : 1 ≤ cfg.window) :
    fillWindow (fuel + 2) s n = modRun s n (fun _ => completeRun cfg { x with skipped := add16 x.skipped 1 }) := by
  let u := modRun s n (fun _ => doneRun { x with skipped := add16 x.skipped 1 })
  have ran : (scheduleAt u n).run = doneRun { x with skipped := add16 x.skipped 1 } := runAt_modRun_same ..
  have kept : (scheduleAt u n).config = some cfg := (configAt_modRun ..).trans written
  have next : nextLine cfg (scheduleAt s n).run = some (cfg.first, false, doneRun x) := by
    rw [run]
    simp only [nextLine, if_neg (Nat.not_lt.2 alone.ge)]
    rfl
  have reached : reachLine (modRun s n (fun _ => doneRun x)) n cfg.first false cfg.program = (u, false) := by
    rw [reachLine_unprovisioned (s := modRun s n _) none, countSkipped, modRun_modRun]
    rfl
  have roomBefore : HasRoom cfg (scheduleAt s n).run := by
    rw [run]
    exact ⟨active, window⟩
  have roomAfter : HasRoom cfg (scheduleAt u n).run := by
    rw [ran]
    exact ⟨active, window⟩
  have last : nextLine cfg (scheduleAt u n).run = .none := by
    rw [ran]
    rfl
  calc fillWindow (fuel + 2) s n
      = fillWindow (fuel + 1) u n := fillWindow_passes (fuel + 1) written roomBefore next reached
    _ = completeIfDone u n := fillWindow_ends fuel kept roomAfter last
    _ = modRun u n _ := completeIfDone_completes quiet kept ran active
    _ = _ := modRun_modRun ..

/-- A filling handed on alone is taken, and where it hands on nothing further the step is done. -/
theorem settle_filled (h : s.agenda = [.fill n]) (run : fillWindow fillFuel { s with agenda := [] } n = t)
    (done : t.agenda = []) : settle settleFuel s = t := by
  have settled (k : Nat) : settle (k + 1) s = t := by
    rw [settle_cons k h, takeTodo, run, settle_nil k done]
  exact settled 99999

/-! ### A sweep begun (R185) -/

/-- The program still holds steps and carries ROUTINE_ALLOWED. -/
theorem programFit_iff : programFit s cfg = true ↔
    (programAt s cfg.program).steps ≠ [] ∧ (programAt s cfg.program).routineAllowed = true := decide_eq_true_iff

/-- The run as a start or a resumption leaves it, before its window is filled. -/
def begunRun (cfg : ScheduleConfig) (r : SweepRun) : SweepRun :=
  { (if r.state = .incomplete then { r with deferredLines := [] } else startedRun cfg) with
    state := .active, timer := some (cfg.durationMinutes * 60000) }

theorem begunRun_incomplete (h : r.state = .incomplete) : begunRun cfg r = { r with
    state := .active, deferredLines := [], timer := some (cfg.durationMinutes * 60000) } := by
  simp only [begunRun, if_pos h]

theorem begunRun_fresh (h : r.state ≠ .incomplete) : begunRun cfg r = { startedRun cfg with
    state := .active, timer := some (cfg.durationMinutes * 60000) } := by
  simp only [begunRun, if_neg h]

/-- A sweep whose program is unfit is refused, and one that runs goes on: neither changes anything. -/
theorem beginSweep_still (quiet : NoNotices s) (h : programFit s cfg = false ∨ (scheduleAt s n).run.state = .active) :
    beginSweep s n cfg = s := by
  unfold beginSweep
  split
  · exact sweepNotice_none quiet n true
  · next fit => exact if_pos (h.resolve_left fit)

theorem beginSweep_begins (quiet : NoNotices s) (fit : programFit s cfg = true)
    (rests : (scheduleAt s n).run.state ≠ .active) :
    beginSweep s n cfg = handOn (modRun s n (fun _ => begunRun cfg (scheduleAt s n).run)) (.fill n) := by
  rw [beginSweep, if_neg (by rw [fit]; nofun)]
  refine (if_neg rests).trans ?_
  exact congrArg (handOn · (.fill n)) (sweepNotice_modRun quiet n _ false)

/-- Whether a place is reserved in the NORMAL queue is nothing to a sweep begun. -/
theorem beginSweep_reservePlaces (quiet : NoNotices s) (k : Nat) :
    beginSweep (reservePlaces s k) n cfg = reservePlaces (beginSweep s n cfg) k := by
  cases fit : programFit s cfg with
  | false => rw [beginSweep_still quiet (.inl fit), beginSweep_still (s := reservePlaces s k) quiet (.inl fit)]
  | true =>
    by_cases active : (scheduleAt s n).run.state = .active
    · rw [beginSweep_still quiet (.inr active), beginSweep_still (s := reservePlaces s k) quiet (.inr active)]
    · rw [beginSweep_begins quiet fit active, beginSweep_begins (s := reservePlaces s k) quiet fit active]
      rfl

/-- A step that begins a sweep, and otherwise changes the ports alone, is done when the window is filled. -/
theorem settle_begun {p : Ports → Ports} (idle : s.agenda = []) (quiet : NoNotices s) (fit : programFit s cfg = true)
    (rests : (scheduleAt s n).run.state ≠ .active) (begun : begunRun cfg (scheduleAt s n).run = x)
    (fills : fillWindow fillFuel (onPorts (modRun s n (fun _ => x)) p) n = t) (done : t.agenda = []) :
    settle settleFuel (onPorts (beginSweep s n cfg) p) = t := by
  subst begun
  rw [beginSweep_begins quiet fit rests]
  refine settle_filled (congrArg (· ++ [Todo.fill n]) idle) (Eq.trans ?_ fills) done
  exact congrArg (fun agenda => fillWindow fillFuel
    { onPorts (modRun s n (fun _ => begunRun cfg (scheduleAt s n).run)) p with agenda := agenda } n) idle.symm

/-- An INCOMPLETE schedule whose window is full is resumed (R185). -/
theorem settle_resumed {p : Ports → Ports} (idle : s.agenda = []) (quiet : NoNotices s) (fit : programFit s cfg = true)
    (written : (scheduleAt s n).config = some cfg) (run : (scheduleAt s n).run = r) (incomplete : r.state = .incomplete)
    (full : cfg.window ≤ r.outstanding.length) :
    settle settleFuel (onPorts (beginSweep s n cfg) p) = onPorts (modRun s n (fun _ => { r with
      state := .active, deferredLines := [], timer := some (cfg.durationMinutes * 60000) })) p := by
  subst run
  let resumed := modRun s n (fun _ => { (scheduleAt s n).run with
    state := .active, deferredLines := [], timer := some (cfg.durationMinutes * 60000) })
  have kept : (scheduleAt resumed n).config = some cfg := (configAt_modRun ..).trans written
  have noRoom : ¬ HasRoom cfg (scheduleAt resumed n).run := by
    rw [runAt_modRun_same]
    exact fun room => absurd room.2 (Nat.not_lt.2 full)
  exact settle_begun idle quiet fit (by rw [incomplete]; nofun) (begunRun_incomplete incomplete)
    (fillWindow_full (s := onPorts resumed p) 8299 kept noRoom) idle

/-- What a sweep over one line that is not provisioned comes to (R186, R191). -/
def skippedRun (cfg : ScheduleConfig) : SweepRun :=
  { state := .complete, cursor := some cfg.first, outstanding := [], deferredLines := [], timer := none
    tested := 0, failed := 0, skipped := 1, stormSkipped := 0, deferred := 0 }

/-- A schedule of one unprovisioned line is started, and complete (R185, R186, R191). -/
theorem settle_skipped {p : Ports → Ports} (idle : s.agenda = []) (quiet : NoNotices s) (fit : programFit s cfg = true)
    (written : (scheduleAt s n).config = some cfg) (rests : (scheduleAt s n).run.state ∈ [.idle, .complete, .stopped])
    (alone : cfg.first = cfg.last) (none : directoryAt s cfg.first = none) (window : 1 ≤ cfg.window) :
    settle settleFuel (onPorts (beginSweep s n cfg) p) = onPorts (modRun s n (fun _ => skippedRun cfg)) p := by
  have fresh : (scheduleAt s n).run.state ≠ .active ∧ (scheduleAt s n).run.state ≠ .incomplete := by
    generalize (scheduleAt s n).run.state = st at rests
    revert st
    decide
  let x := { startedRun cfg with state := .active, timer := some (cfg.durationMinutes * 60000) }
  let started := modRun s n (fun _ => x)
  have kept : (scheduleAt started n).config = some cfg := (configAt_modRun ..).trans written
  have run : (scheduleAt started n).run = x := runAt_modRun_same ..
  have skips : fillWindow fillFuel (onPorts started p) n = onPorts (modRun s n (fun _ => skippedRun cfg)) p := by
    rw [fillFuel, fillWindow_skips (s := onPorts started p) (x := x) 8298 quiet kept run rfl alone none window,
      modRun_onPorts, modRun_modRun]
    rfl
  exact settle_begun idle quiet fit fresh.1 (begunRun_fresh fresh.2) skips idle

/-! ### Accepted commands of the schedules (R183, R193) -/

/-- An accepted command that hands on no work. -/
theorem exec_settled {i : Instr} {src : Octet} {tag : Half} {c : Command} {g : CommandGroup} {d : State}
    {a : ResponseCode} (hi : rowCommand i = some (src, tag, c)) (h : Accepts s src 1 g) (hc : IsPlainCommand c g)
    (run : carryOut (reservePlaces s 1) src c = (reservePlaces d 1, plainAnswer a))
    (straps : d.ports.straps = s.ports.straps) (agenda : d.agenda = s.agenda) :
    exec i s = .next (answered d src tag (commandCode c) a) := by
  obtain ⟨awake, room, held⟩ := h
  obtain ⟨group, places, notRestart⟩ := hc
  rw [exec_carriedOut hi awake room places notRestart (permitted_of_group group held) run straps,
    settle_nil (s := answered d src tag (commandCode c) a) _ (agenda.trans awake.2)]

/-- What an answer makes of the ports: it joins the NORMAL queue (R198). -/
def answerPorts (src : Octet) (tag : Half) (code : Octet) (a : ResponseCode) (p : Ports) : Ports :=
  { p with normal := p.normal ++
      [makeCell 0x52#8 (ownAddress p.straps) src (octets2 tag.toNat ++ [code, responseCode a, 0#8])] }

theorem answered_eq (s : State) (src : Octet) (tag : Half) (code : Octet) (a : ResponseCode) :
    answered s src tag code a = onPorts s (answerPorts src tag code a) := rfl

theorem writeSchedule_written {a : ScheduleArgs} (range : scheduleInRange a.number.toNat (scheduleConfig a) = true)
    (fit : programFit s (scheduleConfig a) = true)
    (rests : (scheduleAt s a.number.toNat).run.state ≠ .active) :
    let c := scheduleConfig a
    writeSchedule s a = (putSchedule s a.number.toNat { config := some c, run := startedRun c }, .done) := by
  intro c
  obtain ⟨steps, routine⟩ := programFit_iff.1 fit
  rw [writeSchedule, if_neg (by rw [range]; nofun), if_neg steps, if_neg (by rw [routine]; nofun), if_neg rests]

theorem writeSchedule_active {a : ScheduleArgs} (range : scheduleInRange a.number.toNat (scheduleConfig a) = true)
    (fit : programFit s (scheduleConfig a) = true)
    (active : (scheduleAt s a.number.toNat).run.state = .active) : writeSchedule s a = (s, .inUse) := by
  obtain ⟨steps, routine⟩ := programFit_iff.1 fit
  rw [writeSchedule, if_neg (by rw [range]; nofun), if_neg steps, if_neg (by rw [routine]; nofun), if_pos active]

theorem sweepStart_begins (hn : n ≤ 7) (written : (scheduleAt s n).config = some cfg) (fit : programFit s cfg = true)
    (rests : (scheduleAt s n).run.state ≠ .active) : sweepStart s n = (beginSweep s n cfg, .done) := by
  obtain ⟨steps, routine⟩ := programFit_iff.1 fit
  rw [sweepStart, if_neg (Nat.not_lt.2 hn), written]
  exact (if_neg rests).trans ((if_neg steps).trans (if_neg (by rw [routine]; nofun)))

theorem sweepStart_active (hn : n ≤ 7) (written : (scheduleAt s n).config = some cfg)
    (active : (scheduleAt s n).run.state = .active) : sweepStart s n = (s, .state) := by
  rw [sweepStart, if_neg (Nat.not_lt.2 hn), written]
  exact if_pos active

theorem sweepStop_stops (hn : n ≤ 7) (written : (scheduleAt s n).config = some cfg)
    (runs : (scheduleAt s n).run.state = .active ∨ (scheduleAt s n).run.state = .incomplete) :
    sweepStop s n = (stopSweep s n cfg, .done) := by
  rw [sweepStop, if_neg (Nat.not_lt.2 hn), written]
  exact if_pos runs

/-- A sweep begun by an accepted SWEEP_START: the place reserved for the answer is the one it takes. -/
theorem exec_sweepStart {src x : Octet} {tag : Half} (h : Accepts s src 1 .schedule) (quiet : NoNotices s)
    (hn : x.toNat ≤ 7) (written : (scheduleAt s x.toNat).config = some cfg) (fit : programFit s cfg = true)
    (rests : (scheduleAt s x.toNat).run.state ≠ .active) : exec (.sweepStart src tag x) s =
      .next (settle settleFuel (onPorts (beginSweep s x.toNat cfg) (answerPorts src tag 16#8 .done))) := by
  have run : carryOut (reservePlaces s 1) src (.sweepStart x) =
      (reservePlaces (beginSweep s x.toNat cfg) 1, plainAnswer .done) := by
    rw [carryOut, sweepStart_begins (s := reservePlaces s 1) hn written fit rests, beginSweep_reservePlaces quiet]
    rfl
  obtain ⟨awake, room, held⟩ := h
  exact exec_carriedOut (c := .sweepStart x) rfl awake room rfl nofun (permitted_of_group rfl held) run
    (keeps_beginSweep (.refl (tk := true) (sl := true) s) _ _).straps

/-! ### Sweeps ended, no request waiting (R192, R193) -/

theorem sweepEntries_none (none : NoRequests s) (n : Nat) : sweepEntries s n = [] := by
  rw [sweepEntries, none]
  rfl

theorem removeSweepEntries_none (none : NoRequests s) (n : Nat) : removeSweepEntries s n = modRun s n id := by
  rw [removeSweepEntries, sweepEntries_none none]
  refine (modRun_eq _ ?_).trans (modRun_eq id rfl).symm
  simp

/-- The deferred lines of a run ended before its time are counted skipped. -/
def cutRun (r : SweepRun) : SweepRun := { r with
  deferredLines := [], skipped := min (r.skipped + r.deferredLines.length) 65535 }

theorem removeSweepWork_none (none : NoRequests s) (n : Nat) : removeSweepWork s n = modRun s n cutRun := by
  rw [removeSweepWork, removeSweepEntries_none none, sweepEntries_none none, modRun_modRun]
  rfl

theorem stopSweep_active (quiet : NoNotices s) (none : NoRequests s) (active : (scheduleAt s n).run.state = .active) :
    stopSweep s n cfg = modRun s n (fun r => { cutRun r with
      state := .stopped, timer := .none, cursor := some cfg.first }) := by
  rw [stopSweep, if_pos active, removeSweepWork_none none, modRun_modRun]
  exact sweepNotice_modRun quiet ..

theorem stopSweep_incomplete (quiet : NoNotices s) (none : NoRequests s)
    (incomplete : (scheduleAt s n).run.state = .incomplete) : stopSweep s n cfg = modRun s n (fun r => { r with
      state := .stopped, timer := .none, cursor := some cfg.first }) := by
  rw [stopSweep, if_neg (by rw [incomplete]; nofun), removeSweepEntries_none none, modRun_modRun]
  exact sweepNotice_modRun quiet ..

theorem durationExpired_quiet (quiet : NoNotices s) (none : NoRequests s) (n : Nat) :
    durationExpired s n = modRun s n (fun r => { cutRun r with state := .incomplete, timer := .none }) := by
  rw [durationExpired, removeSweepWork_none none, modRun_modRun]
  exact sweepNotice_modRun quiet ..

/-- An accepted SWEEP_STOP whose effect is a change of its schedule's run. -/
theorem exec_sweepStop {src x : Octet} {tag : Half} {f : SweepRun → SweepRun} (h : Accepts s src 1 .schedule)
    (hn : x.toNat ≤ 7) (written : (scheduleAt s x.toNat).config = some cfg)
    (runs : (scheduleAt s x.toNat).run.state = .active ∨ (scheduleAt s x.toNat).run.state = .incomplete)
    (stops : stopSweep (reservePlaces s 1) x.toNat cfg = modRun (reservePlaces s 1) x.toNat f) :
    exec (.sweepStop src tag x) s = .next (answered (modRun s x.toNat f) src tag 17#8 .done) := by
  refine exec_settled (c := .sweepStop x) (d := modRun s x.toNat f) rfl h ⟨rfl, rfl, nofun⟩ ?_ rfl rfl
  rw [carryOut, sweepStop_stops (s := reservePlaces s 1) hn written runs, stops]
  rfl

theorem exec_durationTimerExpiry {k : Fin 8} (ha : Awake s) (quiet : NoNotices s) (none : NoRequests s)
    (active : (scheduleAt s k).run.state = .active) (running : (scheduleAt s k).run.timer.isSome = true) :
    exec (.durationTimerExpiry k) s =
      .next (modRun s k (fun r => { cutRun r with state := .incomplete, timer := .none })) :=
  live_of_effect ha.1 ((if_pos ⟨active, running⟩).trans (durationExpired_quiet quiet none k)) ha.2

/-- Settles O45, by the command and the state of the run. -/
theorem sweepCommands : Obligations.SweepCommands := by
  unfold Obligations.SweepCommands
  intro s src x tag a cfg h quiet none n written r runs fit
  have becomes {f : SweepRun → SweepRun} {y : SweepRun} (hw : (scheduleAt s x.toNat).config = some cfg) (hy : f r = y) :
      runs x.toNat cfg y (modRun s x.toNat f) := by
    rw [modRun_eq f hy]
    exact modRun_becomes hw y
  refine ⟨?_, ?_, ?_, ?_, ?_, ?_⟩
  · intro number minute hour weekday day1 day month1 month ordered last window1 window duration1 duration steps routine
    have range : scheduleInRange n (scheduleConfig a) = true := decide_eq_true ⟨number, minute, hour, weekday,
      day1, day, month1, month, ordered.trans last, last, ordered, window1, window, duration1, duration⟩
    have fits : programFit (reservePlaces s 1) (scheduleConfig a) = true := programFit_iff.2 ⟨steps, routine⟩
    refine ⟨fun rests => ?_, fun active => ?_⟩
    · have run := writeSchedule_written (s := reservePlaces s 1) range fits rests
      exact ⟨putSchedule s n { config := some written, run := startedRun written },
        exec_settled (c := .writeSchedule a) rfl h ⟨rfl, rfl, nofun⟩ (congrArg answering run) rfl rfl,
        (scheduleAt_putSchedule ..).trans (if_pos rfl), fun j hj => (scheduleAt_putSchedule ..).trans (if_neg hj), rfl⟩
    · have run := writeSchedule_active (s := reservePlaces s 1) range fits active
      exact exec_refused (c := .writeSchedule a) rfl h ⟨rfl, rfl, nofun⟩ (congrArg answering run)
  · intro hx hw holds incomplete full
    have fits := programFit_iff.2 holds
    have starts := exec_sweepStart (tag := tag) h quiet hx hw fits (show r.state ≠ .active by rw [incomplete]; nofun)
    exact ⟨_, starts.trans (congrArg _ (settle_resumed h.1.2 quiet fits hw rfl incomplete full)), modRun_becomes hw _⟩
  · intro hx hw holds rests alone missing window
    have fits := programFit_iff.2 holds
    have starts := exec_sweepStart (tag := tag) h quiet hx hw fits
      (fun active : r.state = _ => absurd (active ▸ rests) (by decide))
    exact ⟨_, starts.trans (congrArg _ (settle_skipped h.1.2 quiet fits hw rests alone missing window)),
      modRun_becomes hw _⟩
  · intro hx hw active
    have refuses := sweepStart_active (s := reservePlaces s 1) hx hw active
    exact ⟨exec_refused (c := .sweepStart x) rfl h ⟨rfl, rfl, nofun⟩ (congrArg answering refuses),
      _, exec_sweepStop h hx hw (.inl active) (stopSweep_active quiet none active), becomes hw rfl⟩
  · intro hx hw incomplete
    exact ⟨_, exec_sweepStop h hx hw (.inr incomplete) (stopSweep_incomplete quiet none incomplete), becomes hw rfl⟩
  · intro k hk hw active running
    refine ⟨_, exec_durationTimerExpiry h.1 quiet none (hk ▸ active) (hk ▸ running), ?_⟩
    rw [hk]
    exact becomes hw rfl

end Sys2Proof.Machine
end

section
/-! PROOFS. The calendar's carries, an entry into a minute with no schedule or one schedule to begin, SET_TIME,
ADJUST_TIME and the calendar second, and O46. -/

namespace Sys2Proof.Machine
open Sys2Proof

variable {s : State} {k n : Nat} {cfg : ScheduleConfig} {i : Instr} {m : Calendar} {p : Ports → Ports}

/-! ### The date (R179) -/

/-- The month lengths, leap years being those divisible by 4. -/
theorem monthLength_eq (month year : Nat) : monthLength month year =
    if month = 2 then (if year % 4 = 0 then 29 else 28) else if month ∈ [4, 6, 9, 11] then 30 else 31 := by
  unfold monthLength leapYear
  split <;> simp_all

/-- A valid time is one that SET_TIME accepts (R180). -/
theorem validTime_iff {second minute hour weekday day month year : Nat} :
    validTime second minute hour weekday day month year = true ↔
      second ≤ 59 ∧ minute ≤ 59 ∧ hour ≤ 23 ∧ weekday ≤ 6 ∧ 1 ≤ month ∧ month ≤ 12 ∧ 2000 ≤ year ∧ year ≤ 2099 ∧
        1 ≤ day ∧ day ≤ (if month = 2 then (if year % 4 = 0 then 29 else 28)
          else if month ∈ [4, 6, 9, 11] then 30 else 31) := by
  rw [validTime, decide_eq_true_iff, monthLength_eq]

/-- The day after, field by field. -/
theorem nextDate_eq (c : Calendar) (day : c.day ≤ monthLength c.month c.year) (month : c.month ≤ 12) :
    let last := monthLength c.month c.year
    nextDate c = { c with
      day := if c.day = last then 1 else c.day + 1
      month := if c.day = last then (if c.month = 12 then 1 else c.month + 1) else c.month
      year := if c.day = last ∧ c.month = 12 then (if c.year = 2099 then 2000 else c.year + 1) else c.year } := by
  intro last
  by_cases ends : c.day = last
  · have lastDay : ¬ c.day < monthLength c.month c.year := Nat.not_lt.2 ends.ge
    by_cases december : c.month = 12
    · rw [nextDate, if_neg lastDay, if_neg (by omega)]
      simp only [ends, december, and_self, if_true]
    · rw [nextDate, if_neg lastDay, if_pos (by omega)]
      simp only [ends, december, and_false, if_true, if_false]
  · rw [nextDate, if_pos (Nat.lt_of_le_of_ne day ends)]
    simp only [ends, false_and, if_false]

/-- The weekday counts on modulo 7 (R179). -/
theorem weekday_next {w : Nat} (h : w ≤ 6) : (if w = 6 then 0 else w + 1) = (w + 1) % 7 := by
  split <;> omega

theorem carryDay_eq (c : Calendar) (weekday : c.weekday ≤ 6) :
    carryDay c = nextDate { c with weekday := (c.weekday + 1) % 7 } := by
  rw [carryDay, weekday_next weekday]

/-! ### The carries of a minute (R178, R181) -/

theorem carryMinute_minute {c : Calendar} (h : c.minute ≠ 59) : carryMinute c = { c with minute := c.minute + 1 } :=
  if_neg h

theorem carryMinute_hour {c : Calendar} (minute : c.minute = 59) (hour : c.hour ≠ 23) :
    carryMinute c = { c with minute := 0, hour := c.hour + 1 } :=
  (if_pos minute).trans (if_neg hour)

/-- The last minute of a day carries into the day after. -/
theorem carryMinute_day {c : Calendar} (minute : c.minute = 59) (hour : c.hour = 23) (weekday : c.weekday ≤ 6)
    (day : c.day ≤ monthLength c.month c.year) (month : c.month ≤ 12) :
    let last := if c.month = 2 then (if c.year % 4 = 0 then 29 else 28) else if c.month ∈ [4, 6, 9, 11] then 30 else 31
    carryMinute c = { c with
      minute := 0, hour := 0, weekday := (c.weekday + 1) % 7
      day := if c.day = last then 1 else c.day + 1
      month := if c.day = last then (if c.month = 12 then 1 else c.month + 1) else c.month
      year := if c.day = last ∧ c.month = 12 then (if c.year = 2099 then 2000 else c.year + 1) else c.year } := by
  intro last
  have carried : carryMinute c = carryDay { c with minute := 0, hour := 0 } := (if_pos minute).trans (if_pos hour)
  have next := nextDate_eq { c with minute := 0, hour := 0, weekday := (c.weekday + 1) % 7 } day month
  rw [carried, carryDay_eq { c with minute := 0, hour := 0 } weekday, next]
  simp only [monthLength_eq, last]

/-! ### An entry into a minute (R182, R184) -/

theorem scheduleMatches_iff : scheduleMatches cfg m = true ↔ cfg.enable = true ∧
    (cfg.onMinute = true ∨ cfg.onHour = true ∨ cfg.onWeekday = true ∨ cfg.onDay = true ∨ cfg.onMonth = true) ∧
    (cfg.onMinute = true → cfg.minute = m.minute) ∧ (cfg.onHour = true → cfg.hour = m.hour) ∧
    (cfg.onWeekday = true → cfg.weekday = m.weekday) ∧ (cfg.onDay = true → cfg.day = m.day) ∧
    (cfg.onMonth = true → cfg.month = m.month) := by
  simp only [scheduleMatches, Bool.and_eq_true, Bool.or_eq_true, Bool.not_eq_true', decide_eq_true_eq,
    ← Bool.not_eq_true, ← imp_iff_not_or, and_assoc, or_assoc]

/-- A schedule that is written and matches the minute the calendar stands at. -/
def Matching (s : State) (n : Nat) : Prop :=
  ∃ cfg, (scheduleAt s n).config = some cfg ∧ scheduleMatches cfg s.calendar = true

/-- One schedule's part of an entry into a minute. -/
def beginMatching (s : State) (n : Nat) : State :=
  match (scheduleAt s n).config with
  | some cfg => if scheduleMatches cfg s.calendar then beginSweep s n cfg else s
  | none => s

theorem enterMinute_eq (s : State) : enterMinute s = (List.range 8).foldl beginMatching s := rfl

theorem beginMatching_matching (written : (scheduleAt s n).config = some cfg)
    (fits : scheduleMatches cfg s.calendar = true) : beginMatching s n = beginSweep s n cfg := by
  rw [beginMatching, written]
  exact if_pos fits

theorem beginMatching_still (h : ¬ Matching s n) : beginMatching s n = s := by
  rw [beginMatching]
  split
  · next cfg written => exact if_neg fun fits => h ⟨cfg, written, fits⟩
  · rfl

theorem foldl_still {l : List Nat} (h : ∀ j ∈ l, ¬ Matching s j) : l.foldl beginMatching s = s := by
  induction l with
  | nil => rfl
  | cons j rest ih =>
    rw [List.foldl_cons, beginMatching_still (h j List.mem_cons_self)]
    exact ih fun j hj => h j (List.mem_cons_of_mem _ hj)

/-- Where no schedule matches, an entry into a minute changes nothing. -/
theorem enterMinute_still (h : ∀ j, j < 8 → ¬ Matching s j) : enterMinute s = s :=
  foldl_still fun j hj => h j (List.mem_range.1 hj)

/-- A sweep begun leaves the calendar and every configuration as they are. -/
theorem matching_beginSweep (quiet : NoNotices s) (j : Nat) : Matching (beginSweep s k cfg) j ↔ Matching s j := by
  by_cases still : programFit s cfg = false ∨ (scheduleAt s k).run.state = .active
  · rw [beginSweep_still quiet still]
  · rw [not_or, Bool.not_eq_false] at still
    rw [beginSweep_begins quiet still.1 still.2]
    have config : (scheduleAt (modRun s k (fun _ => begunRun cfg (scheduleAt s k).run)) j).config =
        (scheduleAt s j).config := configAt_modRun ..
    unfold Matching
    exact exists_congr fun e => and_congr_left' (by rw [← config]; exact Iff.rfl)

/-- The one schedule that matches is begun. -/
theorem enterMinute_alone (quiet : NoNotices s) (hk : k < 8) (written : (scheduleAt s k).config = some cfg)
    (fits : scheduleMatches cfg s.calendar = true) (alone : ∀ j, j < 8 → j ≠ k → ¬ Matching s j) :
    enterMinute s = beginSweep s k cfg := by
  obtain ⟨before, after, split⟩ := List.append_of_mem (List.mem_range.2 hk)
  have distinct : (before ++ k :: after).Nodup := split ▸ List.nodup_range
  have others {l : List Nat} (within : ∀ j ∈ l, j ∈ List.range 8) (apart : k ∉ l) : ∀ j ∈ l, ¬ Matching s j :=
    fun j hj => alone j (List.mem_range.1 (within j hj)) fun same => apart (same ▸ hj)
  have early := others (l := before) (fun j hj => split ▸ List.mem_append_left _ hj)
    fun hb => List.disjoint_of_nodup_append distinct hb List.mem_cons_self
  have late := others (l := after) (fun j hj => split ▸ List.mem_append_right _ (List.mem_cons_of_mem _ hj))
    (List.nodup_cons.1 (List.Nodup.of_append_right distinct)).1
  rw [enterMinute_eq, split, List.foldl_append, List.foldl_cons, foldl_still early,
    beginMatching_matching written fits]
  exact foldl_still fun j hj => (matching_beginSweep quiet j).not.2 (late j hj)

/-- Row `i` is an entry into the minute that leaves the calendar at `m`, and otherwise changes the ports by `p`; that a
place is reserved for the answer is to be nothing to the entry. -/
def EntersBy (s : State) (i : Instr) (m : Calendar) (p : Ports → Ports) : Prop :=
  enterMinute (reservePlaces { s with calendar := m } 1) = reservePlaces (enterMinute { s with calendar := m }) 1 →
    exec i s = .next (settle settleFuel (onPorts (enterMinute { s with calendar := m }) p))

theorem EntersBy.still (h : EntersBy s i m p) (idle : s.agenda = [])
    (none : ∀ j, j < 8 → ¬ Matching { s with calendar := m } j) :
    exec i s = .next (onPorts { s with calendar := m } p) := by
  have enters := enterMinute_still none
  have reserved : enterMinute (reservePlaces { s with calendar := m } 1) = reservePlaces { s with calendar := m } 1 :=
    enterMinute_still none
  rw [h (by rw [enters, reserved]), enters, settle_nil (s := onPorts { s with calendar := m } p) _ idle]

theorem EntersBy.alone (h : EntersBy s i m p) (quiet : NoNotices s) (hk : k < 8)
    (written : (scheduleAt s k).config = some cfg) (fits : scheduleMatches cfg m = true)
    (others : ∀ j, j < 8 → j ≠ k → ¬ Matching { s with calendar := m } j) :
    exec i s = .next (settle settleFuel (onPorts (beginSweep { s with calendar := m } k cfg) p)) := by
  have enters := enterMinute_alone (s := { s with calendar := m }) quiet hk written fits others
  have reserved := enterMinute_alone (s := reservePlaces { s with calendar := m } 1) quiet hk written fits others
  rw [h (by rw [enters, reserved, beginSweep_reservePlaces (s := { s with calendar := m }) quiet]), enters]

/-! ### The commands and the second (R178, R180, R181) -/

/-- An accepted command that enters a minute. -/
theorem entersBy_command {src : Octet} {tag : Half} {c : Command} {a : ResponseCode}
    (hi : rowCommand i = some (src, tag, c)) (h : Accepts s src 1 .schedule) (hc : IsPlainCommand c .schedule)
    (run : carryOut (reservePlaces s 1) src c = answering (enterMinute { reservePlaces s 1 with calendar := m }, a)) :
    EntersBy s i m (answerPorts src tag (commandCode c) a) := by
  intro steady
  obtain ⟨awake, room, held⟩ := h
  obtain ⟨group, places, notRestart⟩ := hc
  have reserved : enterMinute { reservePlaces s 1 with calendar := m } =
      reservePlaces (enterMinute { s with calendar := m }) 1 := steady
  rw [reserved] at run
  rw [← answered_eq]
  exact exec_carriedOut hi awake room places notRestart (permitted_of_group group held) run
    (keeps_enterMinute (.refl (tk := true) (sl := true) { s with calendar := m })).straps

theorem adjustTime_notSet (h : s.calendar.running = false) : adjustTime s = (s, .state) := if_pos h

theorem adjustTime_drops (running : s.calendar.running = true) (early : s.calendar.second < 30) :
    adjustTime s = ({ s with calendar := { s.calendar with prescaler := 0, second := 0 } }, .done) := by
  rw [adjustTime, if_neg (by rw [running]; nofun)]
  exact if_pos early

theorem adjustTime_carries (running : s.calendar.running = true) (late : 30 ≤ s.calendar.second) : adjustTime s =
    (enterMinute { s with calendar := carryMinute { s.calendar with prescaler := 0, second := 0 } }, .done) := by
  rw [adjustTime, if_neg (by rw [running]; nofun)]
  exact if_neg (Nat.not_lt.2 late)

theorem entersBy_adjustTime {src : Octet} {tag : Half} (h : Accepts s src 1 .schedule)
    (running : s.calendar.running = true) (late : 30 ≤ s.calendar.second) :
    EntersBy s (.adjustTime src tag) (carryMinute { s.calendar with prescaler := 0, second := 0 })
      (answerPorts src tag 19#8 .done) := by
  refine entersBy_command (c := .adjustTime) rfl h ⟨rfl, rfl, nofun⟩ ?_
  exact congrArg answering (adjustTime_carries (s := reservePlaces s 1) running late)

theorem calendarSecond_notSet (h : s.calendar.running = false) : calendarSecond s = s := if_pos h

theorem calendarSecond_counts (running : s.calendar.running = true) (h : s.calendar.second ≠ 59) :
    calendarSecond s = { s with calendar := { s.calendar with prescaler := 0, second := s.calendar.second + 1 } } := by
  refine (if_neg ?_).trans (if_neg h)
  rw [running]
  nofun

theorem calendarSecond_carries (running : s.calendar.running = true) (h : s.calendar.second = 59) : calendarSecond s =
    enterMinute { s with calendar := carryMinute { s.calendar with prescaler := 0, second := 0 } } := by
  refine (if_neg ?_).trans (if_pos h)
  rw [running]
  nofun

theorem onPorts_id (s : State) : onPorts s id = s := rfl

theorem entersBy_calendarSecond (ha : Awake s) (running : s.calendar.running = true) (h : s.calendar.second = 59) :
    EntersBy s .calendarSecond (carryMinute { s.calendar with prescaler := 0, second := 0 }) id := by
  intro _
  rw [onPorts_id, ← calendarSecond_carries running h]
  exact live_of_awake calendarSecond ha.1

/-- Settles O46, by the command or second and the schedules that match the minute entered. -/
theorem calendarTime : Obligations.CalendarTime := by
  unfold Obligations.CalendarTime
  intro s src sec mi h wd d mo tag year accepted c fits enters valid last nextDay nextMinute
  have entering {i : Instr} {m : Calendar} {p : Ports → Ports} (row : EntersBy s i m p) :
      enters i m (fun t => onPorts t p) := by
    refine ⟨fun none => row.still accepted.1.2 fun j hj ⟨cfg, written, matched⟩ =>
      none j cfg hj written (scheduleMatches_iff.1 matched), ?_⟩
    intro k cfg quiet _ hk written matched others r fit runs
    have begins := row.alone quiet hk written (scheduleMatches_iff.2 matched) fun j hj apart ⟨e, there, also⟩ =>
      others j e hj apart there (scheduleMatches_iff.1 also)
    have idle : ({ s with calendar := m } : State).agenda = [] := accepted.1.2
    refine ⟨fun still => ?_, fun holds incomplete full => ?_, fun holds rests alone missing window => ?_⟩
    · have unchanged : beginSweep { s with calendar := m } k cfg = { s with calendar := m } :=
        beginSweep_still quiet (still.imp_left fun unfit => Bool.eq_false_iff.2 fun e => unfit (programFit_iff.1 e))
      rw [begins, unchanged, settle_nil (s := onPorts { s with calendar := m } p) _ idle]
    · have settles := settle_resumed (p := p) idle quiet (programFit_iff.2 holds) written rfl incomplete full
      exact ⟨_, begins.trans (congrArg _ settles), modRun_becomes (s := { s with calendar := m }) written _⟩
    · have settles := settle_skipped (p := p) idle quiet (programFit_iff.2 holds) written rests alone missing window
      exact ⟨_, begins.trans (congrArg _ settles), modRun_becomes (s := { s with calendar := m }) written _⟩
  refine ⟨fun ok => ?_, fun notOk => ?_, fun notSet => ⟨?_, ?_⟩, fun running inRange => ?_⟩
  · exact entering (entersBy_command (c := .setTime sec mi h wd d mo year) rfl accepted ⟨rfl, rfl, nofun⟩
      (congrArg answering (if_pos (validTime_iff.2 ok))))
  · exact exec_refused (c := .setTime sec mi h wd d mo year) rfl accepted ⟨rfl, rfl, nofun⟩
      (congrArg answering (if_neg fun e => notOk (validTime_iff.1 e)))
  · exact exec_refused (c := .adjustTime) rfl accepted ⟨rfl, rfl, nofun⟩
      (congrArg answering (adjustTime_notSet (s := reservePlaces s 1) notSet))
  · exact live_of_effect accepted.1.1 (calendarSecond_notSet notSet) accepted.1.2
  · obtain ⟨-, minute, hour, weekday, -, month, -, -, -, day⟩ := inRange
    let c0 : Calendar := { c with prescaler := 0, second := 0 }
    have carried : carryMinute c0 = nextMinute := by
      by_cases lowMinute : c.minute < 59
      · exact (carryMinute_minute (c := c0) lowMinute.ne).trans (if_pos lowMinute).symm
      have lastMinute : c.minute = 59 := by omega
      by_cases lowHour : c.hour < 23
      · exact (carryMinute_hour (c := c0) lastMinute lowHour.ne).trans
          ((if_neg lowMinute).trans (if_pos lowHour)).symm
      · have lastHour : c.hour = 23 := by omega
        exact (carryMinute_day (c := c0) lastMinute lastHour weekday day month).trans
          ((if_neg lowMinute).trans (if_neg lowHour)).symm
    refine ⟨fun early => ?_, fun late => ?_, fun counts => ?_, fun carries => ?_⟩
    · have drops := adjustTime_drops (s := reservePlaces s 1) running early
      exact exec_settled (c := .adjustTime) (d := { s with calendar := c0 }) rfl accepted ⟨rfl, rfl, nofun⟩
        (congrArg answering drops) rfl rfl
    · rw [← carried]
      exact entering (entersBy_adjustTime accepted running late)
    · exact live_of_effect accepted.1.1 (calendarSecond_counts running counts.ne) accepted.1.2
    · rw [← carried]
      exact entering (entersBy_calendarSecond accepted.1 running carries)

end Sys2Proof.Machine
end

section
/-! PROOFS. The tests of every command, and O36; the notices of a unit and the cells of a record, and O51 and O53. -/

namespace Sys2Proof.Machine
open Sys2Proof

variable {s b : State} {i : Instr} {src : Octet} {tag : Half} {c : Command}

/-! ### The room test and the privilege test (R196, R197) -/

/-- A command that finds too little room is dropped and counted (R196). -/
theorem takeCommand_dropped (short : normalRoom s < answerPlaces (commandCode c)) :
    takeCommand s src tag c = countDropped s .north := if_pos short

/-- A command that is judged without effect gives its places back and only answers. -/
theorem takeCommand_judged {k : Nat} {r : ResponseCode} (places : answerPlaces (commandCode c) = k)
    (room : k ≤ normalRoom s) (stays : ¬ (c = .restart ∧ holdsGroup s src .service = true))
    (judged : judgeCommand (reservePlaces s k) src c = (reservePlaces s k, plainAnswer r)) :
    takeCommand s src tag c = answered s src tag (commandCode c) r := by
  subst places
  rw [takeCommand, if_neg (Nat.not_lt.2 room), if_neg stays, acceptCommand,
    judged, releasePlaces_reservePlaces]
  exact congrArg (fun x => joinNormal s [x]) (responseCell_plain ..)

/-- A command whose group its source does not hold is refused, with no other effect (R197). -/
theorem takeCommand_notHeld {g : CommandGroup} (known : isUnknown c = false)
    (group : groupOfCode (commandCode c) = some g) (room : answerPlaces (commandCode c) ≤ normalRoom s)
    (held : holdsGroup s src g = false) :
    takeCommand s src tag c = answered s src tag (commandCode c) .refusedPrivilege := by
  have stays : ¬ (c = .restart ∧ holdsGroup s src .service = true) := by
    rintro ⟨rfl, service⟩
    cases group
    exact Bool.false_ne_true (held.symm.trans service)
  have forbidden : permitted (reservePlaces s (answerPlaces (commandCode c))) src c = false := by
    simp only [permitted, known, group, Bool.false_or]
    exact held
  exact takeCommand_judged rfl room stays (if_neg (by rw [forbidden]; nofun))

/-- A row of the catalogue takes a command with the catalogue's code, group and answer places. -/
theorem rowCommand_of_commandRow {r : CommandRow} (h : commandRow i = some r) :
    ∃ c, rowCommand i = some (r.src, r.tag, c) ∧ commandCode c = r.code ∧ groupOfCode r.code = some r.group ∧
      answerPlaces r.code = r.places ∧ isUnknown c = false := by
  cases i <;> cases h <;> exact ⟨_, rfl, rfl, rfl, rfl, rfl⟩

/-- Settles O36: the catalogue's row is the interpreter's, which tests the room and then the privilege. -/
theorem commandsTested : Obligations.CommandsTested := by
  unfold Obligations.CommandsTested
  intro s i r ha hr
  obtain ⟨c, row, code, group, places, known⟩ := rowCommand_of_commandRow hr
  rw [exec_of_rowCommand s row, ← places, ← code]
  exact ⟨fun short => live_of_effect ha.1 (takeCommand_dropped short) ha.2,
    fun room held => live_of_effect ha.1 (takeCommand_notHeld known (code ▸ group) room held) ha.2⟩

/-! ### The notices of one unit (R207, R208) -/

theorem unitOf_unitAddress (u : Fin 9) : unitOf (unitAddress u) = some u.val := by
  revert u
  decide

theorem unitOf_eq_none {a : Octet} (h : a ≠ 0x02#8) (out : a.toNat < 0x20 ∨ 0x27 < a.toNat) : unitOf a = none := by
  rw [unitOf, maintenance, if_neg h, if_neg (by omega)]

/-- The kinds of a set octet, each by its bit (section 11.6). -/
theorem kindsOf_eq (o : Octet) :
    kindsOf o = ([(0, NoticeKind.ticket), (1, .cable), (2, .sweep), (3, .bus), (4, .restart)].filter
      (fun k => o.getLsbD k.1)).map (·.2) := by
  have swapped : noticeKinds.zipIdx = [(0, NoticeKind.ticket), (1, .cable), (2, .sweep), (3, .bus),
    (4, .restart)].map Prod.swap := rfl
  rw [kindsOf, swapped, List.filter_map, List.map_map]
  rfl

/-- One unit written in a state with the units of `s`: no other unit changes, and nothing but the units does. -/
theorem putUnit_becomes (u : Nat) (x : NoticeUnit) (same : b.interp = s.interp) :
    unitAt (putUnit b u x) u = x ∧ (∀ k, k ≠ u → unitAt (putUnit b u x) k = unitAt s k) ∧
      putUnit b u x = { b with interp := { s.interp with units := (putUnit b u x).interp.units } } := by
  refine ⟨(unitAt_putUnit ..).trans (if_pos rfl), fun k hk => ?_, ?_⟩
  · rw [unitAt_putUnit, if_neg hk, unitAt, same, unitAt]
  · rw [← same]
    rfl

theorem setNotices_unit {u : Nat} (h : unitOf src = some u) (kinds : Octet) :
    setNotices s src kinds = (putUnit s u
      { mask := kindsOf kinds
        pending := (unitAt s u).pending.filter (fun n => noticeKind n ∈ kindsOf kinds)
        resync := if kindsOf kinds = [] then false else (unitAt s u).resync }, .done) := by
  simp only [setNotices, h]

theorem setNotices_noUnit (h : unitOf src = none) (kinds : Octet) : setNotices s src kinds = (s, .range) := by
  simp only [setNotices, h]

theorem deliverNotice_noRoom (h : normalRoom s = 0) (u : Nat) : deliverNotice s u = s := if_pos h

theorem deliverNotice_resync {u : Nat} (room : 0 < normalRoom s) (h : (unitAt s u).resync = true) :
    deliverNotice s u = putUnit (joinNormal s [resyncCell s u]) u { unitAt s u with resync := false } := by
  rw [deliverNotice, if_neg (by omega)]
  exact if_pos h

theorem deliverNotice_oldest {u : Nat} {n : Notice} {rest : List Notice} (room : 0 < normalRoom s)
    (h : (unitAt s u).resync = false) (pending : (unitAt s u).pending = n :: rest) :
    deliverNotice s u = putUnit (joinNormal s [noticeCell s u n]) u { unitAt s u with pending := rest } := by
  simp only [deliverNotice, if_neg (Nat.pos_iff_ne_zero.1 room), h, pending, Bool.false_eq_true, if_false]

/-- Settles O51: SET_NOTICES by its source, NOTICE_DELIVERY by the room and the RESYNC mark. -/
theorem noticeMasksAndDelivery : Obligations.NoticeMasksAndDelivery := by
  unfold Obligations.NoticeMasksAndDelivery
  intro s src kinds tag u n rest ha x address mask becomes
  have delivers {t : State} (run : deliverNotice s u = t) (idle : t.agenda = s.agenda) :
      exec (.noticeDelivery u) s = .next t :=
    live_of_effect (f := fun s => deliverNotice s u) ha.1 run (idle.trans ha.2)
  refine ⟨fun room held unit => ?_, fun room held other out => ?_, fun room resync => ?_,
    fun room quiet pending => ?_, fun full => delivers (deliverNotice_noRoom full u) rfl⟩
  · have run := setNotices_unit (s := reservePlaces s 1)
      ((congrArg unitOf unit).trans (unitOf_unitAddress u)) kinds
    rw [kindsOf_eq] at run
    exact ⟨putUnit s u _, exec_settled (c := .setNotices kinds) rfl ⟨ha, room, held⟩ ⟨rfl, rfl, nofun⟩
      (congrArg answering run) rfl rfl, putUnit_becomes u _ rfl⟩
  · exact exec_refused (c := .setNotices kinds) rfl ⟨ha, room, held⟩ ⟨rfl, rfl, nofun⟩
      (congrArg answering (setNotices_noUnit (unitOf_eq_none other out) kinds))
  · exact ⟨_, delivers (deliverNotice_resync room resync) rfl, putUnit_becomes u _ rfl⟩
  · exact ⟨_, delivers (deliverNotice_oldest room quiet pending) rfl, putUnit_becomes u _ rfl⟩

/-! ### The cells of a record (R206) -/

section
variable {n sent : Nat} {order : List Nat} {r : ResultRecord} {x : Recipient} {more : List Recipient}

theorem resultCells_header (own : Octet) :
    (resultCells own r x)[0]? = some (makeCell 0x54#8 own x.unit (headerPayload r x.tag)) := rfl

theorem resultCells_step {y : StepResult} (own : Octet) (h : r.results[sent - 1]? = some y) (hs : 1 ≤ sent) :
    (resultCells own r x)[sent]? = some (makeCell 0x55#8 own x.unit (stepPayload sent y)) := by
  obtain ⟨k, rfl⟩ : ∃ k, sent = k + 1 := ⟨sent - 1, by omega⟩
  obtain ⟨low, _⟩ := List.getElem?_eq_some_iff.1 h
  rw [resultCells, List.append_assoc, List.singleton_append, List.getElem?_cons_succ,
    List.getElem?_append_left (by simpa using low), List.getElem?_map, List.getElem?_zipIdx]
  simp only [Nat.add_sub_cancel] at h
  simp only [h, Option.map_some, Nat.zero_add]
  rfl

theorem resultCells_closing (own : Octet) : (resultCells own r x)[r.results.length + 1]? =
    some (makeCell 0x56#8 own x.unit (closingPayload r)) := by
  rw [resultCells, List.getElem?_append_right (by simp)]
  simp
  rfl

theorem deliverResult_noRoom (h : normalRoom s = 0) : deliverResult s = s := if_pos h

/-- A RESULT cell sent to the first recipient of the oldest FILLED record, by how many are left. -/
theorem deliverResult_sends {cell : Cell} (room : 0 < normalRoom s) (filling : s.interp.fillingOrder = n :: order)
    (slot : slotAt s n = .filled r (x :: more) sent) (sends : (resultCells (own s) r x)[sent]? = some cell) :
    deliverResult s =
      if sent + 1 < r.results.length + 2 then
        putSlot (joinNormal s [cell]) n (.filled r (x :: more) (sent + 1))
      else if more ≠ [] then putSlot (joinNormal s [cell]) n (.filled r more 0)
      else releaseSlot (onInterp (joinNormal s [cell]) (fun i => { i with fillingOrder := order })) n := by
  simp only [deliverResult, if_neg (Nat.pos_iff_ne_zero.1 room), filling, slot, sends, Option.toList_some,
    resultCells_length]

/-- One slot written in a state with the slots of `s`: no other slot changes, and the filling order is `b`'s. -/
theorem putSlot_becomes {filling : List Nat} (n : Nat) (slot : Slot)
    (same : b.interp = { s.interp with fillingOrder := filling }) :
    slotAt (putSlot b n slot) n = slot ∧ (∀ k, k ≠ n → slotAt (putSlot b n slot) k = slotAt s k) ∧
      putSlot b n slot = { b with interp := { s.interp with
        slots := (putSlot b n slot).interp.slots, fillingOrder := filling } } := by
  refine ⟨(slotAt_putSlot ..).trans (if_pos rfl), fun k hk => ?_, ?_⟩
  · rw [slotAt_putSlot, if_neg hk, slotAt, same, slotAt]
  · simp only [putSlot, onInterp, same]

end

/-- Settles O53: the cell that is next of the recipient's, and then what it leaves to send. -/
theorem resultDelivered : Obligations.ResultDelivered := by
  unfold Obligations.ResultDelivered
  intro s n sent order r x more c ha filling slot becomes
  have kept : (joinNormal s [c]).interp = { s.interp with fillingOrder := n :: order } := by
    rw [← filling]
    rfl
  have continues (room : 0 < normalRoom s) (sends : (resultCells (own s) r x)[sent]? = some c)
      (left : sent + 1 < r.results.length + 2) :
      ∃ t, exec .resultDelivery s = .next t ∧ becomes (.filled r (x :: more) (sent + 1)) (n :: order) t :=
    ⟨_, live_of_effect ha.1 ((deliverResult_sends room filling slot sends).trans (if_pos left)) ha.2,
      putSlot_becomes n _ kept⟩
  refine ⟨fun full => live_of_effect ha.1 (deliverResult_noRoom full) ha.2, fun room first cell => ?_,
    fun room y step later cell => ?_, fun room last cell => ⟨fun others => ?_, fun alone quiet => ?_⟩⟩
  · subst first cell
    exact continues room (resultCells_header _) (by omega)
  · subst cell
    obtain ⟨low, _⟩ := List.getElem?_eq_some_iff.1 step
    exact continues room (resultCells_step _ step later) (by omega)
  · subst last cell
    have sent := deliverResult_sends room filling slot (resultCells_closing _)
    rw [if_neg (Nat.lt_irrefl _), if_pos others] at sent
    exact ⟨_, live_of_effect ha.1 sent ha.2, putSlot_becomes n _ kept⟩
  · subst last cell
    have sent := deliverResult_sends room filling slot (resultCells_closing _)
    rw [if_neg (Nat.lt_irrefl _), if_neg (not_not_intro alone)] at sent
    have step := live_of_hands ha sent (hands_examineLater _) (by decide) (.inl quiet)
    exact ⟨_, step, putSlot_becomes (filling := order) n .free rfl⟩

end Sys2Proof.Machine
end

section
/-! PROOFS. The pace timer and the cells it takes: whole commands, the parts of others and cells that break an assembly,
and O52. -/

namespace Sys2Proof.Machine
open Sys2Proof

variable {s t : State} {i : Instr} {src : Octet} {tag : Half} {c : Cell} {rest : List Cell} {ms : Nat}

/-! ### A command of another number of parts than its own (R213) -/

theorem wholeCommand_unknown {code : Octet} (out : code.toNat = 0 ∨ 34 < code.toNat) (parts : Nat) (a : List Octet) :
    wholeCommand code parts a = .unknown code := by
  have none : groupOfCode code = none := by
    unfold groupOfCode
    dsimp only
    rcases out with zero | large
    · rw [if_pos zero]
    · repeat rw [if_neg (by omega)]
  rw [wholeCommand, none]
  rfl

theorem wholeCommand_wrongParts {code : Octet} {g : CommandGroup} (group : groupOfCode code = some g) {parts : Nat}
    (wrong : parts ≠ ownParts code) (a : List Octet) : wholeCommand code parts a = .wrongParts code := by
  rw [wholeCommand, group, if_neg nofun, if_pos wrong]

/-- A cell that breaks an assembly is answered RANGE whatever its source may do. -/
theorem takeCommand_unknown {code : Octet} (room : answerPlaces code ≤ normalRoom s) :
    takeCommand s src tag (.unknown code) = answered s src tag code .range :=
  takeCommand_judged (c := .unknown code) rfl room (fun h => nomatch h.1) rfl

/-- A command of a wrong number of parts is answered RANGE once its privilege is tested (R197). -/
theorem takeCommand_wrongParts {code : Octet} {g : CommandGroup} (group : groupOfCode code = some g)
    (room : answerPlaces code ≤ normalRoom s) : takeCommand s src tag (.wrongParts code) =
      answered s src tag code (if holdsGroup s src g then .range else .refusedPrivilege) := by
  cases held : holdsGroup s src g with
  | false => exact takeCommand_notHeld (c := .wrongParts code) rfl group room held
  | true =>
    exact takeCommand_judged (c := .wrongParts code) rfl room (fun h => nomatch h.1)
      (if_pos (permitted_of_group (s := reservePlaces s _) (c := .wrongParts code) group held))

/-- WRITE_PROFILE and WRITE_SCHEDULE are the commands of more than one part. -/
theorem wrongParts_alone {code : Octet} (h : code.toNat = 9 ∨ code.toNat = 15) :
    groupOfCode code = some (if code.toNat = 9 then .table else .schedule) ∧ 1 ≠ ownParts code ∧
      answerPlaces code = 1 := by
  obtain rfl | rfl : code = 9#8 ∨ code = 15#8 := h.imp BitVec.eq_of_toNat_eq BitVec.eq_of_toNat_eq
  · exact ⟨rfl, nofun, rfl⟩
  · exact ⟨rfl, nofun, rfl⟩

/-! ### WRITE_PROGRAM and TICKET_LIST read (section 11.6) -/

section
variable {a : List Octet}

/-- The step that a cell of WRITE_PROGRAM packs. -/
def packedStep (a : List Octet) : RawStep :=
  { kind := (arg1 a 2).toNat / 16, leg := (arg1 a 2).toNat / 4 % 4, stimulus := arg3 a 3, window := arg1 a 6
    digits := arg1 a 7 }

theorem programCommand_clear (h : arg1 a 1 = 0#8) : programCommand a = .writeProgramClear (arg1 a 0) := by
  rw [programCommand, h]
  rfl

theorem programCommand_step (index : (arg1 a 1).toNat / 16 ≠ 0) (steps : (arg1 a 1).toNat % 16 = 0) :
    programCommand a = .writeProgramStep (arg1 a 0) ((arg1 a 1).toNat / 16) (packedStep a) :=
  (if_neg fun h => index h.1).trans (if_pos steps)

theorem programCommand_final (steps : (arg1 a 1).toNat % 16 ≠ 0) :
    programCommand a = .writeProgramFinal (arg1 a 0) ((arg1 a 1).toNat / 16) ((arg1 a 1).toNat % 16)
      ((arg1 a 2).toNat % 2 = 1) (packedStep a) :=
  (if_neg fun h => steps h.2).trans (if_neg steps)

theorem readCommand_ticketList_start (h : arg1 a 0 = 0xFF#8) : readCommand 23#8 a = .ticketList .start :=
  congrArg Command.ticketList (if_pos h)

theorem readCommand_ticketList_after (h : arg1 a 0 = 0#8) : readCommand 23#8 a = .ticketList (.after (arg1 a 1)) :=
  congrArg Command.ticketList ((if_neg (by rw [h]; nofun)).trans (if_pos h))

theorem readCommand_ticketList_other (h : arg1 a 0 ∉ [0xFF#8, 0#8]) : readCommand 23#8 a = .ticketList .other := by
  rw [List.mem_pair, not_or] at h
  exact congrArg Command.ticketList ((if_neg h.1).trans (if_neg h.2))

end

/-! ### The octets of one part -/

theorem arg1_part (c : Cell) : (fun k => payloadAt c (4 + k)) = arg1 (c.payload.drop 4) := by
  funext k
  simp only [payloadAt, arg1, List.getD_eq_getElem?_getD, List.getElem?_drop]

theorem arg1_part_apply (c : Cell) (k : Nat) : payloadAt c (4 + k) = arg1 (c.payload.drop 4) k :=
  congrFun (arg1_part c) k

theorem arg2_part (c : Cell) : (fun k => field2 c (4 + k)) = arg2 (c.payload.drop 4) := by
  funext k
  rw [arg2, ← arg1_part_apply, ← arg1_part_apply]
  rfl

theorem arg3_part (c : Cell) (k : Nat) : field3 c (4 + k) = arg3 (c.payload.drop 4) k := by
  rw [arg3, ← arg1_part_apply, ← arg1_part_apply, ← arg1_part_apply]
  rfl

/-! ### The cell taken (R213) -/

/-- The number of a cell's part, and how many parts its command has. -/
def partNumber (c : Cell) : Nat := (payloadAt c 3).toNat / 16
def partCount (c : Cell) : Nat := (payloadAt c 3).toNat % 16

/-- The assembly that a first part begins. -/
def firstPart (c : Cell) : Assembly :=
  { source := c.src, tag := field2 c 0, code := payloadAt c 2, count := partCount c, parts := [c.payload.drop 4] }

/-- A cell continues an assembly of its source. -/
def Continued (c : Cell) (a : Assembly) : Prop :=
  a.tag = field2 c 0 ∧ a.code = payloadAt c 2 ∧ a.count = partCount c ∧ partNumber c = a.parts.length + 1 ∧
    partNumber c ≤ partCount c

theorem continues_iff {a : Assembly} :
    continues a (field2 c 0) (payloadAt c 2) (partNumber c) (partCount c) = true ↔ Continued c a := decide_eq_true_iff

theorem takeCommandCell_whole (first : partNumber c = 1) (only : partCount c = 1) : takeCommandCell t c =
    takeCommand t c.src (field2 c 0) (wholeCommand (payloadAt c 2) 1 (c.payload.drop 4)) := if_pos ⟨first, only⟩

theorem takeCommandCell_first (first : partNumber c = 1) (more : 2 ≤ partCount c) :
    takeCommandCell t c = putAssembly t (firstPart c) :=
  (if_neg fun h => by have only : partCount c = 1 := h.2; omega).trans (if_pos ⟨first, more⟩)

/-- A cell that is neither whole nor a first part meets the assembly that its source has. -/
theorem takeCommandCell_held {x : Assembly} (later : ¬ (partNumber c = 1 ∧ 1 ≤ partCount c))
    (held : assemblyOf t c.src = some x) : takeCommandCell t c =
      if continues x (field2 c 0) (payloadAt c 2) (partNumber c) (partCount c) then
        if partNumber c < partCount c then putAssembly t { x with parts := x.parts ++ [c.payload.drop 4] }
        else takeCommand (dropAssembly t c.src) c.src (field2 c 0)
          (wholeCommand (payloadAt c 2) (partCount c) (x.parts.flatten ++ c.payload.drop 4))
      else takeCommand (dropAssembly t c.src) c.src (field2 c 0) (.unknown (payloadAt c 2)) := by
  refine (if_neg fun h => later ⟨h.1, Nat.le_of_eq h.2.symm⟩).trans
    ((if_neg fun h => later ⟨h.1, Nat.le_of_succ_le h.2⟩).trans ?_)
  rw [held]
  rfl

theorem takeCommandCell_notHeld (later : ¬ (partNumber c = 1 ∧ 1 ≤ partCount c))
    (none : assemblyOf t c.src = none) :
    takeCommandCell t c = takeCommand t c.src (field2 c 0) (.unknown (payloadAt c 2)) := by
  refine (if_neg fun h => later ⟨h.1, Nat.le_of_eq h.2.symm⟩).trans
    ((if_neg fun h => later ⟨h.1, Nat.le_of_succ_le h.2⟩).trans ?_)
  rw [none]

section
variable {x : Assembly} (held : assemblyOf t c.src = some x) (later : 2 ≤ partNumber c) (goesOn : Continued c x)
include held later goesOn

theorem takeCommandCell_added (more : partNumber c < partCount c) :
    takeCommandCell t c = putAssembly t { x with parts := x.parts ++ [c.payload.drop 4] } := by
  rw [takeCommandCell_held (by omega) held]
  exact (if_pos (continues_iff.2 goesOn)).trans (if_pos more)

theorem takeCommandCell_last (last : partNumber c = partCount c) : takeCommandCell t c =
    takeCommand (dropAssembly t c.src) c.src (field2 c 0)
      (wholeCommand (payloadAt c 2) (partCount c) (x.parts.flatten ++ c.payload.drop 4)) := by
  rw [takeCommandCell_held (by omega) held]
  exact (if_pos (continues_iff.2 goesOn)).trans (if_neg (by omega))

end

theorem dropAssembly_of_none (h : assemblyOf t src = none) : dropAssembly t src = t := by
  have kept : t.interp.assemblies.filter (fun x => x.source ≠ src) = t.interp.assemblies :=
    List.filter_eq_self.2 fun a ha => by simpa using List.find?_eq_none.1 h a ha
  rw [dropAssembly, onInterp, kept]

/-- A cell that neither begins nor continues an assembly ends its source's. -/
theorem takeCommandCell_breaks (h : partNumber c = 0 ∨ (partNumber c = 1 ∧ partCount c = 0) ∨
      (2 ≤ partNumber c ∧ ∀ a, assemblyOf t c.src = some a → ¬ Continued c a)) :
    takeCommandCell t c =
      takeCommand (dropAssembly t c.src) c.src (field2 c 0) (.unknown (payloadAt c 2)) := by
  have broken (a : Assembly) (held : assemblyOf t c.src = some a) : ¬ Continued c a := by
    rintro ⟨same, code, parts, next, within⟩
    rcases h with zero | ⟨one, none⟩ | ⟨_, off⟩
    · omega
    · omega
    · exact off a held ⟨same, code, parts, next, within⟩
  cases held : assemblyOf t c.src with
  | none => rw [dropAssembly_of_none held, takeCommandCell_notHeld (by omega) held]
  | some x =>
    rw [takeCommandCell_held (by omega) held]
    exact if_neg fun h => broken x held (continues_iff.1 h)

/-- A part put for a source stands behind the assemblies of the others. -/
theorem putAssembly_eq {x : Assembly} (own : x.source = src) : putAssembly t x = { t with interp := { t.interp with
    assemblies := t.interp.assemblies.filter (fun a => a.source ≠ src) ++ [x] } } := by
  subst own
  rfl

theorem source_of_assemblyOf {x : Assembly} (h : assemblyOf t src = some x) : x.source = src := by
  simpa using List.find?_some h

/-! ### The pace timer (R196) -/

/-- The oldest entry of the intake FIFO has left it, and the pace timer runs again. -/
def entryTaken (s : State) (rest : List Cell) : State :=
  { s with ports := { s.ports with intake := rest }, interp := { s.interp with pace := .running 1 } }

section
variable (ha : Awake s) (hp : s.interp.pace = .running ms)
include ha hp

theorem exec_pace_waits (empty : s.ports.intake = []) :
    exec .paceTimerExpiry s = .next { s with interp := { s.interp with pace := .waiting } } := by
  have waits : paceExpired s = putPace s .waiting := by simp only [paceExpired, empty]
  rw [exec_paceTimerExpiry hp ha.1, waits, settle_nil _ (show (putPace s .waiting).agenda = [] from ha.2)]
  rfl

theorem exec_pace_takes (held : s.ports.intake = c :: rest) :
    exec .paceTimerExpiry s = live (fun t => takeCommandCell t c) (entryTaken s rest) := by
  have takes : paceExpired s = takeCommandCell (entryTaken s rest) c := by
    simp only [paceExpired, held]
    rfl
  rw [exec_paceTimerExpiry hp ha.1, takes,
    live_of_awake _ (show (entryTaken s rest).ports.resetAsserted = false from ha.1)]

/-- An entry whose effect is known and hands nothing on. -/
theorem exec_pace_effect (held : s.ports.intake = c :: rest) (run : takeCommandCell (entryTaken s rest) c = t)
    (idle : t.agenda = s.agenda) : exec .paceTimerExpiry s = .next t := by
  rw [exec_pace_takes ha hp held]
  exact live_of_effect ha.1 run (idle.trans ha.2)

/-- An entry that brings a command is that command's row, on the state its cell leaves. -/
theorem exec_pace_runs {d : State} {x : Command} (held : s.ports.intake = c :: rest)
    (run : takeCommandCell (entryTaken s rest) c = takeCommand d c.src (field2 c 0) x)
    (up : d.ports.resetAsserted = s.ports.resetAsserted) (hi : rowCommand i = some (c.src, field2 c 0, x)) :
    exec .paceTimerExpiry s = exec i d := by
  rw [exec_pace_takes ha hp held, exec_of_rowCommand d hi, live_of_awake (s := entryTaken s rest) _ ha.1,
    live_of_awake _ (up.trans ha.1), run]

end

/-- Settles O52: the entry by its part octet, a whole command by its code, a later part by its source's assembly. -/
theorem paceTimerTakesEntry : Obligations.PaceTimerTakesEntry := by
  unfold Obligations.PaceTimerTakesEntry
  intro s c rest ms ha hp n count taken tag code
  refine ⟨exec_pace_waits ha hp,
    fun entry first more => exec_pace_effect ha hp entry (takeCommandCell_first first more) rfl,
    fun entry part => ?_, fun entry => ?_⟩
  · have first : partNumber c = 1 := congrArg (fun o : Octet => o.toNat / 16) part
    have only : partCount c = 1 := congrArg (fun o : Octet => o.toNat % 16) part
    have read {i : Instr} {x : Command} (whole : wholeCommand (payloadAt c 2) 1 (c.payload.drop 4) = x)
        (hi : rowCommand i = some (c.src, tag, x)) : exec .paceTimerExpiry s = exec i taken :=
      exec_pace_runs ha hp entry ((takeCommandCell_whole first only).trans (congrArg _ whole)) rfl hi
    have coded {k : Nat} {i : Instr} {x : Command} (e : code = k)
        (whole : wholeCommand (BitVec.ofNat 8 k) 1 (c.payload.drop 4) = x) (hi : rowCommand i = some (c.src, tag, x)) :
        exec .paceTimerExpiry s = exec i taken := by
      subst e
      rw [BitVec.ofNat_toNat, BitVec.setWidth_eq] at whole
      exact read whole hi
    intro a h
    have octets : a = arg1 (c.payload.drop 4) := arg1_part c
    have pairs : h = arg2 (c.payload.drop 4) := arg2_part c
    clear_value a h
    subst octets pairs
    rw [show field3 c 4 = _ from arg3_part c 0, show field3 c 7 = _ from arg3_part c 3]
    intro index steps shape raw runs
    refine ⟨fun out => read (wholeCommand_unknown out 1 _) rfl, ?_⟩
    -- the thirty codes whose fields are read alike in every cell
    iterate 30 refine ⟨fun e => coded e rfl rfl, ?_⟩
    exact ⟨fun e => ⟨fun clear => coded e (programCommand_clear clear) rfl,
        fun low none => coded e (programCommand_step low none) rfl,
        fun some => coded e (programCommand_final some) rfl⟩,
      fun e => ⟨fun start => coded e (readCommand_ticketList_start start) rfl,
        fun after => coded e (readCommand_ticketList_after after) rfl,
        fun other => coded e (readCommand_ticketList_other other) rfl⟩⟩
  · intro held others ended continued
    have short {x : Command} (run : takeCommandCell taken c = takeCommand ended c.src tag x)
        (room : normalRoom s < answerPlaces (commandCode x)) :
        exec .paceTimerExpiry s = .next (countDropped ended .north) :=
      exec_pace_effect ha hp entry (run.trans (takeCommand_dropped room)) rfl
    refine ⟨fun a found later goesOn => ?_, fun off => ?_, fun first only alone room => ?_⟩
    · intro octets o1 o2 o3 o4
      have whole {k m : Nat} {i : Instr} (last : n = count) (e : code = k) (parts : count = m)
          (hi : rowCommand i = some (c.src, tag, wholeCommand (BitVec.ofNat 8 k) m octets)) :
          exec .paceTimerExpiry s = exec i ended := by
        subst e parts
        rw [BitVec.ofNat_toNat, BitVec.setWidth_eq] at hi
        exact exec_pace_runs ha hp entry (takeCommandCell_last found later goesOn last) rfl hi
      have added (more : n < count) := (takeCommandCell_added (t := taken) found later goesOn more).trans
        (putAssembly_eq (source_of_assemblyOf (t := taken) (x := a) found))
      refine ⟨fun more => exec_pace_effect ha hp entry (added more) rfl,
        fun last nine five => whole last nine five rfl, fun last fifteen three => whole last fifteen three rfl,
        fun g last group wrong => ?_⟩
      have run := takeCommandCell_last (t := taken) found later goesOn last
      rw [wholeCommand_wrongParts group (parts := partCount c) wrong] at run
      exact ⟨short run,
        fun room => exec_pace_effect ha hp entry (run.trans (takeCommand_wrongParts group room)) rfl⟩
    · have run := takeCommandCell_breaks (t := taken) off
      exact ⟨short run, fun room => exec_pace_effect ha hp entry (run.trans (takeCommand_unknown room)) rfl⟩
    · obtain ⟨group, wrong, places⟩ := wrongParts_alone alone
      have run := takeCommandCell_whole (t := taken) first only
      rw [wholeCommand_wrongParts group wrong] at run
      exact exec_pace_effect ha hp entry (run.trans (takeCommand_wrongParts group (places ▸ room))) rfl

end Sys2Proof.Machine
end

section
/-! PROOFS. A step by what it takes: the command in front, the row that is due, or a millisecond of every timer; and a
second of the line ages. -/

namespace Sys2Proof.Machine
open Sys2Proof

variable {s : State} {i : Instr}

/-! ### The command in front, and what is due without one -/

/-- Settles O1: a step takes the command in front, whatever waits behind it. -/
theorem stepTakesFrontCommand : Obligations.StepTakesFrontCommand := by
  intro s i rest front
  rw [step, front]

theorem step_of_empty (empty : s.pending = []) : step s = idle s := by rw [step, empty]

theorem idle_of_reset (reset : s.ports.resetAsserted = true) : idle s = .next s := if_pos reset

theorem idle_of_due (awake : s.ports.resetAsserted = false) (due : dueRow s = some i) : idle s = exec i s := by
  simp only [idle, awake, due, Bool.false_eq_true, if_false]

theorem idle_of_nothingDue (awake : s.ports.resetAsserted = false) (nothing : dueRow s = none) :
    idle s = .next (tick s) := by
  simp only [idle, awake, nothing, Bool.false_eq_true, if_false]

/-! ### A millisecond of each entry -/

section
variable (s)

theorem shelfAt_tick {n : Nat} (h : n < 16) : shelfAt (tick s) n = tickShelf (shelfAt s n) :=
  (shelves_tick s n).trans (if_pos h)

theorem busAt_tick {b : Nat} (h : b < 4) : busAt (tick s) b = tickBus (busAt s b) := by
  simp only [busAt, tick, tickEngine, tabGet_tabAll, h, if_true]

theorem windowAt_tick {b : Nat} (h : b < 4) :
    windowAt (tick s) b = (windowAt s b).map fun w => { w with silence := down w.silence } := by
  simp only [windowAt, tick, tickMeas, tabGet_tabAll, h, if_true]

theorem checkerAt_tick {b : Nat} (h : b < 4) :
    checkerAt (tick s) b = { checkerAt s b with timer := (checkerAt s b).timer - 1 } := by
  simp only [checkerAt, tick, tickMeas, tabGet_tabAll, h, if_true]

theorem sessionAt_tick {id : Nat} (h : id < 8) :
    sessionAt (tick s) id = (sessionAt s id).map fun x => { x with dialTimer := down x.dialTimer } := by
  simp only [sessionAt, tick, tickEngine, tabGet_tabAll, h, if_true]

theorem collectorAt_tick {id : Nat} (h : id < 8) :
    collectorAt (tick s) id = { collectorAt s id with timer := down (collectorAt s id).timer } := by
  simp only [collectorAt, tick, tickMeas, tabGet_tabAll, h, if_true]

theorem scheduleAt_tick {n : Nat} (h : n < 8) : scheduleAt (tick s) n = { scheduleAt s n with
    run := { (scheduleAt s n).run with timer := down (scheduleAt s n).run.timer } } := by
  simp only [scheduleAt, tick, tabGet_tabAll, h, if_true]

theorem bufferAt_tick {n : Nat} (h : n < 32) :
    bufferAt (tick s) n = (bufferAt s n).map fun x => { x with timer := x.timer - 1 } := by
  simp only [bufferAt, tick, tabGet_tabAll, h, if_true]

/-! ### A millisecond of what no table holds -/

/-- The waiting demand requests alone have a timer (R81). -/
theorem waits_tick : (tick s).arbiter.queue = s.arbiter.queue.map fun x =>
    if x.cls = .demand then { x with waitMs := x.waitMs - 1 } else x := by
  simp only [tick, isDemand, decide_eq_true_eq]

theorem calendar_tick_prescaler : (tick s).calendar = { s.calendar with
    prescaler := if s.calendar.running then s.calendar.prescaler + 1 else s.calendar.prescaler } := by
  cases running : s.calendar.running with
  | true => exact if_pos running
  | false => exact if_neg (by rw [running]; nofun)

end

/-- Settles O2: `idle`'s three cases, the millisecond taken timer by timer. -/
theorem stepWithoutCommand : Obligations.StepWithoutCommand := by
  intro s empty
  rw [step_of_empty empty]
  refine ⟨idle_of_reset, fun awake i => idle_of_due awake, fun awake nothing => ?_⟩
  refine ⟨tick s, idle_of_nothingDue awake nothing, fun _ => shelfAt_tick s,
    fun _ h => ⟨busAt_tick s h, windowAt_tick s h, checkerAt_tick s h⟩,
    fun _ h => ⟨sessionAt_tick s h, collectorAt_tick s h, scheduleAt_tick s h⟩, fun _ => bufferAt_tick s, ?_⟩
  rw [← waits_tick, ← calendar_tick_prescaler]
  dsimp only [tick, tickEngine]
  rfl

/-! ### A second of the line ages (section 2.1) -/

theorem exec_lineAgeSecond (awake : Awake s) : exec .lineAgeSecond s =
    .next { s with tracker := { s.tracker with ageClock := s.tracker.ageClock + 1 }, ageMs := 0 } := by
  show execLineAgeSecond s = _
  exact live_of_settled awake.1 awake.2

/-- Settles O35: the clock of the ages is a second on, and no line was written after it. -/
theorem lineAgeSecond : Obligations.LineAgeSecond := by
  intro s awake written
  refine ⟨_, exec_lineAgeSecond awake, fun len => ?_, rfl⟩
  have before : (lineOf s len).writtenAt ≤ s.tracker.ageClock := written len
  show min (s.tracker.ageClock + 1 - (lineOf s len).writtenAt) 65535 =
    min (min (s.tracker.ageClock - (lineOf s len).writtenAt) 65535 + 1) 65535
  omega

end Sys2Proof.Machine
end
